-- ==== Sys2Proof/Word.lean ====
section
/-!
DEFINITION. Word.lean: the word types of the EZ2580 model and their plainest arithmetic.
A management register is 64 bits, a descriptor or command record 64 bytes, a vector register 256 lanes of 32 bits,
a predicate 256 bits, an accumulator tile 128 x 64 words of 32 bits (spec 00, 03).
-/
namespace Sys2Proof

/-- A byte. -/
abbrev Byte := BitVec 8
/-- A 64-bit register or scalar. -/
abbrev Word := BitVec 64
/-- A 64-byte descriptor or command record; byte `k` is bits `8k+7 .. 8k` (little-endian, spec 00). -/
abbrev Rec := BitVec 512
/-- A vector register: lane `i` is bits `32i+31 .. 32i` (spec 03, register files). -/
abbrev VReg := BitVec 8192
/-- A predicate register, one bit a lane. -/
abbrev PReg := BitVec 256
/-- An accumulator tile: word `64 r + n` is row `r`, column `n`. -/
abbrev Tile := BitVec 262144

/-- Bits `lo + n - 1 .. lo` of a natural number. -/
def bits (x lo n : Nat) : Nat := (x >>> lo) % 2 ^ n
/-- Bit `k` of a natural number. -/
def bit (x k : Nat) : Bool := (x >>> k) % 2 == 1
/-- `n` bytes of a record from byte `k`, as a little-endian number. -/
def Rec.u (r : Rec) (k n : Nat) : Nat := bits r.toNat (8 * k) (8 * n)
/-- 1 for true. -/
def b2n (b : Bool) : Nat := if b then 1 else 0
/-- Two's-complement reading of the low `w` bits. -/
def sx (w x : Nat) : Int := let y := x % 2 ^ w; if y < 2 ^ (w - 1) then (y : Int) else (y : Int) - (2 ^ w : Nat)
/-- Reduction of an integer to `w` bits. -/
def wrapN (w : Nat) (x : Int) : Nat := (x % ((2 ^ w : Nat) : Int)).toNat
/-- `lo ≤ x ≤ hi`, clamped. -/
def clamp (lo hi x : Nat) : Nat := if x < lo then lo else if hi < x then hi else x
/-- Saturating addition at `2^w - 1`. -/
def satAdd (w x y : Nat) : Nat := Nat.min (x + y) (2 ^ w - 1)
/-- Quotient rounded up. -/
def cdiv (a b : Nat) : Nat := (a + b - 1) / b

end Sys2Proof
end

