-- ==== Sys2Proof/Format.lean ====
section
/-!
DEFINITION. Format.lean: the operand forms of the commands.
A command of a cell names the physical cell and the thread that issues it and carries the fields of its instruction
word (spec 03); a ring command carries the partition and its 64-byte record; every other command carries what the
event brings from outside, or the unit whose timer or engine acts.
-/
namespace Sys2Proof

/-- Who issues a word: physical cell, thread, and the guard of the common header (R68). -/
structure Who where
  cell : Fin 800
  thr : Fin 8
  pred : BitVec 3
  pneg : Bool
  deriving DecidableEq, Repr

/-- Format F-R (spec 03). -/
structure FR where
  w : Who
  d : BitVec 5
  a : BitVec 5
  b : BitVec 5
  c : BitVec 5
  typ : BitVec 4
  mod : BitVec 8
  sr : Bool
  deriving DecidableEq, Repr

/-- Format F-I. -/
structure FI where
  w : Who
  d : BitVec 5
  a : BitVec 5
  typ : BitVec 4
  imm : BitVec 32
  deriving DecidableEq, Repr

/-- Format F-M. -/
structure FM where
  w : Who
  data : BitVec 5
  base : BitVec 5
  buf : BitVec 8
  size : BitVec 3
  tag : BitVec 2
  off : BitVec 23
  deriving DecidableEq, Repr

/-- Format F-B. -/
structure FB where
  w : Who
  a : BitVec 5
  b : BitVec 5
  cond : BitVec 4
  disp : BitVec 32
  deriving DecidableEq, Repr

/-- Format F-D. -/
structure FD where
  w : Who
  token : BitVec 4
  base : BitVec 5
  buf : BitVec 8
  off : BitVec 23
  deriving DecidableEq, Repr

/-- The entry points of management requests (R391, R452, R485): hub firmware; a card function, with the TAG that its
answer echoes (R469); the I3C target, with the SEQ that its answer echoes (R483). -/
inductive Path where
  | firmware
  | kwasar (func : Fin 16) (tag : BitVec 16)
  | i3c (seq : BitVec 8)
  deriving DecidableEq, Repr

/-- The I3C common commands that the target implements (R482), with what the controller sends. -/
inductive Ccc where
  | enec (int : Bool)
  | disec (int : Bool)
  | entdaa (addr : BitVec 7)
  | setdasa (addr : BitVec 7)
  | rstdaa
  | setmwl (n : BitVec 16)
  | getmwl
  | getmrl
  | getpid
  | getbcr
  | getdcr
  | getstatus
  deriving DecidableEq, Repr

/-- A string of bytes: its length and its little-endian value. -/
structure Bytes where
  len : Nat
  val : Nat
  deriving DecidableEq, Repr

end Sys2Proof
end

