-- ==== Sys2Proof/Syntax.lean ====
section
/-!
DEFINITION. Syntax.lean: the commands of the EZ2580, one constructor for each row of the opcode table, in its order.
An instruction of a cell carries the cell and thread that issue it and its fields; a ring command its partition and
64-byte record; a management command its path and operands; an event what it brings from outside, or the unit that acts.
-/
namespace Sys2Proof

/-- A command. -/
inductive Instr where
  /-- `REGISTER_WRITE` (R53). -/
  | registerWrite (p : Path) (addr : BitVec 32) (size : BitVec 4) (data : Word)
  /-- `S_ADD` (R70). -/
  | sAdd (f : FR)
  /-- `S_SUB` (R70). -/
  | sSub (f : FR)
  /-- `S_MUL` (R70). -/
  | sMul (f : FR)
  /-- `S_MULH` (R70). -/
  | sMulh (f : FR)
  /-- `S_AND` (R70). -/
  | sAnd (f : FR)
  /-- `S_OR` (R70). -/
  | sOr (f : FR)
  /-- `S_XOR` (R70). -/
  | sXor (f : FR)
  /-- `S_SHL` (R70). -/
  | sShl (f : FR)
  /-- `S_SHR` (R70). -/
  | sShr (f : FR)
  /-- `S_SRA` (R70). -/
  | sSra (f : FR)
  /-- `S_MIN` (R70). -/
  | sMin (f : FR)
  /-- `S_MAX` (R70). -/
  | sMax (f : FR)
  /-- `S_MINU` (R70). -/
  | sMinu (f : FR)
  /-- `S_MAXU` (R70). -/
  | sMaxu (f : FR)
  /-- `S_SLT` (R70). -/
  | sSlt (f : FR)
  /-- `S_SLTU` (R70). -/
  | sSltu (f : FR)
  /-- `S_SEL` (R70). -/
  | sSel (f : FR)
  /-- `S_POPC` (R70). -/
  | sPopc (f : FR)
  /-- `S_CLZ` (R70). -/
  | sClz (f : FR)
  /-- `S_ADDI` (R70). -/
  | sAddi (f : FI)
  /-- `S_ANDI` (R70). -/
  | sAndi (f : FI)
  /-- `S_ORI` (R70). -/
  | sOri (f : FI)
  /-- `S_XORI` (R70). -/
  | sXori (f : FI)
  /-- `S_SHLI` (R70). -/
  | sShli (f : FI)
  /-- `S_SHRI` (R70). -/
  | sShri (f : FI)
  /-- `S_SRAI` (R70). -/
  | sSrai (f : FI)
  /-- `S_SLTI` (R70). -/
  | sSlti (f : FI)
  /-- `S_SLTIU` (R70). -/
  | sSltiu (f : FI)
  /-- `S_LI` (R70). -/
  | sLi (f : FI)
  /-- `S_LUI` (R70). -/
  | sLui (f : FI)
  /-- `S_LD` (R66). -/
  | sLd (f : FM)
  /-- `S_LDS` (R66). -/
  | sLds (f : FM)
  /-- `S_ST` (R131). -/
  | sSt (f : FM)
  /-- `S_CSRR` (R70). -/
  | sCsrr (f : FI)
  /-- `S_CSRW` (R70). -/
  | sCsrw (f : FI)
  /-- `V_ADD` (R71). -/
  | vAdd (f : FR)
  /-- `V_SUB` (R71). -/
  | vSub (f : FR)
  /-- `V_MUL` (R71). -/
  | vMul (f : FR)
  /-- `V_FMA` (R71). -/
  | vFma (f : FR)
  /-- `V_MIN` (R103). -/
  | vMin (f : FR)
  /-- `V_MAX` (R103). -/
  | vMax (f : FR)
  /-- `V_ABS` (R71). -/
  | vAbs (f : FR)
  /-- `V_NEG` (R71). -/
  | vNeg (f : FR)
  /-- `V_AND` (R71). -/
  | vAnd (f : FR)
  /-- `V_OR` (R71). -/
  | vOr (f : FR)
  /-- `V_XOR` (R71). -/
  | vXor (f : FR)
  /-- `V_SHL` (R71). -/
  | vShl (f : FR)
  /-- `V_SHR` (R71). -/
  | vShr (f : FR)
  /-- `V_SRA` (R71). -/
  | vSra (f : FR)
  /-- `V_SEL` (R71). -/
  | vSel (f : FR)
  /-- `V_CMP` (R103). -/
  | vCmp (f : FR)
  /-- `V_PAND` (R68). -/
  | vPand (f : FR)
  /-- `V_POR` (R68). -/
  | vPor (f : FR)
  /-- `V_PXOR` (R68). -/
  | vPxor (f : FR)
  /-- `V_PNOT` (R68). -/
  | vPnot (f : FR)
  /-- `V_PLT` (R68). -/
  | vPlt (f : FR)
  /-- `V_PCNT` (R68). -/
  | vPcnt (f : FR)
  /-- `V_BCAST` (R71). -/
  | vBcast (f : FR)
  /-- `V_EXT` (R68). -/
  | vExt (f : FR)
  /-- `V_INS` (R71). -/
  | vIns (f : FR)
  /-- `V_MOV` (R71). -/
  | vMov (f : FR)
  /-- `V_IOTA` (R71). -/
  | vIota (f : FR)
  /-- `V_PERM` (R71). -/
  | vPerm (f : FR)
  /-- `V_ROT` (R71). -/
  | vRot (f : FR)
  /-- `V_RSUM` (R73). -/
  | vRsum (f : FR)
  /-- `V_RMAX` (R73). -/
  | vRmax (f : FR)
  /-- `V_RMIN` (R73). -/
  | vRmin (f : FR)
  /-- `V_CVT` (R111). -/
  | vCvt (f : FR)
  /-- `V_LD` (R133). -/
  | vLd (f : FM)
  /-- `V_ST` (R131). -/
  | vSt (f : FM)
  /-- `V_LDG` (R72). -/
  | vLdg (f : FR)
  /-- `V_STG` (R72). -/
  | vStg (f : FR)
  /-- `V_ACCR` (R62). -/
  | vAccr (f : FR)
  /-- `V_ACCW` (R62). -/
  | vAccw (f : FR)
  /-- `V_EXP2` (R74). -/
  | vExp2 (f : FR)
  /-- `V_LOG2` (R74). -/
  | vLog2 (f : FR)
  /-- `V_RSQRT` (R74). -/
  | vRsqrt (f : FR)
  /-- `V_RCP` (R74). -/
  | vRcp (f : FR)
  /-- `V_SIN` (R74). -/
  | vSin (f : FR)
  /-- `V_COS` (R74). -/
  | vCos (f : FR)
  /-- `C_NOP` (R546). -/
  | cNop (f : FR)
  /-- `C_BR` (R68). -/
  | cBr (f : FB)
  /-- `C_JAL` (R75). -/
  | cJal (f : FI)
  /-- `C_JR` (R75). -/
  | cJr (f : FR)
  /-- `C_LOOP` (R77). -/
  | cLoop (f : FI)
  /-- `C_HALT` (R59). -/
  | cHalt (f : FR)
  /-- `C_TRAP` (R92). -/
  | cTrap (f : FI)
  /-- `C_TSTART` (R76). -/
  | cTstart (f : FR)
  /-- `Y_WTOK` (R80). -/
  | yWtok (f : FI)
  /-- `Y_TOKST` (R82). -/
  | yTokst (f : FI)
  /-- `Y_TINC` (R336). -/
  | yTinc (f : FR)
  /-- `Y_TWAIT` (R339). -/
  | yTwait (f : FR)
  /-- `Y_TREAD` (R545). -/
  | yTread (f : FR)
  /-- `Y_BAR` (R79). -/
  | yBar (f : FI)
  /-- `Y_FENCE` (R86). -/
  | yFence (f : FR)
  /-- `M_CHAIN` (R191). -/
  | mChain (f : FD)
  /-- `M_ATTN` (R216). -/
  | mAttn (f : FD)
  /-- `M_ZERO` (R84). -/
  | mZero (f : FI)
  /-- `D_STREAM` (R159). -/
  | dStream (f : FD)
  /-- `D_CANCEL` (R178). -/
  | dCancel (f : FI)
  /-- `D_FENCE` (R173). -/
  | dFence (f : FI)
  /-- `B_FILL` (R137). -/
  | bFill (f : FD)
  /-- `B_COPY` (R137). -/
  | bCopy (f : FD)
  /-- `B_ACCSET` (R138). -/
  | bAccset (f : FD)
  /-- `B_ACCCLR` (R142). -/
  | bAccclr (f : FD)
  /-- `B_RSTAT` (R143). -/
  | bRstat (f : FD)
  /-- `B_TAGSET` (R147). -/
  | bTagset (f : FD)
  /-- `QUEUE_SLOT_FREE` (R83). -/
  | queueSlotFree (k : Fin 800) (t : Fin 8)
  /-- `TILE_RELEASE` (R84). -/
  | tileRelease (k : Fin 800) (t : Fin 8)
  /-- `WAIT_LIMIT` (R90). -/
  | waitLimit (k : Fin 800) (t : Fin 8)
  /-- `FETCH_LINE_ARRIVAL` (R67). -/
  | fetchLineArrival (k : Fin 800) (t : Fin 8) (line : Fin 4096)
  /-- `CODE_RELOAD` (R97). -/
  | codeReload (k : Fin 800) (line : Fin 4096)
  /-- `COALESCER_IDLE_DRAIN` (R132). -/
  | coalescerIdleDrain (k : Fin 800) (line : Fin 98304)
  /-- `BANKSIDE_START` (R135). -/
  | banksideStart (k : Fin 800) (i : Fin 8)
  /-- `BANKSIDE_COMPLETE` (R82). -/
  | banksideComplete (k : Fin 800) (i : Fin 8)
  /-- `TAG_WAIT_RELEASE` (R149). -/
  | tagWaitRelease (k : Fin 800) (g : Fin 6144)
  /-- `WEIGHT_REFETCH` (R155). -/
  | weightRefetch (k : Fin 800) (blk : Fin 1536)
  /-- `WEIGHT_REFETCH_TIMEOUT` (R155). -/
  | weightRefetchTimeout (k : Fin 800) (blk : Fin 1536)
  /-- `SCRUB_ROW` (R156). -/
  | scrubRow (k : Fin 800)
  /-- `STORE_ZEROED` (R157). -/
  | storeZeroed (k : Fin 800)
  /-- `STORE_INJECT` (R553). -/
  | storeInject (p : Path) (k : Fin 800) (data : Word)
  /-- `STREAM_DESCRIPTOR_START` (R161). -/
  | streamDescriptorStart (k : Fin 800) (o : Bool)
  /-- `STREAM_TRANSFER_LAND` (R167). -/
  | streamTransferLand (k : Fin 800) (o : Bool) (j : Fin 8)
  /-- `STREAM_TIMEOUT` (R174). -/
  | streamTimeout (k : Fin 800) (o : Bool) (j : Fin 8)
  /-- `STREAM_RESUME` (R176). -/
  | streamResume (p : Path) (k : Fin 800) (o : Bool)
  /-- `STREAM_ABANDON` (R176). -/
  | streamAbandon (p : Path) (k : Fin 800) (o both : Bool)
  /-- `CHAIN_START` (R210). -/
  | chainStart (k : Fin 800)
  /-- `COIN_GRANT` (R421). -/
  | coinGrant (r : Fin 20)
  /-- `COIN_WAIT_TIMEOUT` (R215). -/
  | coinWaitTimeout (k : Fin 800)
  /-- `DRYDOWN_START` (R206). -/
  | drydownStart (k : Fin 800)
  /-- `CHAIN_WRITE_TIMEOUT` (R211). -/
  | chainWriteTimeout (k : Fin 800)
  /-- `CHAIN_STOP` (R212). -/
  | chainStop (k : Fin 800)
  /-- `CHAIN_COMMIT` (R213). -/
  | chainCommit (k : Fin 800)
  /-- `ATTN_START` (R237). -/
  | attnStart (k : Fin 800)
  /-- `WALK_START` (R223). -/
  | walkStart (k : Fin 800)
  /-- `LEAF_READ_DONE` (R225). -/
  | leafReadDone (blk : Fin 100) (j : Fin 32)
  /-- `ATTN_RESUMED` (R228). -/
  | attnResumed (k : Fin 800) (i : Fin 1024)
  /-- `ATTN_ABANDON` (R228). -/
  | attnAbandon (p : Path) (k : Fin 800)
  /-- `ATTN_STOP` (R239). -/
  | attnStop (k : Fin 800)
  /-- `ATTN_COMMIT` (R240). -/
  | attnCommit (k : Fin 800)
  /-- `LED_MODEL` (R256). -/
  | ledModel (n : Fin 16) (r : Rec)
  /-- `LED_POOL` (R244). -/
  | ledPool (n : Fin 16) (r : Rec)
  /-- `ADMIT` (R258). -/
  | ledAdmit (n : Fin 16) (r : Rec)
  /-- `RESERVE` (R259). -/
  | ledReserve (n : Fin 16) (r : Rec)
  /-- `SEAL` (R262). -/
  | seal (n : Fin 16) (r : Rec)
  /-- `FORK` (R266). -/
  | fork (n : Fin 16) (r : Rec)
  /-- `IMPORT` (R268). -/
  | ledImport (n : Fin 16) (r : Rec)
  /-- `PREEMPT` (R271). -/
  | preempt (n : Fin 16) (r : Rec)
  /-- `SWAP_OUT_PAGE` (R272). -/
  | swapOutPage (n : Fin 16) (x : Fin 65536) (layer : Fin 1024) (page : Fin 65536)
  /-- `RESUME` (R275). -/
  | resume (n : Fin 16) (r : Rec)
  /-- `SWAP_IN_PAGE` (R275). -/
  | swapInPage (n : Fin 16) (x : Fin 65536) (layer : Fin 1024) (page : Fin 65536)
  /-- `COMPACT` (R278). -/
  | compact (n : Fin 16) (r : Rec)
  /-- `RELEASE` (R280). -/
  | release (n : Fin 16) (r : Rec)
  /-- `PIN_END` (R224). -/
  | pinEnd (n : Fin 16)
  /-- `PROG_LOAD` (R93). -/
  | progLoad (n : Fin 16) (r : Rec)
  /-- `PROG_UNLOAD` (R283). -/
  | progUnload (n : Fin 16) (r : Rec)
  /-- `BATCH` (R290). -/
  | batch (n : Fin 16) (r : Rec)
  /-- `RUN_START` (R297). -/
  | runStart (n : Fin 16)
  /-- `RUN_END` (R95). -/
  | runEnd (n : Fin 16)
  /-- `CLEARING_TIMEOUT` (R300). -/
  | clearingTimeout (n : Fin 16)
  /-- `CLEARING_MODE_WRITE` (R299). -/
  | clearingModeWrite (p : Path) (n : Fin 16) (mode : Bool)
  /-- `QP_SETUP` (R306). -/
  | qpSetup (n : Fin 16) (r : Rec)
  /-- `QP_RESET` (R307). -/
  | qpReset (n : Fin 16) (r : Rec)
  /-- `DEST_SET` (R308). -/
  | destSet (n : Fin 16) (r : Rec)
  /-- `DEST_CLEAR` (R309). -/
  | destClear (n : Fin 16) (r : Rec)
  /-- `RESEND` (R331). -/
  | resend (n : Fin 16) (r : Rec)
  /-- `REMIT_REQUEST` (R313). -/
  | remitRequest (e : Fin 4)
  /-- `REMIT_FRAME_READ` (R313). -/
  | remitFrameRead (e : Fin 4)
  /-- `PACKET_TRANSMIT` (R318). -/
  | packetTransmit (e : Fin 4) (p : Fin 2)
  /-- `ACKNOWLEDGE` (R321). -/
  | acknowledge (e : Fin 4) (p : Fin 2) (i : Fin 4096) (psn : BitVec 24) (syn : BitVec 8) (ip : BitVec 128)
  /-- `RNR_TIMER` (R321). -/
  | rnrTimer (e : Fin 4) (i : Fin 4096)
  /-- `ACK_TIMEOUT` (R322). -/
  | ackTimeout (e : Fin 4) (i : Fin 4096)
  /-- `CONGESTION_NOTIFICATION` (R323). -/
  | congestionNotification (e : Fin 4) (p : Fin 2) (i : Fin 4096) (ip : BitVec 128)
  /-- `RATE_RECOVERY` (R323). -/
  | rateRecovery (e : Fin 4) (i : Fin 4096)
  /-- `RX_FRAME` (R329). -/
  | rxFrame (e : Fin 4) (p : Fin 2) (fr : Bytes)
  /-- `PRIORITY_PAUSE` (R304). -/
  | priorityPause (e : Fin 4) (p : Fin 2) (cls : Fin 8) (ns : Nat)
  /-- `PAUSE_EXPIRY` (R304). -/
  | pauseExpiry (e : Fin 4) (p : Fin 2)
  /-- `PEER_VIOLATION` (R330). -/
  | peerViolation (e : Fin 4) (p : Fin 2)
  /-- `PORT_LINK_UP` (R548). -/
  | portLinkUp (e : Fin 4) (p : Fin 2) (iface : Fin 3)
  /-- `PORT_LINK_DOWN` (R326). -/
  | portLinkDown (e : Fin 4) (p : Fin 2)
  /-- `PORT_HOLD_EXPIRY` (R326). -/
  | portHoldExpiry (e : Fin 4) (p : Fin 2)
  /-- `PORT_MODE_WRITE` (R303). -/
  | portModeWrite (p : Path) (e : Fin 4) (data : Word)
  /-- `TALLY_UPDATE` (R337). -/
  | tallyUpdate (n : Fin 16) (h : Fin 4096)
  /-- `TALLY_WAIT_RELEASE` (R339). -/
  | tallyWaitRelease (k : Fin 800) (unit : Fin 11)
  /-- `TALLY_SET` (R341). -/
  | tallySet (n : Fin 16) (r : Rec)
  /-- `TALLY_THRESH` (R342). -/
  | tallyThresh (n : Fin 16) (r : Rec)
  /-- `TALLY_QUOTA_WRITE` (R335). -/
  | tallyQuotaWrite (p : Path) (n : Fin 16) (data : Word)
  /-- `WIN_OPEN` (R344). -/
  | winOpen (n : Fin 16) (r : Rec)
  /-- `WIN_REUSE_EXPIRY` (R345). -/
  | winReuseExpiry (n : Fin 16)
  /-- `WIN_CLOSE` (R349). -/
  | winClose (n : Fin 16) (r : Rec)
  /-- `WINDOW_WRITE_ARRIVAL` (R346). -/
  | windowWriteArrival
  /-- `WINDOW_WRITE_LANDED` (R347). -/
  | windowWriteLanded
  /-- `GROUP_SET` (R369). -/
  | groupSet (n : Fin 16) (r : Rec)
  /-- `GROUP_CLEAR` (R370). -/
  | groupClear (n : Fin 16) (r : Rec)
  /-- `COLL` (R379). -/
  | coll (n : Fin 16) (r : Rec)
  /-- `COLL_QUEUE_TAKE` (R379). -/
  | collQueueTake (n : Fin 16)
  /-- `COLL_START` (R385). -/
  | collStart (n : Fin 16)
  /-- `COLL_READY` (R381). -/
  | collReady
  /-- `COLL_UP` (R373). -/
  | collUp
  /-- `COLL_DOWN` (R373). -/
  | collDown
  /-- `COLL_COUNTS` (R374). -/
  | collCounts
  /-- `COLL_A2A` (R374). -/
  | collA2a
  /-- `COLL_ABORT` (R383). -/
  | collAbort
  /-- `COLL_COMMIT` (R376). -/
  | collCommit (n : Fin 16)
  /-- `ORDER_STALL` (R382). -/
  | orderStall (n : Fin 16)
  /-- `COLL_TIMEOUT` (R383). -/
  | collTimeout (n : Fin 16)
  /-- `RENDEZVOUS_RETRY` (R381). -/
  | rendezvousRetry
  /-- `FLIT_RECEIVE` (R356): on a Sniedor port, or (24) on the Kwasar link (R467). -/
  | flitReceive (p : Fin 25) (w : BitVec 2176)
  /-- `PACKET_RECEIVE` (R361). -/
  | packetReceive (p : Fin 24)
  /-- `ANSWER` (R365). -/
  | answer
  /-- `E2E_TIMEOUT` (R366). -/
  | e2eTimeout (d : Fin 8192)
  /-- `CONNECTION_REOPEN` (R366). -/
  | connectionReopen (d : Fin 8192)
  /-- `LINK_STALL` (R363). -/
  | linkStall (p : Fin 24) (vc : Fin 6)
  /-- `FABRIC_VIOLATION` (R387). -/
  | fabricViolation (e : Fin 4)
  /-- `LINK_ENABLE` (R354). -/
  | linkEnable (p : Path) (port : Fin 24) (en : Bool)
  /-- `LINK_RETRAIN` (R354). -/
  | linkRetrain (p : Path) (port : Fin 24)
  /-- `LINK_TRAIN_TIMEOUT` (R354). -/
  | linkTrainTimeout (p : Fin 24)
  /-- `LINK_SILENCE` (R357). -/
  | linkSilence (p : Fin 24)
  /-- `RECOVER_TIMEOUT` (R354). -/
  | recoverTimeout (p : Fin 24)
  /-- `DOWN_RETRAIN` (R354). -/
  | downRetrain (p : Fin 24)
  /-- `RETRAIN_DONE` (R357). -/
  | retrainDone (p : Fin 24) (node : Fin 8192) (port : Fin 24)
  /-- `TIME_FLIT_SEND` (R459). -/
  | timeFlitSend (p : Fin 24)
  /-- `TIME_FLIT` (R459). -/
  | timeFlit
  /-- `NOP` (R395). -/
  | cmdNop (n : Fin 16) (r : Rec)
  /-- `MAP` (R396). -/
  | cmdMap (n : Fin 16) (r : Rec)
  /-- `UNMAP` (R397). -/
  | unmap (n : Fin 16) (r : Rec)
  /-- `PAGE_ZEROED` (R397). -/
  | pageZeroed (e : Fin 4) (p : Fin 131072)
  /-- `WEIGHT_LOAD` (R398). -/
  | weightLoad (n : Fin 16) (r : Rec)
  /-- `CANCEL` (R399). -/
  | cmdCancel (n : Fin 16) (r : Rec)
  /-- `ORDERED_START` (R394). -/
  | orderedStart (n : Fin 16)
  /-- `ASSIGN` (R400). -/
  | assign (p : Path) (n : Fin 16)
  /-- `KILL` (R404). -/
  | kill (p : Path) (n : Fin 16)
  /-- `KILL_STOP_DONE` (R404). -/
  | killStopDone (n : Fin 16)
  /-- `PART_SCRUBBED` (R404). -/
  | partScrubbed (n : Fin 16)
  /-- `SCRUB_BOUND_EXPIRY` (R406). -/
  | scrubBoundExpiry (n : Fin 16)
  /-- `SYNC` (R402). -/
  | sync (p : Path) (n : Fin 16)
  /-- `PURSE_TICK` (R420). -/
  | purseTick
  /-- `SUSTAINED_TICK` (R425). -/
  | sustainedTick
  /-- `ESTIMATE_TICK` (R427). -/
  | estimateTick (w : Nat)
  /-- `TELEMETRY_READ` (R428). -/
  | telemetryRead (stages : List (Option (Nat × Nat)))
  /-- `MODEL_DIVERGENCE` (R429). -/
  | modelDivergence
  /-- `TELEMETRY_LOST` (R430). -/
  | telemetryLost (stage : Fin 64)
  /-- `DROOP` (R417). -/
  | droop (r : Fin 20) (ns : Nat)
  /-- `EPOCH_REQUEST_SEND` (R433). -/
  | epochRequestSend
  /-- `EPOCH_REQUEST` (R434). -/
  | epochRequest
  /-- `MASTER_EVALUATE` (R434). -/
  | masterEvaluate
  /-- `EPOCH_COMMIT` (R435). -/
  | epochCommit
  /-- `POINT_SWITCH` (R435). -/
  | pointSwitch
  /-- `LOCK_SILENT` (R437). -/
  | lockSilent
  /-- `PWR_ALERT_ASSERT` (R439). -/
  | pwrAlertAssert
  /-- `PWR_ALERT_RELEASE` (R439). -/
  | pwrAlertRelease (chatter : Bool)
  /-- `ALERT_STUCK` (R439). -/
  | alertStuck
  /-- `CAUSE_CLEAR` (R440). -/
  | causeClear
  /-- `THERMAL_READ` (R441). -/
  | thermalRead (t : List (List (Option Nat)))
  /-- `THERMAL_TRIP` (R441). -/
  | thermalTrip
  /-- `REFCLK_ABSENT` (R445). -/
  | refclkAbsent (r : Fin 25) (eth : Bool)
  /-- `REFCLK_RETURN` (R445). -/
  | refclkReturn (r : Fin 25) (eth : Bool)
  /-- `PLL_LOCK` (R444). -/
  | pllLock (r : Fin 25) (d : Fin 7)
  /-- `CLOCK_STOPPED` (R451). -/
  | clockStopped (r : Fin 25) (d : Fin 7)
  /-- `CLK_STOP_HOLD_EXPIRY` (R453). -/
  | clkStopHoldExpiry (r : Fin 25) (d : Fin 7)
  /-- `DOMAIN_RESET_ASSERT` (R456). -/
  | domainResetAssert (p : Path) (r : Fin 25) (doms : BitVec 7)
  /-- `DOMAIN_RESET_RELEASE` (R455). -/
  | domainResetRelease (r : Fin 25) (d : Fin 7)
  /-- `MODULE_RESET` (R455). -/
  | moduleReset (p : Path) (key : BitVec 8)
  /-- `MOD_RESET_N_ASSERT` (R455). -/
  | modResetNAssert
  /-- `MOD_RESET_N_RELEASE` (R455). -/
  | modResetNRelease
  /-- `BOOT_STEP_DONE` (R460). -/
  | bootStepDone (st : BitVec 8) (sub : Fin 192) (bad : BitVec 4)
  /-- `BOOT_STEP_TIMEOUT` (R460). -/
  | bootStepTimeout
  /-- `MODULE_TIME_CORRECTION` (R457). -/
  | moduleTimeCorrection (r : Fin 25) (lost : BitVec 8)
  /-- `MEM_CALIBRATION` (R463). -/
  | memCalibration (e : Fin 4) (zq : Bool)
  /-- `DOORBELL` (R475). -/
  | doorbell (f : Fin 16) (ring : BitVec 2) (idx : BitVec 32)
  /-- `DMA_DATA` (R471). -/
  | dmaData (tag st : BitVec 8) (off : BitVec 16) (data : Bytes)
  /-- `DMA_WR_ACK` (R471). -/
  | dmaWrAck (tag st : BitVec 8)
  /-- `DMA_TIMEOUT` (R472). -/
  | dmaTimeout (tag : BitVec 8)
  /-- `DMA_TAG_RETIRE_EXPIRY` (R472). -/
  | dmaTagRetireExpiry (tag : BitVec 8)
  /-- `RING_ENABLE` (R474). -/
  | ringEnable (p : Path) (n : Fin 17) (r : Fin 3) (cfg : BitVec 16)
  /-- `HOST_COPY` (R479). -/
  | hostCopy (n : Fin 16) (r : Rec)
  /-- `HOST_NOTIFY` (R479). -/
  | hostNotify (n : Fin 16) (r : Rec)
  /-- `KW_LINK_DOWN` (R480). -/
  | kwLinkDown (cause : Fin 3)
  /-- `KW_LINK_UP` (R466). -/
  | kwLinkUp (rev : BitVec 8) (funcs : Fin 17)
  /-- `KW_TRAIN_TIMEOUT` (R466). -/
  | kwTrainTimeout
  /-- `KW_VIOLATION` (R481). -/
  | kwViolation
  /-- `MGMT_WATCHDOG` (R452). -/
  | mgmtWatchdog (path : Fin 3)
  /-- `I3C_REQUEST` (R483). -/
  | i3cRequest (op seq : BitVec 8) (addr : BitVec 32) (data : Option Word)
  /-- `I3C_CCC` (R482). -/
  | i3cCcc (c : Ccc)
  /-- `REPORT` (R499). -/
  | report (p : Path) (n : Fin 16) (extend : Bool)
  /-- `CERTS` (R500). -/
  | certs (p : Path) (n : Fin 16) (extend : Bool)
  /-- `EXTEND` (R495). -/
  | extend (p : Path) (n : Fin 16)
  /-- `SUBMIT` (R501). -/
  | submit (p : Path)
  /-- `GO` (R506). -/
  | go (p : Path) (len : BitVec 25) (func : BitVec 4)
  /-- `JTAG_INSTRUCTION` (R505). -/
  | jtagInstruction (i : Fin 6)
  /-- `TRST_N_ASSERT` (R540). -/
  | trstNAssert (chatter : Bool)
  /-- `REPLAY_START` (R517). -/
  | replayStart (k : Fin 800) (bank : Option (Fin 8)) (trig : Fin 4)
  /-- `RECOVERY_DONE` (R521). -/
  | recoveryDone (n : Fin 16) (r : Rec)
  /-- `MEM_SCRUB` (R513). -/
  | memScrub (e : Fin 4)
  /-- `FATAL_RESET_TIMER` (R522). -/
  | fatalResetTimer
  /-- `POWER_INPUT_RISE` (R528). -/
  | powerInputRise
  /-- `POWER_INPUT_LOSS` (R527). -/
  | powerInputLoss
  /-- `OVERVOLTAGE` (R528). -/
  | overvoltage
  /-- `REGISTER_READ` (R7). -/
  | registerRead (p : Path) (addr : BitVec 32) (size : BitVec 4)
  /-- `CELL_NOT_ANSWERING` (R523). -/
  | cellNotAnswering (k : Fin 800)
  /-- `ATTN_WRITE_TIMEOUT` (R238). -/
  | attnWriteTimeout (k : Fin 800)
  /-- `LEAF_READ_TIMEOUT` (R516). -/
  | leafReadTimeout (blk : Fin 100) (j : Fin 32)
  deriving DecidableEq, Repr

end Sys2Proof
end

