-- ==== Sys2Proof/Decode.lean ====
section
/-!
DEFINITION. Decode.lean: the 64-bit instruction words of a cell (spec 03), the checks that program load makes of each
word (R69, R546, R547), and the word of the host's table, which gives no row any bits.
-/
namespace Sys2Proof

/-! Instruction words (spec 03): header and formats. -/
def hdr (cls op : Nat) (w : Who) : Nat := cls * 2 ^ 60 + op * 2 ^ 52 + w.pred.toNat * 2 ^ 49 + b2n w.pneg * 2 ^ 48
def FR.word (f : FR) (cls op : Nat) : Nat :=
  hdr cls op f.w + f.d.toNat * 2 ^ 43 + f.a.toNat * 2 ^ 38 + f.b.toNat * 2 ^ 33 + f.c.toNat * 2 ^ 28 + f.typ.toNat * 2 ^ 24 +
  f.mod.toNat * 2 ^ 16 + b2n f.sr * 2 ^ 15
def FI.word (f : FI) (cls op : Nat) : Nat :=
  hdr cls op f.w + f.d.toNat * 2 ^ 43 + f.a.toNat * 2 ^ 38 + f.typ.toNat * 2 ^ 32 + f.imm.toNat
def FM.word (f : FM) (cls op : Nat) : Nat :=
  hdr cls op f.w + f.data.toNat * 2 ^ 43 + f.base.toNat * 2 ^ 38 + f.buf.toNat * 2 ^ 30 + f.size.toNat * 2 ^ 27 +
  f.tag.toNat * 2 ^ 23 + f.off.toNat
def FB.word (f : FB) (cls op : Nat) : Nat :=
  hdr cls op f.w + f.a.toNat * 2 ^ 43 + f.b.toNat * 2 ^ 38 + f.cond.toNat * 2 ^ 34 + f.disp.toNat
def FD.word (f : FD) (cls op : Nat) : Nat :=
  hdr cls op f.w + f.token.toNat * 2 ^ 44 + f.base.toNat * 2 ^ 38 + f.buf.toNat * 2 ^ 30 + f.off.toNat

/-- How a field of an instruction is used: not at all (it must be zero, R546), a register of 5 bits, or a predicate or
tile of 3 bits. -/
inductive Use where
  | no | reg | small
  deriving DecidableEq, Repr
/-- Whether a field's value keeps to its use. -/
def Use.ok (u : Use) (v : Nat) : Bool := match u with
  | .no => v == 0 | .reg => true | .small => decide (v < 8)

/-- What the operation of a CLASS and OP takes. -/
inductive OpForm where
  | r (d a b c : Use) (types : List Nat) (modBits : Nat) (sr : Bool)
  | i (d a : Use) (immBits : Nat)
  | m (sizes : List Nat)
  | br
  | fd
  deriving DecidableEq, Repr

/-- The operations of the tables of spec 03; `none` is a reserved CLASS or OP. -/
def opForm (cls op : Nat) : Option OpForm :=
  let r3 (ty : List Nat) : Option OpForm := some (.r .reg .reg .reg .no ty 0 false)
  let r2 (ty : List Nat) : Option OpForm := some (.r .reg .reg .no .no ty 0 false)
  let p3 : Option OpForm := some (.r .small .small .small .no [1] 0 false)
  let im (d a : Use) (n : Nat) : Option OpForm := some (.i d a n)
  match cls with
  | 0 =>
    if op ≤ 0x0F then r3 [] else
    match op with
    | 0x10 => some (.r .reg .reg .reg .reg [] 0 false)
    | 0x11 | 0x12 => r2 []
    | 0x20 | 0x24 | 0x25 | 0x26 | 0x2E | 0x2F => im .reg .reg 32
    | 0x27 | 0x28 | 0x29 => im .reg .reg 6
    | 0x30 | 0x31 => im .reg .no 32
    | 0x40 | 0x41 | 0x42 => some (.m [0, 1, 2, 3])
    | 0x60 => im .reg .no 12
    | 0x61 => im .no .reg 12
    | _ => none
  | 1 =>
    match op with
    | 0x00 | 0x01 | 0x02 | 0x04 | 0x05 => r3 [0, 1, 2, 3, 4]
    | 0x03 => some (.r .reg .reg .reg .reg [2, 3, 4] 0 false)
    | 0x06 | 0x07 => r2 [0, 2, 3, 4]
    | 0x08 | 0x09 | 0x0A | 0x0C | 0x28 | 0x29 => r3 [1]
    | 0x0B => r3 [0, 1]
    | 0x0D => r3 [0]
    | 0x0E => some (.r .reg .reg .reg .small [1] 0 false)
    | 0x10 => some (.r .small .reg .reg .no [0, 1, 2, 3, 4] 3 false)
    | 0x18 | 0x19 | 0x1A => p3
    | 0x1B => some (.r .small .small .no .no [1] 0 false)
    | 0x1C => some (.r .small .reg .no .no [1] 0 false)
    | 0x1D => some (.r .reg .small .no .no [1] 0 false)
    | 0x20 | 0x23 => r2 [1]
    | 0x21 | 0x22 => r3 [1]
    | 0x24 => some (.r .reg .no .no .no [1] 0 false)
    | 0x30 | 0x31 | 0x32 => r2 [0, 2]
    | 0x40 | 0x41 | 0x42 | 0x43 | 0x44 | 0x45 => r2 [2]
    | 0x50 => some (.r .reg .reg .no .reg [] 8 true)
    | 0x60 | 0x61 => some (.m [4, 5, 6])
    | 0x62 => some (.r .reg .reg .reg .no [] 8 false)
    | 0x63 => some (.r .no .reg .reg .reg [] 8 false)
    | 0x70 => some (.r .reg .small .no .no [] 5 false)
    | 0x71 => some (.r .small .reg .no .no [] 5 false)
    | _ => none
  | 2 => match op with
    | 0x00 | 0x01 => some .fd
    | 0x02 => im .no .no 8
    | _ => none
  | 3 => match op with
    | 0x00 => some .fd
    | 0x01 => im .no .no 16
    | 0x02 => im .no .no 2
    | _ => none
  | 4 => if op ≤ 5 then some .fd else none
  | 5 => match op with
    | 0x00 => im .no .no 17
    | 0x01 => im .reg .no 4
    | 0x02 | 0x03 => some (.r .no .reg .reg .no [] 0 false)
    | 0x04 => r2 []
    | 0x05 => im .no .no 8
    | 0x06 => some (.r .no .no .no .no [] 0 false)
    | _ => none
  | 6 => match op with
    | 0x00 | 0x05 => some (.r .no .no .no .no [] 0 false)
    | 0x01 => some .br
    | 0x02 => im .reg .no 32
    | 0x03 => some (.r .no .reg .no .no [] 0 false)
    | 0x04 => im .no .reg 7
    | 0x06 => im .no .reg 32
    | 0x07 => some (.r .reg .reg .reg .reg [] 0 false)
    | _ => none
  | _ => none

/-- Check 2 of R69: every reserved field of the word is zero (R546). -/
def reservedOk (f : OpForm) (w : Nat) : Bool :=
  let d := bits w 43 5
  let a := bits w 38 5
  match f with
  | .r ud ua ub uc types modBits sr =>
    ud.ok d && ua.ok a && ub.ok (bits w 33 5) && uc.ok (bits w 28 5) && (!types.isEmpty || bits w 24 4 == 0) &&
    decide (bits w 16 8 < 2 ^ modBits) && (sr || !bit w 15) && bits w 0 15 == 0
  | .i ud ua n => ud.ok d && ua.ok a && bits w 36 2 == 0 && bits w 32 4 == 0 && decide (bits w 0 32 < 2 ^ n)
  | .m _ => bits w 25 2 == 0
  | .br =>
    let cond := bits w 34 4
    bits w 32 2 == 0 &&
    (if cond = 0 then d == 0 && a == 0 else if 7 ≤ cond ∧ cond ≤ 9 then decide (d < 8) && a == 0 else true)
  | .fd => bits w 43 1 == 0 && bits w 23 7 == 0
/-- Check 3: TYPE, SIZE, TAG, COND and the compare code are allowed for the operation. -/
def codesOk (cls op : Nat) (f : OpForm) (w : Nat) : Bool :=
  match f with
  | .r _ _ _ _ types _ _ => (types.isEmpty || types.contains (bits w 24 4)) && !(cls == 1 && op == 0x10 && bits w 16 3 == 7)
  | .m sizes => sizes.contains (bits w 27 3) && bits w 23 2 != 3
  | .br => decide (bits w 34 4 < 10)
  | _ => true
/-- R109 for a v.cvt word. -/
def cvtOk (w : Nat) : Bool :=
  let s := bits w 16 4
  let t := bits w 20 4
  ((s == 0) != (t == 0)) && decide (s ≤ 10) && decide (t ≤ 10) && bits w 24 4 == 0 && bits w 33 5 == 0 &&
  (!bit w 15 || (decide (1 ≤ t) && decide (t ≤ 5)) || (decide (7 ≤ t) && decide (t ≤ 9)))
def isLoop (w : Nat) : Bool := bits w 60 4 == 6 && bits w 52 8 == 4
/-- The lowest-numbered check of R69 that word `i` of a code image of `count` words fails; 0 for none (R547). -/
def loadCheck (code : Nat → Nat) (count i : Nat) : Nat :=
  let w := code i
  let cls := bits w 60 4
  let op := bits w 52 8
  match opForm cls op with
  | none => 1
  | some f =>
    let guard := bits w 48 4
    let target : Int := (i : Int) + sx 32 (bits w 0 32)
    let inside : Bool := decide (0 ≤ target) && decide (target < count)
    let len := bits w 0 7
    let csr := bits w 0 12
    if !reservedOk f w then 2
    else if !codesOk cls op f w then 3
    else if 2 ≤ cls ∧ guard ≠ 0 then 4
    else if cls = 0 ∧ ((op = 0x60 ∧ 8 < csr) ∨ (op = 0x61 ∧ csr ≠ 7)) then 5
    else if cls = 6 ∧ (((op = 1 ∨ op = 2) ∧ !inside) ∨ (op = 4 ∧ count ≤ i + len)) then 6
    else if isLoop w ∧ (List.range len).any (fun k => isLoop (code (i + 1 + k))) then 7
    else if isLoop w ∧ (len = 0 ∨ 64 < len) then 8
    else if cls = 1 ∧ op = 0x50 ∧ !cvtOk w then 9
    else if cls = 3 ∧ op = 2 ∧ bits w 0 2 = 0 then 10
    else 0
/-- Whether one word alone passes the checks that do not look at its neighbours. -/
def wordOk (w : Nat) : Bool := let k := loadCheck (fun _ => w) (2 ^ 33) (2 ^ 32); k == 0 || (k == 7 && decide (bits w 0 7 ≤ 64))

/-! Words to commands: what the issue of a word of the code area asks of thread `t` of cell `k`. -/
def whoOf (k : Fin 800) (t : Fin 8) (w : Nat) : Who := { cell := k, thr := t, pred := BitVec.ofNat 3 (bits w 49 3), pneg := bit w 48 }
def frOf (k : Fin 800) (t : Fin 8) (w : Nat) : FR :=
  { w := whoOf k t w, d := BitVec.ofNat 5 (bits w 43 5), a := BitVec.ofNat 5 (bits w 38 5), b := BitVec.ofNat 5 (bits w 33 5),
    c := BitVec.ofNat 5 (bits w 28 5), typ := BitVec.ofNat 4 (bits w 24 4), mod := BitVec.ofNat 8 (bits w 16 8), sr := bit w 15 }
def fiOf (k : Fin 800) (t : Fin 8) (w : Nat) : FI :=
  { w := whoOf k t w, d := BitVec.ofNat 5 (bits w 43 5), a := BitVec.ofNat 5 (bits w 38 5), typ := BitVec.ofNat 4 (bits w 32 4),
    imm := BitVec.ofNat 32 (bits w 0 32) }
def fmOf (k : Fin 800) (t : Fin 8) (w : Nat) : FM :=
  { w := whoOf k t w, data := BitVec.ofNat 5 (bits w 43 5), base := BitVec.ofNat 5 (bits w 38 5), buf := BitVec.ofNat 8 (bits w 30 8),
    size := BitVec.ofNat 3 (bits w 27 3), tag := BitVec.ofNat 2 (bits w 23 2), off := BitVec.ofNat 23 (bits w 0 23) }
def fbOf (k : Fin 800) (t : Fin 8) (w : Nat) : FB :=
  { w := whoOf k t w, a := BitVec.ofNat 5 (bits w 43 5), b := BitVec.ofNat 5 (bits w 38 5), cond := BitVec.ofNat 4 (bits w 34 4),
    disp := BitVec.ofNat 32 (bits w 0 32) }
def fdOf (k : Fin 800) (t : Fin 8) (w : Nat) : FD :=
  { w := whoOf k t w, token := BitVec.ofNat 4 (bits w 44 4), base := BitVec.ofNat 5 (bits w 38 5), buf := BitVec.ofNat 8 (bits w 30 8),
    off := BitVec.ofNat 23 (bits w 0 23) }
/-- Class 0. -/
def decodeClass0 (k : Fin 800) (t : Fin 8) (w : Nat) : Nat → Option Instr
  | 0x00 => some (.sAdd (frOf k t w))
  | 0x01 => some (.sSub (frOf k t w))
  | 0x02 => some (.sMul (frOf k t w))
  | 0x03 => some (.sMulh (frOf k t w))
  | 0x04 => some (.sAnd (frOf k t w))
  | 0x05 => some (.sOr (frOf k t w))
  | 0x06 => some (.sXor (frOf k t w))
  | 0x07 => some (.sShl (frOf k t w))
  | 0x08 => some (.sShr (frOf k t w))
  | 0x09 => some (.sSra (frOf k t w))
  | 0x0A => some (.sMin (frOf k t w))
  | 0x0B => some (.sMax (frOf k t w))
  | 0x0C => some (.sMinu (frOf k t w))
  | 0x0D => some (.sMaxu (frOf k t w))
  | 0x0E => some (.sSlt (frOf k t w))
  | 0x0F => some (.sSltu (frOf k t w))
  | 0x10 => some (.sSel (frOf k t w))
  | 0x11 => some (.sPopc (frOf k t w))
  | 0x12 => some (.sClz (frOf k t w))
  | 0x20 => some (.sAddi (fiOf k t w))
  | 0x24 => some (.sAndi (fiOf k t w))
  | 0x25 => some (.sOri (fiOf k t w))
  | 0x26 => some (.sXori (fiOf k t w))
  | 0x27 => some (.sShli (fiOf k t w))
  | 0x28 => some (.sShri (fiOf k t w))
  | 0x29 => some (.sSrai (fiOf k t w))
  | 0x2E => some (.sSlti (fiOf k t w))
  | 0x2F => some (.sSltiu (fiOf k t w))
  | 0x30 => some (.sLi (fiOf k t w))
  | 0x31 => some (.sLui (fiOf k t w))
  | 0x40 => some (.sLd (fmOf k t w))
  | 0x41 => some (.sLds (fmOf k t w))
  | 0x42 => some (.sSt (fmOf k t w))
  | 0x60 => some (.sCsrr (fiOf k t w))
  | 0x61 => some (.sCsrw (fiOf k t w))
  | _ => none
/-- Class 1. -/
def decodeClass1 (k : Fin 800) (t : Fin 8) (w : Nat) : Nat → Option Instr
  | 0x00 => some (.vAdd (frOf k t w))
  | 0x01 => some (.vSub (frOf k t w))
  | 0x02 => some (.vMul (frOf k t w))
  | 0x03 => some (.vFma (frOf k t w))
  | 0x04 => some (.vMin (frOf k t w))
  | 0x05 => some (.vMax (frOf k t w))
  | 0x06 => some (.vAbs (frOf k t w))
  | 0x07 => some (.vNeg (frOf k t w))
  | 0x08 => some (.vAnd (frOf k t w))
  | 0x09 => some (.vOr (frOf k t w))
  | 0x0A => some (.vXor (frOf k t w))
  | 0x0B => some (.vShl (frOf k t w))
  | 0x0C => some (.vShr (frOf k t w))
  | 0x0D => some (.vSra (frOf k t w))
  | 0x0E => some (.vSel (frOf k t w))
  | 0x10 => some (.vCmp (frOf k t w))
  | 0x18 => some (.vPand (frOf k t w))
  | 0x19 => some (.vPor (frOf k t w))
  | 0x1A => some (.vPxor (frOf k t w))
  | 0x1B => some (.vPnot (frOf k t w))
  | 0x1C => some (.vPlt (frOf k t w))
  | 0x1D => some (.vPcnt (frOf k t w))
  | 0x20 => some (.vBcast (frOf k t w))
  | 0x21 => some (.vExt (frOf k t w))
  | 0x22 => some (.vIns (frOf k t w))
  | 0x23 => some (.vMov (frOf k t w))
  | 0x24 => some (.vIota (frOf k t w))
  | 0x28 => some (.vPerm (frOf k t w))
  | 0x29 => some (.vRot (frOf k t w))
  | 0x30 => some (.vRsum (frOf k t w))
  | 0x31 => some (.vRmax (frOf k t w))
  | 0x32 => some (.vRmin (frOf k t w))
  | 0x40 => some (.vExp2 (frOf k t w))
  | 0x41 => some (.vLog2 (frOf k t w))
  | 0x42 => some (.vRsqrt (frOf k t w))
  | 0x43 => some (.vRcp (frOf k t w))
  | 0x44 => some (.vSin (frOf k t w))
  | 0x45 => some (.vCos (frOf k t w))
  | 0x50 => some (.vCvt (frOf k t w))
  | 0x60 => some (.vLd (fmOf k t w))
  | 0x61 => some (.vSt (fmOf k t w))
  | 0x62 => some (.vLdg (frOf k t w))
  | 0x63 => some (.vStg (frOf k t w))
  | 0x70 => some (.vAccr (frOf k t w))
  | 0x71 => some (.vAccw (frOf k t w))
  | _ => none
/-- Class 2. -/
def decodeClass2 (k : Fin 800) (t : Fin 8) (w : Nat) : Nat → Option Instr
  | 0x00 => some (.mChain (fdOf k t w))
  | 0x01 => some (.mAttn (fdOf k t w))
  | 0x02 => some (.mZero (fiOf k t w))
  | _ => none
/-- Class 3. -/
def decodeClass3 (k : Fin 800) (t : Fin 8) (w : Nat) : Nat → Option Instr
  | 0x00 => some (.dStream (fdOf k t w))
  | 0x01 => some (.dCancel (fiOf k t w))
  | 0x02 => some (.dFence (fiOf k t w))
  | _ => none
/-- Class 4. -/
def decodeClass4 (k : Fin 800) (t : Fin 8) (w : Nat) : Nat → Option Instr
  | 0x00 => some (.bFill (fdOf k t w))
  | 0x01 => some (.bCopy (fdOf k t w))
  | 0x02 => some (.bAccset (fdOf k t w))
  | 0x03 => some (.bAccclr (fdOf k t w))
  | 0x04 => some (.bRstat (fdOf k t w))
  | 0x05 => some (.bTagset (fdOf k t w))
  | _ => none
/-- Class 5. -/
def decodeClass5 (k : Fin 800) (t : Fin 8) (w : Nat) : Nat → Option Instr
  | 0x00 => some (.yWtok (fiOf k t w))
  | 0x01 => some (.yTokst (fiOf k t w))
  | 0x02 => some (.yTinc (frOf k t w))
  | 0x03 => some (.yTwait (frOf k t w))
  | 0x04 => some (.yTread (frOf k t w))
  | 0x05 => some (.yBar (fiOf k t w))
  | 0x06 => some (.yFence (frOf k t w))
  | _ => none
/-- Class 6. -/
def decodeClass6 (k : Fin 800) (t : Fin 8) (w : Nat) : Nat → Option Instr
  | 0x00 => some (.cNop (frOf k t w))
  | 0x01 => some (.cBr (fbOf k t w))
  | 0x02 => some (.cJal (fiOf k t w))
  | 0x03 => some (.cJr (frOf k t w))
  | 0x04 => some (.cLoop (fiOf k t w))
  | 0x05 => some (.cHalt (frOf k t w))
  | 0x06 => some (.cTrap (fiOf k t w))
  | 0x07 => some (.cTstart (frOf k t w))
  | _ => none
/-- The command that a word spells for thread `t` of cell `k`; a word that program load refuses (R69) spells none. -/
def decodeWord (k : Fin 800) (t : Fin 8) (w : Nat) : Option Instr :=
  if !wordOk w then none else match bits w 60 4 with
  | 0 => decodeClass0 k t w (bits w 52 8)
  | 1 => decodeClass1 k t w (bits w 52 8)
  | 2 => decodeClass2 k t w (bits w 52 8)
  | 3 => decodeClass3 k t w (bits w 52 8)
  | 4 => decodeClass4 k t w (bits w 52 8)
  | 5 => decodeClass5 k t w (bits w 52 8)
  | 6 => decodeClass6 k t w (bits w 52 8)
  | _ => none

/-- The opcodes that the ranges of R393 define. -/
def definedOps : List Nat :=
  [0x00, 0x01, 0x02, 0x03, 0x04, 0x10, 0x11, 0x30] ++ (List.range 11).map (0x40 + ·) ++ [0x50, 0x51, 0x52, 0x60, 0x61, 0x62, 0x63, 0x64] ++
  [0x70, 0x71, 0x72, 0x73, 0x80, 0x81, 0x82]

/-- The host's table gives no row bits: no word spells a command. -/
def decodeTableWord (_nbits _w : Nat) : Option Instr := none

end Sys2Proof
end

