-- ==== Sys2Proof/Machine/Float.lean ====
section
/-!
DEFINITION. Machine/Float.lean: the number formats of spec 04 and their one rounding, over exact dyadic values.
Every operation computes the exact result and rounds it once (R100), keeping subnormals (R99).
-/
namespace Sys2Proof.Machine

/-- A value of a floating format: NaN, an infinity, or `± m * 2^e` (`m = 0` is a signed zero). -/
inductive Fl where
  | nan
  | inf (neg : Bool)
  | fin (neg : Bool) (m : Nat) (e : Int)
  deriving DecidableEq, Repr

/-- What the top exponent of a format means (R98): infinities and NaNs, the one NaN magnitude of E4M3, or finite values. -/
inductive FmtKind where
  | ieee | nanOnly | finite
  deriving DecidableEq, Repr

/-- A floating format: exponent bits, fraction bits, bias, and its special codes (R98). -/
structure Fmt where
  eb : Nat
  mb : Nat
  bias : Int
  kind : FmtKind
  deriving DecidableEq, Repr

def fp32 : Fmt := ⟨8, 23, 127, .ieee⟩
def bf16 : Fmt := ⟨8, 7, 127, .ieee⟩
def fp16 : Fmt := ⟨5, 10, 15, .ieee⟩
def e5m2 : Fmt := ⟨5, 2, 15, .ieee⟩
def e4m3 : Fmt := ⟨4, 3, 7, .nanOnly⟩
def e3m2 : Fmt := ⟨3, 2, 3, .finite⟩
def e2m3 : Fmt := ⟨2, 3, 1, .finite⟩
def e2m1 : Fmt := ⟨2, 1, 1, .finite⟩

/-- Bits of a code. -/
def Fmt.width (f : Fmt) : Nat := f.eb + f.mb + 1
/-- The sign bit of a code. -/
def Fmt.sign (f : Fmt) (neg : Bool) : Nat := if neg then 2 ^ (f.eb + f.mb) else 0
/-- The magnitude code of the largest finite value. -/
def Fmt.maxMag (f : Fmt) : Nat := match f.kind with
  | .ieee => ((2 ^ f.eb - 1) <<< f.mb) - 1
  | .nanOnly => 2 ^ (f.eb + f.mb) - 2
  | .finite => 2 ^ (f.eb + f.mb) - 1
/-- The canonical NaN of the format (R101); a format without NaN gives +0 (R108). -/
def Fmt.nanCode (f : Fmt) : Nat := match f.kind with
  | .ieee => if f.eb = 5 && f.mb = 2 then 0x7F else ((2 ^ f.eb - 1) <<< f.mb) + 2 ^ (f.mb - 1)
  | .nanOnly => 2 ^ (f.eb + f.mb) - 1
  | .finite => 0
/-- Exponent of the smallest step of the format. -/
def Fmt.qmin (f : Fmt) : Int := 1 - f.bias - f.mb

/-- The value of a code (R98). -/
def Fmt.decode (f : Fmt) (c : Nat) : Fl :=
  let neg := bit c (f.eb + f.mb)
  let ex := bits c f.mb f.eb
  let m := bits c 0 f.mb
  if f.kind = .ieee && ex = 2 ^ f.eb - 1 then (if m = 0 then .inf neg else .nan)
  else if f.kind = .nanOnly && bits c 0 (f.eb + f.mb) = 2 ^ (f.eb + f.mb) - 1 then .nan
  else if ex = 0 then .fin neg m f.qmin
  else .fin neg (2 ^ f.mb + m) (f.qmin + ex - 1)

/-- `m / 2^k` rounded to nearest, ties to even (R100). -/
def shiftRne (m k : Nat) : Nat :=
  if k = 0 then m else
    let q := m >>> k
    let r := m % 2 ^ k
    let h := 2 ^ (k - 1)
    if h < r || (r = h && q % 2 = 1) then q + 1 else q

/-- The step exponent that a magnitude `m * 2^e` rounds at. -/
def Fmt.quantum (f : Fmt) (m : Nat) (e : Int) : Int := max ((Nat.log2 m : Int) + e - f.mb) f.qmin

/-- The magnitude code of `m' * 2^q`, exponent unbounded above. -/
def Fmt.magCode (f : Fmt) (m : Nat) (q : Int) : Nat :=
  let (m, q) := if 2 ^ (f.mb + 1) ≤ m then (m / 2, q + 1) else (m, q)
  if m < 2 ^ f.mb then m else ((q - f.qmin + 1).toNat <<< f.mb) + (m - 2 ^ f.mb)

/-- The magnitude code of `m * 2^e` rounded to nearest even, exponent unbounded above (R108). -/
def Fmt.roundMag (f : Fmt) (m : Nat) (e : Int) : Nat :=
  if m = 0 then 0 else
    let q := f.quantum m e
    f.magCode (if e ≤ q then shiftRne m (q - e).toNat else m <<< (e - q).toNat) q

/-- An arithmetic result: rounded once, overflow to infinity (R102), canonical NaN (R101). -/
def Fmt.arith (f : Fmt) : Fl → Nat
  | .nan => f.nanCode
  | .inf n => f.sign n + ((2 ^ f.eb - 1) <<< f.mb)
  | .fin n m e =>
    let c := f.roundMag m e
    f.sign n + (if f.maxMag < c then (2 ^ f.eb - 1) <<< f.mb else c)

/-- A converted code with the two marks of R108: the target could not hold the input, and a NaN became zero. -/
structure Cvt where
  code : Nat
  sat : Bool := false
  nanDropped : Bool := false
  deriving DecidableEq, Repr

/-- Special values of a conversion (R108); finite magnitudes come as a rounded magnitude code. -/
def Fmt.convertWith (f : Fmt) (mag : Bool → Nat → Int → Nat) : Fl → Cvt
  | .nan => ⟨f.nanCode, false, f.kind == .finite⟩
  | .inf n => match f.kind with
    | .ieee => ⟨f.sign n + f.maxMag + 1, false, false⟩
    | .nanOnly => ⟨f.nanCode, true, false⟩
    | .finite => ⟨f.sign n + f.maxMag, true, false⟩
  | .fin n m e =>
    let c := mag n m e
    if f.maxMag < c then ⟨f.sign n + f.maxMag, true, false⟩ else ⟨f.sign n + c, false, false⟩

/-- Conversion into the format by round to nearest even (R108). -/
def Fmt.convert (f : Fmt) (x : Fl) : Cvt := f.convertWith (fun _ m e => f.roundMag m e) x

/-- rand16 of R113. -/
def rand16 (seed j : Nat) : Nat :=
  let w := 2 ^ 64
  let x := Nat.xor seed ((j * 0x9E3779B97F4A7C15) % w)
  let x := (Nat.xor x (x >>> 30) * 0xBF58476D1CE4E5B9) % w
  let x := (Nat.xor x (x >>> 27) * 0x94D049BB133111EB) % w
  (Nat.xor x (x >>> 31)) >>> 48

/-- The stochastic rounding of R113 for element `j`. "Exponent unbounded" is read as unbounded above only: below the
smallest normal the truncation is on the target's subnormal grid (DEDUCED, log 103). -/
def srMag (f : Fmt) (seed j : Nat) (m : Nat) (e : Int) : Nat :=
  if m = 0 then 0 else
    let q := f.quantum m e
    if e ≤ q then
      let k := (q - e).toNat
      let t := m >>> k
      let r := m % 2 ^ k
      let frac := (r * 65536) / 2 ^ k
      f.magCode (if r ≠ 0 ∧ rand16 seed j < frac then t + 1 else t) q
    else f.magCode (m <<< (e - q).toNat) q

/-- Conversion into an integer of `w` bits: nearest even, saturating, NaN to 0 (R108). -/
def convertInt (w : Nat) (mag : Bool → Nat → Int → Nat) : Fl → Cvt
  | .nan => ⟨0, false, true⟩
  | .inf n => ⟨if n then 2 ^ (w - 1) else 2 ^ (w - 1) - 1, true, false⟩
  | .fin n m e =>
    let a := mag n m e
    if n then (if 2 ^ (w - 1) < a then ⟨2 ^ (w - 1), true, false⟩ else ⟨(2 ^ w - a) % 2 ^ w, false, false⟩)
    else (if 2 ^ (w - 1) - 1 < a then ⟨2 ^ (w - 1) - 1, true, false⟩ else ⟨a, false, false⟩)

/-- The nearest integer magnitude of `m * 2^e`, ties to even. -/
def intRne (m : Nat) (e : Int) : Nat := if 0 ≤ e then m <<< e.toNat else shiftRne m (-e).toNat
/-- The stochastically rounded integer magnitude (R113). -/
def intSr (seed j m : Nat) (e : Int) : Nat :=
  if 0 ≤ e then m <<< e.toNat else
    let k := (-e).toNat
    let t := m >>> k
    let r := m % 2 ^ k
    if r ≠ 0 ∧ rand16 seed j < (r * 65536) / 2 ^ k then t + 1 else t

/-- Conversion into X64 with `F` fraction bits (R119). -/
def toX64 (fr : Nat) (x : Fl) : Cvt := convertInt 64 (fun _ m e => intRne m (e + fr)) x
/-- The exact value of an integer scaled by a power of two. -/
def flOfInt (x : Int) (e : Int) : Fl := .fin (decide (x < 0)) x.natAbs e
/-- The exact value of an X64 word (R118). -/
def x64Val (fr n : Nat) : Fl := flOfInt (sx 64 n) (-(fr : Int))
/-- X64 addition and whether it left the range (R120). -/
def x64Add (a b : Nat) : Nat × Bool :=
  let s := sx 64 a + sx 64 b
  let r := wrapN 64 s
  (r, decide (sx 64 r ≠ s))

def Fl.neg : Fl → Fl
  | .nan => .nan | .inf n => .inf (!n) | .fin n m e => .fin (!n) m e
def Fl.abs : Fl → Fl
  | .nan => .nan | .inf _ => .inf false | .fin _ m e => .fin false m e
def Fl.isNan : Fl → Bool
  | .nan => true | _ => false
def Fl.isFin : Fl → Bool
  | .fin _ _ _ => true | _ => false
/-- The signed significand aligned to exponent `q ≤ e`. -/
def sig (n : Bool) (m : Nat) (e q : Int) : Int := let a : Int := (m <<< (e - q).toNat : Nat); if n then -a else a

/-- Exact sum (R101 for the invalid case); an exact zero of opposite signs is +0. -/
def Fl.add : Fl → Fl → Fl
  | .nan, _ => .nan
  | _, .nan => .nan
  | .inf a, .inf b => if a = b then .inf a else .nan
  | .inf a, .fin _ _ _ => .inf a
  | .fin _ _ _, .inf b => .inf b
  | .fin a m e, .fin b n g =>
    let q := min e g
    let s := sig a m e q + sig b n g q
    if s = 0 then .fin (a && b) 0 q else .fin (decide (s < 0)) s.natAbs q
def Fl.sub (x y : Fl) : Fl := Fl.add x y.neg
/-- Exact product. -/
def Fl.mul : Fl → Fl → Fl
  | .nan, _ => .nan
  | _, .nan => .nan
  | .inf a, .inf b => .inf (a != b)
  | .inf a, .fin b m _ => if m = 0 then .nan else .inf (a != b)
  | .fin b m _, .inf a => if m = 0 then .nan else .inf (a != b)
  | .fin a m e, .fin b n g => .fin (a != b) (m * n) (e + g)
/-- `x * 2^k`. -/
def Fl.scale (k : Int) : Fl → Fl
  | .fin n m e => .fin n m (e + k)
  | x => x

/-- Order of two values that are not NaN: -1, 0 or 1; zeros compare equal. -/
def Fl.cmp : Fl → Fl → Int
  | .nan, _ => 0
  | _, .nan => 0
  | .inf a, .inf b => if a = b then 0 else if a then -1 else 1
  | .inf a, .fin _ _ _ => if a then -1 else 1
  | .fin _ _ _, .inf b => if b then 1 else -1
  | .fin a m e, .fin b n g =>
    let q := min e g
    let s := sig a m e q - sig b n g q
    if s < 0 then -1 else if s = 0 then 0 else 1
def Fl.signBit : Fl → Bool
  | .nan => false | .inf n => n | .fin n _ _ => n
/-- Minimum; NaN if either is NaN, and -0 below +0 (R103). -/
def Fl.min (x y : Fl) : Fl :=
  if x.isNan || y.isNan then .nan
  else if Fl.cmp x y < 0 then x else if 0 < Fl.cmp x y then y else if x.signBit then x else y
/-- Maximum, as `Fl.min` (R103). -/
def Fl.max (x y : Fl) : Fl :=
  if x.isNan || y.isNan then .nan
  else if Fl.cmp x y < 0 then y else if 0 < Fl.cmp x y then x else if x.signBit then y else x
/-- floor(log2 |x|) of a finite nonzero value. -/
def Fl.log2Floor : Fl → Int
  | .fin _ m e => (Nat.log2 m : Int) + e
  | _ => 0

/-- FP32 arithmetic on codes: one rounding each (R100, R102). -/
def f32 (c : Nat) : Fl := fp32.decode c
def f32add (a b : Nat) : Nat := fp32.arith ((f32 a).add (f32 b))
def f32sub (a b : Nat) : Nat := fp32.arith ((f32 a).sub (f32 b))
def f32mul (a b : Nat) : Nat := fp32.arith ((f32 a).mul (f32 b))
def f32fma (a b c : Nat) : Nat := fp32.arith (((f32 a).mul (f32 b)).add (f32 c))
def f32max (a b : Nat) : Nat := fp32.arith ((f32 a).max (f32 b))
def f32min (a b : Nat) : Nat := fp32.arith ((f32 a).min (f32 b))
def f32negInf : Nat := 0xFF800000
def f32posInf : Nat := 0x7F800000

/-! Special functions (R74): the exact value rounded once. Fixed point with 320 fraction bits; a result that is
not exact in the format is irrational, so it is never a tie, and the half bit appended stands for its remainder. -/

/-- floor(ln 2 * 2^320). -/
def ln2Fix : Nat := 1480553391661173448385607439722553250922680800745876974795605978609098082859138712941075737848984
/-- floor(pi * 2^320). -/
def piFix : Nat := 6710401180212168915155840974220003240804194089427148950727106424351713218671805380099500388914039
def fixOne : Nat := 2 ^ 320

/-- An irrational magnitude known to lie between `n` and `n + 1` units of `2^-320 * 2^k`. -/
def irr (neg : Bool) (n : Nat) (k : Int) : Fl := .fin neg (2 * n + 1) (k - 321)

/-- Taylor sum of exp for `x` in fixed point, below 1. -/
def expFix (x : Nat) : Nat → Nat → Nat → Nat
  | 0, _, acc => acc
  | fuel + 1, t, acc => expFix x fuel ((t * x / fixOne) / (80 - fuel)) (acc + t)
/-- `x` as a fixed-point fraction for `x = m * 2^e` with `-320 ≤ e`. -/
def toFix (m : Nat) (e : Int) : Nat := if 0 ≤ e + 320 then m <<< (e + 320).toNat else m >>> (-(e + 320)).toNat

/-- 2^a of the table of R74. -/
def exp2Fl : Fl → Fl
  | .nan => .nan
  | .inf n => if n then .fin false 0 0 else .inf false
  | .fin n m e =>
    if m = 0 then .fin false 1 0 else
      let a := toFix m e
      if !n && 128 * fixOne ≤ a then .inf false
      else if n && 150 * fixOne ≤ a then .fin false 0 0
      else
        let k : Int := if n then -((a + fixOne - 1) / fixOne : Nat) else (a / fixOne : Nat)
        let fr := if n then (fixOne - a % fixOne) % fixOne else a % fixOne
        if fr = 0 then .fin false 1 k
        else irr false (expFix (fr * ln2Fix / fixOne) 80 fixOne 0) k

/-- Series of 2 atanh(z), z in fixed point. -/
def atanhFix (z2 : Nat) : Nat → Nat → Nat → Nat
  | 0, _, acc => acc
  | fuel + 1, t, acc => atanhFix z2 fuel (t * z2 / fixOne) (acc + t / (2 * (110 - fuel) - 1))
/-- log2 a of the table of R74. -/
def log2Fl : Fl → Fl
  | .nan => .nan
  | .inf n => if n then .nan else .inf false
  | .fin n m e =>
    if m = 0 then .inf true
    else if n then .nan
    else
      let l := Nat.log2 m
      let k : Int := (l : Int) + e
      let one := 2 ^ l
      if m = one then flOfInt k 0
      else
        -- x = m / 2^l in (1, 2); ln x = 2 atanh((x-1)/(x+1))
        let z := (m - one) * fixOne / (m + one)
        let ln := 2 * atanhFix (z * z / fixOne) 110 z 0
        let lg : Nat := ln * fixOne / ln2Fix
        let v : Int := k * (fixOne : Nat) + (lg : Nat)
        irr (decide (v < 0)) (if v < 0 then v.natAbs - 1 else v.natAbs) 0

/-- 1 / sqrt a (R74): the integer root with a sticky bit for a root that is not exact. -/
def rsqrtFl : Fl → Fl
  | .nan => .nan
  | .inf n => if n then .nan else .fin false 0 0
  | .fin n m e =>
    if m = 0 then .inf n
    else if n then .nan
    else
      let (m, e) := if e % 2 = 0 then (m, e) else (2 * m, e - 1)
      -- 1/sqrt(m) = sqrt(2^800 / m) / 2^400
      let q := 2 ^ 800 / m
      let r := Nat.sqrt q
      let exact := decide (r * r * m = 2 ^ 800)
      .fin false (2 * r + b2n (!exact)) (-401 - e / 2)
/-- 1 / a (R74). -/
def rcpFl : Fl → Fl
  | .nan => .nan
  | .inf n => .fin n 0 0
  | .fin n m e =>
    if m = 0 then .inf n
    else .fin n (2 * (2 ^ 400 / m) + b2n (decide (2 ^ 400 % m ≠ 0))) (-401 - e)

/-- Taylor sums of sin and cos for an angle in fixed point: `t` is the current term, `i` its power. -/
def trigFix (x2 : Nat) : Nat → Nat → Nat → Int → Int → Int
  | 0, _, _, _, acc => acc
  | fuel + 1, i, t, sg, acc =>
    trigFix x2 fuel (i + 2) (t * x2 / fixOne / ((i + 1) * (i + 2))) (-sg) (acc + sg * (t : Int))

/-- The fraction of R74 in turns: `a - nearest_integer(a)`, ties to even, as fixed point with its sign. -/
def turnFrac (n : Bool) (m : Nat) (e : Int) : Bool × Nat :=
  let a := toFix m e
  let r := a % fixOne
  let k := a / fixOne
  let half := fixOne / 2
  if half < r || (r = half && k % 2 = 1) then (!n, fixOne - r) else (n, r)

/-- sin(2 pi f) of R74. -/
def sinFl : Fl → Fl
  | .nan => .nan
  | .inf _ => .nan
  | .fin n m e =>
    if m = 0 then .fin n 0 0 else
      let (s, f) := turnFrac n m e
      if f = 0 then .fin n 0 0
      else if f = fixOne / 2 then .fin false 0 0
      else if f = fixOne / 4 then .fin s 1 0
      else
        let g := if fixOne / 4 < f then fixOne / 2 - f else f
        let x := 2 * piFix * g / fixOne
        irr s (trigFix (x * x / fixOne) 60 1 x 1 0).natAbs 0
/-- cos(2 pi f) of R74. -/
def cosFl : Fl → Fl
  | .nan => .nan
  | .inf _ => .nan
  | .fin n m e =>
    let (_, f) := turnFrac n m e
    if f = 0 then .fin false 1 0
    else if f = fixOne / 2 then .fin true 1 0
    else if f = fixOne / 4 then .fin false 0 0
    else
      -- cos(2 pi f) = sin(2 pi (1/4 - f))
      let neg := decide (fixOne / 4 < f)
      let g := if neg then f - fixOne / 4 else fixOne / 4 - f
      let x := 2 * piFix * g / fixOne
      irr neg (trigFix (x * x / fixOne) 60 1 x 1 0).natAbs 0

def f32exp2 (c : Nat) : Nat := fp32.arith (exp2Fl (f32 c))
def f32log2 (c : Nat) : Nat := fp32.arith (log2Fl (f32 c))
def f32rsqrt (c : Nat) : Nat := fp32.arith (rsqrtFl (f32 c))
def f32rcp (c : Nat) : Nat := fp32.arith (rcpFl (f32 c))
def f32sin (c : Nat) : Nat := fp32.arith (sinFl (f32 c))
def f32cos (c : Nat) : Nat := fp32.arith (cosFl (f32 c))

/-- The fixed tree of R73 over a list: halves are combined pairwise until one value is left; `n` bounds the depth. -/
def treeFold (op : Nat → Nat → Nat) : Nat → List Nat → Nat
  | 0, l => l.headD 0
  | n + 1, l =>
    let w := l.length / 2
    treeFold op n (List.zipWith op (l.take w) (l.drop w))

/-- The block encoding of R107: scale code, group offsets and element codes. -/
structure Block4 where
  scale : Nat
  offs : List Nat
  elems : List Nat
  deriving DecidableEq, Repr

/-- The largest magnitude of a list of finite values. -/
def amaxFl : List Fl → Fl := List.foldl (fun a x => if Fl.cmp a x.abs < 0 then x.abs else a) (.fin false 0 0)
def Fl.isZero : Fl → Bool
  | .fin _ m _ => m == 0 | _ => false

/-- R107, encode_block: `elem` is the element format, `z4s` selects groups of eight with their own offsets. -/
def encodeBlock (x : List Fl) (elem : Fmt) (z4s : Bool) : Block4 :=
  let ngr := if z4s then 8 else 1
  if x.any (fun v => !v.isFin) then ⟨0xFF, List.replicate ngr 0, List.replicate x.length 0⟩
  else
    let amax := amaxFl x
    if amax.isZero then ⟨0, List.replicate ngr 3, List.replicate x.length 0⟩
    else
      let emax : Int := (((elem.maxMag >>> elem.mb : Nat) : Int)) - elem.bias
      let eb := max (amax.log2Floor - emax) (-127)
      let gl := x.length / ngr
      let gs := (List.range ngr).map fun g => (x.drop (g * gl)).take gl
      let offs := gs.map fun gx =>
        if !z4s then 0 else
          let ag := amaxFl gx
          if ag.isZero then 3 else min 3 (eb - max (ag.log2Floor - 2) (-127)).toNat
      let el := (List.zip gs offs).flatMap fun (gx, o) => gx.map fun v => (elem.convert (v.scale (-(eb - (o : Int))))).code
      ⟨(eb + 127).toNat, offs, el⟩

end Sys2Proof.Machine
end

