-- ==== Sys2Proof/Config.lean ====
section
/-!
DEFINITION. Config.lean: what one module fixes (part, straps, fuses) and the values the spec leaves open.
A constant with no body is opaque: no proof can see its value, so a statement holds whatever it is.
-/
namespace Sys2Proof

/-- MEM_GIB_PER_PKG of MODULE_ID (R1, R2): the part is fused; both parts are covered by leaving the choice open. -/
opaque Config.part768 : Bool
/-- 16 on the EZ2580-384L, 32 on the EZ2580-768L (R1). -/
def Config.memGib : Nat := if Config.part768 then 32 else 16
/-- LPDDR6 pages of 2 MiB on each E-die: 49,152 or 98,304 (R42). -/
def Config.pagesPerEdie : Nat := if Config.part768 then 98304 else 49152
/-- Hardware revision letter and digit of MODULE_ID, fused (R2). -/
opaque Config.hwMajor : BitVec 4
/-- Revision digit. -/
opaque Config.hwMinor : BitVec 4
/-- The ADDR strap as sampled at release `k` of module reset: static address 0x58 + ADDR (R482, R535). -/
opaque Config.addrStrap : Nat → BitVec 2
/-- The IFACE_SEL strap, likewise. -/
opaque Config.ifaceStrap : Nat → BitVec 2
/-- Fused identity words of the root of trust (spec 18). -/
opaque Config.fuse : Nat → Word
/-- Digests that the module holds (R487, R493): 0 the boot ROM's, 1 ROOT_ED_HASH, 2 ROOT_ML_HASH, 3 and 4 OWNER[1] and
OWNER[2] as programmed at test. -/
opaque Config.digest : Nat → BitVec 384
/-- The unique device secret; no register reads it (R487). -/
opaque Config.uds : BitVec 384
/-- Ed25519 verification (RFC 8032) of a signature of `len` bytes under a public key. -/
opaque Config.verifyEd : (key len msg sig : Nat) → Bool
/-- ML-DSA-65 verification (FIPS 204) with a context string. -/
opaque Config.verifyMl : (key ctx len msg sig : Nat) → Bool
/-- Ed25519 public key and signature of a private key. -/
opaque Config.pubEd : Nat → Nat
opaque Config.signEd : (priv len msg : Nat) → Nat
/-- ML-DSA-65 public key and signature of the key pair generated from ξ. -/
opaque Config.pubMl : Nat → Nat
opaque Config.signMl : (xi ctx len msg : Nat) → Nat
/-- The device certificates (R497): length and bytes of the Ed25519 and the ML-DSA-65 one. -/
opaque Config.deviceCert : Nat → Nat × Nat
/-- The alias certificate (R497) of algorithm `k` over an alias public key and MEAS[0] to MEAS[3]. -/
opaque Config.aliasCert : (k key meas : Nat) → Nat × Nat
/-- The 16 MiB flash slots as written at manufacture, and the preferred slot that the flash header then names (R490). -/
opaque Config.slot : Nat → Nat
opaque Config.prefSlot : Bool
/-- MEM_MAX: the fused choice among the four memory rates (R462). -/
opaque Config.memMaxCode : BitVec 2
def Config.memMax : Nat := [8533, 9600, 10667, 12800].getD Config.memMaxCode.toNat 8533
/-- The layout of a pre-emption image's header (R273 names its contents and gives no layout): the 4,096 bytes for a list of
numbers, and the list that a header holds. -/
opaque Config.imageHeader : List Nat → Nat
opaque Config.imageParse : Nat → List Nat
/-- The payload of an IDENT flit, which carries the module's node, the port and the buffer sizes (R354 gives no layout). -/
opaque Config.identPayload : (node port : Nat) → BitVec 1920
/-- The payload of the module's HELLO flit (R466 names what the card's carries, and gives no layout). -/
opaque Config.helloPayload : BitVec 1920
/-- Random numbers of the module (nonces, connection epochs): one per draw. -/
opaque Config.random : Nat → Nat
/-- A value the spec leaves undefined after a command that goes on; applied to the counter `Block.free`. -/
opaque Config.freeValue : Nat → Nat
/-- A physical quantity read by a sensor or regulator that no command carries. -/
opaque Config.sensor : Nat → Nat

end Sys2Proof
end

