-- ==== Sys2Proof/Machine/Map.lean ====
section
/-!
DEFINITION. Machine/Map.lean: sparse memory as a list of key and value pairs in one canonical form: keys strictly
rising and no entry equal to what an unlisted key reads as.
-/
namespace Sys2Proof.Machine

/-- A sparse map: keys strictly rise, and no value equals the default. -/
abbrev Map (α : Type) := List (Nat × α)

/-- What key `i` reads as; an unlisted key reads as `d`. -/
def mget {α : Type} (d : α) : Map α → Nat → α
  | [], _ => d
  | (k, v) :: m, i => if i = k then v else mget d m i

/-- Puts the entry of key `i` in its place. -/
def mput {α : Type} : Map α → Nat → α → Map α
  | [], i, v => [(i, v)]
  | (k, w) :: m, i, v =>
    if i < k then (i, v) :: (k, w) :: m
    else if i = k then (i, v) :: m
    else (k, w) :: mput m i v

/-- Writes `v` at key `i`; writing the default removes the entry. -/
def mset {α : Type} [DecidableEq α] (d : α) (m : Map α) (i : Nat) (v : α) : Map α :=
  if v = d then m.filter fun e => decide (e.1 ≠ i) else mput m i v

/-- Resets every key from `lo` up to `hi - 1` to the default. -/
def mclear {α : Type} (m : Map α) (lo hi : Nat) : Map α := m.filter fun e => decide (e.1 < lo) || decide (hi ≤ e.1)

/-- The canonical form, from a lower bound of the next key. -/
def mwfFrom {α : Type} [DecidableEq α] (d : α) : Nat → Map α → Bool
  | _, [] => true
  | lo, (k, v) :: m => decide (lo ≤ k) && (!decide (v = d)) && mwfFrom d (k + 1) m

/-- The canonical form of a map. -/
def mwf {α : Type} [DecidableEq α] (d : α) (m : Map α) : Bool := mwfFrom d 0 m

/-- Changes the value at key `i`. -/
def mmod {α : Type} [DecidableEq α] (d : α) (m : Map α) (i : Nat) (f : α → α) : Map α := mset d m i (f (mget d m i))

/-- Changes every listed value. -/
def mmap {α : Type} [DecidableEq α] (d : α) (m : Map α) (f : α → α) : Map α :=
  (m.map fun e => (e.1, f e.2)).filter fun e => !decide (e.2 = d)

/-- Byte memory: an unlisted address reads as zero (boot step 5 zero-fills every page and store, R460). -/
abbrev Memory := List Host.Cell

/-- One byte of memory. -/
def Memory.byte (m : Memory) (a : Nat) : Byte := mget 0 m a
/-- Stores one byte. -/
def Memory.setByte (m : Memory) (a : Nat) (v : Byte) : Memory := mset (0 : Byte) m a v
/-- The canonical form of a byte memory. -/
def Memory.wf (m : Memory) : Bool := mwf (0 : Byte) m

/-- `n` bytes from address `a`, as a little-endian number. -/
def Memory.read (m : Memory) (a : Nat) : Nat → Nat
  | 0 => 0
  | n + 1 => (m.byte a).toNat + 256 * Memory.read m (a + 1) n
/-- Writes the low `n` bytes of `v` from address `a`, little-endian. -/
def Memory.write (m : Memory) (a : Nat) : Nat → Nat → Memory
  | 0, _ => m
  | n + 1, v => Memory.write (m.setByte a (BitVec.ofNat 8 v)) (a + 1) n (v / 256)
/-- Writes those of the low `n` bytes of `v` whose mask bit is set. -/
def Memory.writeMask (m : Memory) (a : Nat) : Nat → Nat → Nat → Memory
  | 0, _, _ => m
  | n + 1, v, k => Memory.writeMask (if k % 2 = 1 then m.setByte a (BitVec.ofNat 8 v) else m) (a + 1) n (v / 256) (k / 2)
/-- Zero-fills `n` bytes from `a`. -/
def Memory.zero (m : Memory) (a n : Nat) : Memory := mclear m a (a + n)

end Sys2Proof.Machine
end

