-- ==== Sys2Proof/Machine/Flags.lean ====
section
/-!
DEFINITION. Machine/Flags.lean: completion statuses, the flag byte, the order of validation and location codes (spec 00).
-/
namespace Sys2Proof.Machine

/-- Completion status codes of R10. -/
inductive Status where
  | done | ledgerFull | windowClosed | pageAbsent | descInvalid | protection | uncorrectable | cancelled
  | orderStall | countMismatch | linkDown | remoteNak | timeout | scrubbing | quota | aborted | alignment
  deriving DecidableEq, Repr

/-- The 8-bit code of a status. -/
def Status.code : Status → Nat
  | .done => 0x00 | .ledgerFull => 0x01 | .windowClosed => 0x02 | .pageAbsent => 0x03 | .descInvalid => 0x04
  | .protection => 0x05 | .uncorrectable => 0x06 | .cancelled => 0x07 | .orderStall => 0x08 | .countMismatch => 0x09
  | .linkDown => 0x0B | .remoteNak => 0x0C | .timeout => 0x0D | .scrubbing => 0x0F | .quota => 0x10
  | .aborted => 0x11 | .alignment => 0x13

/-- The status of a received code; a reserved code is a failure of the command (R10), read as REMOTE_NAK. -/
def Status.ofCode (c : Nat) : Status :=
  match c with
  | 0x00 => .done | 0x01 => .ledgerFull | 0x02 => .windowClosed | 0x03 => .pageAbsent | 0x04 => .descInvalid
  | 0x05 => .protection | 0x06 => .uncorrectable | 0x07 => .cancelled | 0x08 => .orderStall | 0x09 => .countMismatch
  | 0x0B => .linkDown | 0x0C => .remoteNak | 0x0D => .timeout | 0x0F => .scrubbing | 0x10 => .quota
  | 0x11 => .aborted | 0x13 => .alignment | _ => .remoteNak

/-- The place of a status in the order of validation of R11. -/
def Status.rank : Status → Nat
  | .scrubbing => 0 | .protection => 1 | .alignment => 2 | .descInvalid => 3 | .quota => 4 | .ledgerFull => 5 | _ => 6

/-- Validation under R11: of the checks that fail (condition true), the status that comes first in the order. -/
def refuse (checks : List (Bool × Status)) : Option Status :=
  (checks.filter (·.1)).foldl (fun a c => match a with
    | none => some c.2
    | some s => if c.2.rank < s.rank then some c.2 else some s) none

/-- The first failing check in the order written (R57, R12). -/
def firstBad (checks : List (Bool × Status)) : Option Status := (checks.find? (·.1)).map (·.2)

/-- The flag byte of R13. -/
structure Flags where
  nondet : Bool := false
  fallback : Bool := false
  sat : Bool := false
  throttled : Bool := false
  deriving DecidableEq, Repr
/-- The flag byte's value. -/
def Flags.byte (f : Flags) : Nat := b2n f.nondet + 2 * b2n f.fallback + 4 * b2n f.sat + 8 * b2n f.throttled
/-- Flags raised by either part of a command's work. -/
def Flags.or (f g : Flags) : Flags := ⟨f.nondet || g.nondet, f.fallback || g.fallback, f.sat || g.sat, f.throttled || g.throttled⟩

/-- LOC of R8 from level, region, block, cell and unit. -/
def locOf (level region block cell unit : Nat) : Nat := level * 16384 + region * 512 + block * 64 + cell * 8 + unit
/-- LOC of a unit of physical cell `n` (R8, R9). -/
def cellLoc (n unit : Nat) : Nat := locOf 0 (n / 40) (n % 40 / 8) (n % 8) unit
/-- LOC of the walker of block number `b = REGION * 5 + BLOCK` (R389). -/
def walkerLoc (b : Nat) : Nat := locOf 1 (b / 5) (b % 5) 0 6
/-- LOC of a region. -/
def regionLoc (r : Nat) : Nat := locOf 2 r 0 0 7
/-- The chip-level LOC. -/
def chipLoc : Nat := 0xC007
/-- Management base address of a unit of a physical cell (spec 02). -/
def cellBase (n : Nat) : Nat := (n / 40) <<< 27 + (n % 40 / 8) <<< 24 + (n % 8) <<< 20
/-- Management base address of the block-common space of block number `b`. -/
def blockBase (b : Nat) : Nat := (b / 5) <<< 27 + (b % 5) <<< 24 + 0xF <<< 20
/-- Management base address of the region-common space. -/
def regionBase (r : Nat) : Nat := r <<< 27 + 7 <<< 24 + 0xF <<< 20

end Sys2Proof.Machine
end

