-- ==== Sys2Proof/Machine/StateCell.lean ====
section
/-!
DEFINITION. Machine/StateCell.lean: the state of a cell: threads, store, coalescer, tags, ranges, engines (spec 03 to 08).
-/
namespace Sys2Proof.Machine

/-- Thread states of R59. -/
inductive TState where
  | idle | run | wait | halt | fault
  deriving DecidableEq, Repr

/-- What a thread in WAIT waits for. -/
inductive Wait where
  | none
  | tokens (mask : Nat) (any : Bool)
  | busyToken (tok : Nat)
  | tally (handle value : Nat) (released : Bool)
  | tag (seq : Nat) (granules : List Nat) (store : Bool)
  | barrier (mask : Nat)
  | queue (which : Nat)
  | tile (mask : Nat)
  deriving DecidableEq, Repr

/-- A completion token of a thread (R82). -/
structure Token where
  busy : Bool := false
  status : Nat := 0
  flags : Nat := 0
  deriving DecidableEq, Repr

/-- THREAD_FAULT. -/
structure ThreadFault where
  status : Nat := 0
  pc : Nat := 0
  cls : Nat := 0
  op : Nat := 0
  valid : Bool := false
  deriving DecidableEq, Repr

/-- The active c.loop of a thread (R77): first body instruction, body length, iterations left. -/
structure Loop where
  start : Nat
  len : Nat
  left : Nat
  deriving DecidableEq, Repr

/-- One hardware thread of a cell (R58). `tagSeq` names the tagged access that has begun to wait and is not yet made (R149). -/
structure Thread where
  st : TState := .idle
  pc : Nat := 0
  s : Map Word := []
  p : Map PReg := []
  v : Map VReg := []
  tok : Map Token := []
  seed : Word := 0
  accMask : BitVec 8 := 0
  loop : Option Loop := none
  wait : Wait := .none
  since : Nat := 0
  tfault : ThreadFault := {}
  lastTrap : Option Nat := none
  fbuf : List Nat := []
  stalled : Option Nat := none
  tagSeq : Option Nat := none
  deriving DecidableEq, Repr

/-- An access that waits on tags (R149), in the order it began to wait: `who` names it (a thread's wait, a transfer, an index
reader, an array command or bank-side work), of cell `cell`, at `pc` for a thread. `need` lists the granules it waits on
(`cell * 8192 + granule`) with what it needs: 0 EMPTY, 1 FULL, 2 not FILLING. -/
structure TagWait where
  who : Nat
  cell : Nat
  pc : Nat
  need : List (Nat × Nat)
  deriving DecidableEq, Repr

/-- A buffer table entry. -/
structure Buf where
  base : Nat := 0
  len : Nat := 0
  weight : Bool := false
  valid : Bool := false
  deriving DecidableEq, Repr

/-- A coalescer entry: line offset, byte mask, thread mask, bytes, cycle of the last store. -/
structure Coal where
  line : Nat
  mask : Nat
  threads : Nat
  data : Nat
  last : Nat
  deriving DecidableEq, Repr

/-- An armed range: accumulate or row statistic (R138, R143). `rows` holds, for each row since it was last armed,
0 for no writer, 1 for a multi-command row, `k + 2` for the one command `k` (R146). -/
structure Range where
  base : Nat
  len : Nat
  stat : Bool
  fast : Bool := false
  fmt : Nat := 0
  frac : Nat := 0
  sat : Bool := false
  multi : Bool := false
  recBase : Nat := 0
  statKind : Nat := 0
  rowElems : Nat := 0
  scale : Nat := 0
  wrote : Bool := false
  rows : Map Nat := []
  deriving DecidableEq, Repr

/-- An entry of the refetch map (R154): source PVA and digest of a 4 KiB block. -/
structure Refetch where
  pva : Nat := 0
  digest : Nat := 0
  valid : Bool := false
  deriving DecidableEq, Repr

/-- A weight block under refetch (R155): since when, the uncorrectable words met in it as (offset, syndrome, class), and the
readers that its end serves. -/
structure Refetching where
  blk : Nat
  at_ : Nat
  words : List (Nat × Nat × Nat) := []
  readers : List Nat := []
  deriving DecidableEq, Repr

/-- STORE_ERR_LOG, and DIE_ERR_LOG with its own fields. -/
structure ErrLog where
  off : Nat := 0
  bank : Nat := 0
  syn : Nat := 0
  kind : Nat := 0
  valid : Bool := false
  deriving DecidableEq, Repr

/-- An armed injection (STORE_INJECT, R553). -/
structure Inject where
  off : Nat
  flip0 : Nat
  flip1 : Nat
  deriving DecidableEq, Repr

/-- Bank-side work in the queue of 8 (R83, R135, R136); `cancelled` once the run that issued it was cancelled (R91). -/
structure Bank where
  id : Nat
  thr : Nat
  tok : Nat
  op : Nat
  desc : Rec
  started : Bool := false
  due : Nat := 0
  run : Nat := 0
  replays : Nat := 0
  trigger : Nat := 0
  cancelled : Bool := false
  deriving DecidableEq, Repr

/-- A resolved side of a transfer: bytes of a store, of LPDDR6, or of a deposit window's target word and offset. -/
inductive Side where
  | store (cell off : Nat)
  | mem (mpa : Nat)
  | window (ext off : Nat)
  | bad (st : Status) (space addr : Nat)
  deriving DecidableEq, Repr

/-- Progress of one transfer in an engine's window (R164, R175). -/
inductive XState where
  | todo | flight | landed | failed
  deriving DecidableEq, Repr

/-- An address of R163: space, logical cell, buffer, and the offset (or PVA, or window offset). -/
structure Addr where
  space : Nat := 0
  lcell : Nat := 0
  buf : Nat := 0
  off : Nat := 0
  deriving DecidableEq, Repr

/-- One transfer of a descriptor: row, byte in the row, bytes, its two addresses, its two sides as resolved at issue
(R165), the digest of the weight block that it begins, its descriptor, and for a cancelled one the granules it claimed; `sent`
numbers it in the order of issue; `data` holds what a weight transfer brought, `dirty` whether with an uncorrectable word. -/
structure Xfer where
  id : Nat
  row : Nat
  byte : Nat
  len : Nat
  sa : Addr := {}
  da : Addr := {}
  src : Side := .mem 0
  dst : Side := .mem 0
  st : XState := .todo
  at_ : Nat := 0
  answer : Option Status := none
  claimed : List Nat := []
  dig : Nat := 0
  cmd : Nat := 0
  fault : Status := .done
  fspace : Nat := 0
  faddr : Nat := 0
  sent : Nat := 0
  data : Nat := 0
  dirty : Bool := false
  deriving DecidableEq, Repr

/-- An entry of a stream engine's queue (R159): a descriptor or a d.fence. `win` is the window of transfers from the
descriptor's position on; `cur` holds the addresses of row `nrow` while its transfers are being made; `claims` and `reads`
are the granules it has claimed and will empty, as `cell * 8192 + granule`; `idxLeft` the index granules to empty once row
`key / 8192` has issued; `retried` the weight blocks fetched twice; `bad` the status of a discarded line (R141). -/
structure SEntry where
  id : Nat
  fence : Bool := false
  peers : List Nat := []
  thr : Nat := 0
  tok : Nat := 0
  desc : Rec := 0
  started : Bool := false
  win : List Xfer := []
  nrow : Nat := 0
  nbyte : Nat := 0
  cur : Option (Addr × Addr) := none
  flags : Flags := {}
  retried : List Nat := []
  claims : List Nat := []
  reads : List Nat := []
  idxLeft : List Nat := []
  bad : Option Status := none
  deriving DecidableEq, Repr

/-- STREAM_HALT and STREAM_HALT_ADDR. -/
structure Halt where
  status : Nat := 0
  thr : Nat := 0
  tok : Nat := 0
  row : Nat := 0
  byte : Nat := 0
  addr : Nat := 0
  space : Nat := 0
  mask : Nat := 0
  valid : Bool := false
  deriving DecidableEq, Repr

/-- One stream engine. -/
structure Stream where
  q : List SEntry := []
  zombies : List Xfer := []
  stop : Bool := false
  halted : Bool := false
  halt : Halt := {}
  ctrlIgnored : Bool := false
  deriving DecidableEq, Repr

/-- The oldest write that left by the array's output port and has not been answered (R190, R211). -/
structure PortWrite where
  sent : Nat
  stage : Nat := 0
  space : Nat
  addr : Nat
  deriving DecidableEq, Repr

/-- An entry of the array queue: m.chain, m.attn or m.zero (R184), with the copied descriptor bytes; `at_` is the ACLK cycle in
which it entered. -/
inductive ArrKind where
  | chain | attn | zero
  deriving DecidableEq, Repr
structure ArrEntry where
  id : Nat
  kind : ArrKind
  thr : Nat
  tok : Nat
  recs : List Rec
  mask : Nat := 0
  run : Nat := 0
  at_ : Nat := 0
  deriving DecidableEq, Repr

/-- A row of a chain's row map, and what the ledger resolved for it (R192): entry, PVA of its frame, the page's mark and the
frame. -/
structure RowSlot where
  seq : Nat
  pos : Nat
  rot : Nat
  eot : Bool
  noAppend : Bool
  entry : Nat := 0
  pva : Nat := 0
  unrot : Bool := false
  frame : Nat := 0
  deriving DecidableEq, Repr

/-- A running array command's own progress. -/
inductive ArrPhase where
  | none | coins | running | drydown | landing | ended
  deriving DecidableEq, Repr

/-- One item of a running attention command. -/
inductive ItemState where
  | todo | walking | parked | waiting | delivered | done
  deriving DecidableEq, Repr

/-- A page as a walk latched it (R223, R224): frame, whether it is resident, the unrotated mark, and for a piece of an
extent the binary logarithm of the extent's pages. -/
structure WalkPage where
  page : Nat
  resident : Bool
  unrot : Bool
  frame : Nat
  ext : Nat := 0
  deriving DecidableEq, Repr

/-- A walk (R223): the latched generation, length and pages, the cache model, and the generation of the sequence's handle. -/
structure Walk where
  id : Nat
  entry : Nat
  handle : Nat := 0
  model : Nat
  gen : Nat
  layer : Nat
  length : Nat
  pages : List WalkPage
  deriving DecidableEq, Repr

/-- The attention engine's record of one work item `w` of the list. `mode` is 0 for the walk over its blocks, 1 for the
merge, 2 for the fade walk; `block` counts blocks of its range; `q` and `o` are FP32 codes of its query rows and of its
output rows; `merged` the records that the fade walk uses; `incs` its fade increments by frame
(`born * 2^40 + model * 2^32 + frame`); `slot` its slot of the park area. -/
structure AItem where
  w : Rec
  st : ItemState := .todo
  mode : Nat := 0
  walk : Option Walk := none
  block : Nat := 0
  q : List (List Nat) := []
  o : List (List Nat) := []
  merged : List (Nat × Nat) := []
  incs : List (Nat × Nat) := []
  slot : Option Nat := none
  parkAt : Nat := 0
  page : Nat := 0
  deriving DecidableEq, Repr

/-- The command the array is running; `wrote` lists the bytes that an m.attn has begun to write, as (cell + 1, or 0 for a PVA, address,
length) (R238). -/
structure Run where
  e : ArrEntry
  phase : ArrPhase := .none
  coins : Nat := 0
  since : Nat := 0
  throttled : Bool := false
  flags : Flags := {}
  -- chain
  rows : List RowSlot := []
  pins : List Nat := []
  rt : Nat := 0
  dry : Nat := 0
  stage : Nat := 0
  ct : Nat := 0
  consume : List Nat := []
  claims : List Nat := []
  appends : Map Nat := []
  -- attention
  items : List AItem := []
  aphase : Nat := 0
  cur : Nat := 0
  slotWait : Bool := false
  absent : Bool := false
  mergeWait : Bool := false
  recordWait : Bool := false
  -- faults and replay
  replays : Nat := 0
  replayDue : Option Nat := none
  trigger : Nat := 0
  status : Status := .done
  port : Option PortWrite := none
  nonReplay : Bool := false
  heldRows : List Nat := []
  wrote : List (Nat × Nat × Nat) := []
  deriving DecidableEq, Repr

/-- ARRAY_FAULT. -/
structure ArrFault where
  status : Nat := 0
  thr : Nat := 0
  tok : Nat := 0
  stage : Nat := 0
  rt : Nat := 0
  ct : Nat := 0
  valid : Bool := false
  deriving DecidableEq, Repr

/-- One entry of the translation cache that a cell's two engines share (R165). -/
structure Xlate where
  vpn : Nat
  entry : Nat
  deriving DecidableEq, Repr

/-- A cell. `met` holds the corrected words (offset, syndrome) that partial-word writes met and no event has reported yet (R129,
R158); `refetchFailed` the readers, with their block, that a failed refetch had stalled (R155). -/
structure Cell where
  thr : Map Thread := []
  acc : Map Tile := []
  bufs : Map Buf := []
  codeKib : Nat := 0
  codeCount : Nat := 0
  startMask : Nat := 0
  startPc : Map Nat := []
  loaded : Bool := false
  loadedAt : Nat := 0
  waitLimit : Nat := 0
  lcell : Nat := 0
  part : Nat := 0
  assigned : Bool := false
  store : Memory := []
  serr : Map (BitVec 72) := []
  tags : Map (BitVec 2) := []
  met : List (Nat × Nat) := []
  coal : List Coal := []
  ranges : List Range := []
  refetch : Map Refetch := []
  refetching : List Refetching := []
  refetchFailed : List (Nat × Nat) := []
  reload : List (Nat × Nat) := []
  inject : Option Inject := none
  scrubRow : Nat := 0
  scrubAt : Nat := 0
  zeroing : Bool := false
  zeroAt : Nat := 0
  errLog : ErrLog := {}
  corrAt : Option Nat := none
  corrSup : Nat := 0
  uncorr : List Nat := []
  bankq : List Bank := []
  inb : Stream := {}
  outb : Stream := {}
  xlate : List Xlate := []
  xlateNext : Nat := 0
  arrq : List ArrEntry := []
  run : Option Run := none
  arrFault : ArrFault := {}
  zeroTiles : List (Nat × Nat) := []
  throttleAt : Option Nat := none
  throttleSup : Nat := 0
  inRun : Bool := false
  runFlags : Nat := 0
  parityAt : Option Nat := none
  bankParityAt : Option Nat := none
  fenced : Bool := false
  stopped : Bool := false
  cnt : Map Nat := []
  deriving DecidableEq, Repr

/-- An entry of a walker's look-aside buffer (R225). -/
structure Lab where
  part : Nat
  entry : Nat
  gen : Nat
  layer : Nat
  group : Nat
  used : Nat
  deriving DecidableEq, Repr

/-- An outstanding leaf read (R225): what its entry will be, a page of its group, and whether a lookup waits for it. -/
structure Miss where
  part : Nat
  entry : Nat
  gen : Nat
  layer : Nat
  group : Nat
  page : Nat
  demand : Bool
  at_ : Nat
  deriving DecidableEq, Repr

/-- The walker of a block (spec 08); `walks` holds the id of the walk in each slot in use, `waitq` the cells that wait for a slot. -/
structure Walker where
  walks : List Nat := []
  waitq : List Nat := []
  lab : List Lab := []
  misses : List Miss := []
  slotWait : Bool := false
  errEntry : Nat := 0
  errGroup : Nat := 0
  errStatus : Nat := 0
  errValid : Bool := false
  cnt : Map Nat := []
  deriving DecidableEq, Repr

end Sys2Proof.Machine
end

