-- ==== Sys2Proof/Machine/StateHub.lean ====
section
/-!
DEFINITION. Machine/StateHub.lean: the state of the hub: rings, commands, DMA, tallies, windows, error registers
(spec 12, 14, 17, 19).
-/
namespace Sys2Proof.Machine

/-- The four registers of one ring with the writer's own position (R474 to R478). `issued` counts records handed to
the DMA engine, `tail` those that are visible. -/
structure Ring where
  base : Nat := 0
  en : Bool := false
  space : Bool := false
  log2 : Nat := 6
  notify : Bool := false
  vector : Nat := 0
  fault : Bool := false
  lost : Nat := 0
  head : Nat := 0
  tail : Nat := 0
  issued : Nat := 0
  stop : Bool := false
  lostNew : Nat := 0
  deriving DecidableEq, Repr

/-- What a DMA request moves. -/
inductive DmaUse where
  | fetch (n idx : Nat)
  | comp (n id : Nat)
  | event (n : Nat)
  | cmdIn (n id mpa : Nat)
  | cmdOut (n id mpa : Nat)
  | swapOut (n entry layer page : Nat)
  | swapIn (n entry layer page : Nat)
  | sec (what pos : Nat)
  | dead
  deriving DecidableEq, Repr

/-- One outstanding DMA request (R471, R472): tag, direction, function, address, what has arrived. -/
structure Dma where
  tag : Nat
  write : Bool
  func : Nat
  addr : Nat
  len : Nat
  use : DmaUse
  got : List (Nat × Nat) := []
  data : Nat := 0
  sent : Nat
  deriving DecidableEq, Repr

/-- A DMA transfer waiting for a tag, with its queue: control before bulk (R473). -/
structure DmaWait where
  part : Nat
  write : Bool
  func : Nat
  addr : Nat
  len : Nat
  data : Nat
  use : DmaUse
  bulk : Bool
  deriving DecidableEq, Repr

/-- Progress of a ring command after it was taken (R394). -/
inductive CmdState where
  | aside | running | commit | posting
  deriving DecidableEq, Repr

/-- A ring command taken and not yet committed. -/
structure Cmd where
  id : Nat
  part : Nat
  idx : Nat
  desc : Rec
  st : CmdState := .running
  status : Status := .done
  flags : Flags := {}
  result : Nat := 0
  left : Nat := 0
  bad : Option Status := none
  wait : List Nat := []
  wait2 : List Nat := []
  at_ : Nat := 0
  undo : List Nat := []
  slot : Nat := 0
  pay : Nat := 0
  notes : List (Nat × Nat) := []
  commitsBad : List Nat := []
  deriving DecidableEq, Repr

/-- Partition states. -/
inductive PState where
  | free | active | killing | scrubbing
  deriving DecidableEq, Repr
def PState.code : PState → Nat
  | .free => 0 | .active => 1 | .killing => 2 | .scrubbing => 3

/-- A tally update on its way to the tally unit (R337), from the unit `loc`; `at_` is when it was made. -/
structure TUpd where
  part : Nat
  handle : Nat
  set : Bool
  amount : Nat
  loc : Nat
  at_ : Nat := 0
  deriving DecidableEq, Repr

/-- A watch slot of a cell (R339): unit 0-7 a thread, 8 inbound, 9 outbound, 10 the array. -/
structure Watch where
  cell : Nat
  unit : Nat
  part : Nat
  handle : Nat
  value : Nat
  id : Nat
  released : Bool
  told : Bool := false
  deriving DecidableEq, Repr

/-- A tally: value, threshold and whether it is armed. -/
structure Tally where
  val : Nat := 0
  thresh : Nat := 0
  armed : Bool := false
  deriving DecidableEq, Repr

/-- Who a window write's answer goes to: a stream transfer; a packet of another node, by its token, node and CSEQ; a
collective. -/
inductive Origin where
  | xfer (cell : Nat) (outbound : Bool) (id : Nat)
  | fabric (token node cseq : Nat)
  | coll (n id : Nat)
  deriving DecidableEq, Repr

/-- A write addressed to a window, on its way or accepted and not yet landed; `claims` holds the granules that its acceptance
made FILLING (`cell * 8192 + granule`, R348). -/
structure WinWrite where
  node : Nat
  part : Nat
  index : Nat
  gen : Nat
  off : Nat
  len : Nat
  data : Nat
  from_ : Origin
  claims : List Nat := []
  deriving DecidableEq, Repr

/-- A deposit window index (R343 to R349). -/
structure Win where
  gen : Nat := 0
  opened : Bool := false
  space : Nat := 0
  flags : Nat := 0
  tally : Nat := 0
  len : Nat := 0
  addr : Nat := 0
  arrivals : Nat := 0
  expected : Nat := 0
  srcNode : Nat := 0
  late : Nat := 0
  refused : Nat := 0
  closedAt : Option Nat := none
  filled : Bool := false
  flying : Nat := 0
  closing : Option Nat := none
  deriving DecidableEq, Repr

/-- FENCE_LOG entry. -/
structure FenceLog where
  cell : Nat
  cause : Nat
  part : Nat
  us : Nat
  deriving DecidableEq, Repr

/-- DIE_ERR_LOG and DIE_ERR_COUNT of one die. -/
structure DieErr where
  loc : Nat := 0
  syn : Nat := 0
  kind : Nat := 0
  valid : Bool := false
  corrected : Nat := 0
  uncorr : Nat := 0
  corrAt : Option Nat := none
  sup : Nat := 0
  deriving DecidableEq, Repr

/-- The Kwasar link (R465 to R481): state code, time of entry, what HELLO carried, and the violation counts posted. -/
structure Kw where
  st : Nat := 0
  since : Nat := 0
  rev : Nat := 0
  funcs : Nat := 0
  retrains : Nat := 0
  posted : List Nat := []
  postAt : Option Nat := none
  cause : Nat := 0
  frozen : Bool := false
  rr : Nat := 0
  seen : Nat := 0
  deriving DecidableEq, Repr

/-- A management request that waits for a stopped clock domain (R452, R454); `over_` once the watchdog has answered it, `gone` once the
link that brought it has left UP (R480). -/
structure MReq where
  path : Nat
  func : Nat
  tag : Nat
  addr : Nat
  write : Bool
  data : Nat
  at_ : Nat
  over_ : Bool := false
  gone : Bool := false
  deriving DecidableEq, Repr

/-- MGMT_PATH_STATUS of one entry point. -/
structure MPath where
  timeouts : Nat := 0
  unmapped : Bool := false
  late : Bool := false
  lastAddr : Nat := 0
  postAt : Option Nat := none
  sup : Nat := 0
  deriving DecidableEq, Repr

/-- The I3C target (R482 to R484). -/
structure I3c where
  dynAddr : Nat := 0
  ibi : Bool := false
  mwl : Nat := 14
  busy : Bool := false
  seq : Nat := 0
  status : Nat := 0
  data : Nat := 0
  flags : Nat := 0
  deriving DecidableEq, Repr

/-- Messages that leave the module, and the answers that hub firmware receives (`fw`); pins 0 READY_N, 1 FAULT_N, 2 THERM_TRIP_N (true: asserted). -/
inductive Msg where
  | kw (typ func tag len status addr data : Nat)
  | kwIdle
  | i3c (answer : Nat)
  | fw (status data flags : Nat)
  | ibi (byte : Nat)
  | eth (edie port : Nat) (frame : Nat × Nat)
  | snd (link : Nat) (kind : Nat) (data : Nat × Nat)
  | pin (name : Nat) (level : Bool)
  deriving DecidableEq, Repr

end Sys2Proof.Machine
end

