-- ==== Sys2Proof/Machine/StateLedger.lean ====
section
/-!
DEFINITION. Machine/StateLedger.lean: the ledger's entries, page tables, frames and pools, and a partition with its
image, batches and rings (spec 09, 10, 14).
-/
namespace Sys2Proof.Machine

/-- A leaf entry (R250). -/
structure Leaf where
  frame : Nat := 0
  st : Nat := 0
  unrot : Bool := false
  ext : Nat := 0
  deriving DecidableEq, Repr

/-- An open page record (R261): the committed parts of each slot, the attribution queue, its table block. -/
structure FOpen where
  parts : Map Nat := []
  attr : Nat := 0
  block : Nat := 0
  deriving DecidableEq, Repr

/-- What is kept of a page that is out in host memory: its open record, its seal counts, whether it was imported (R268), and for
an image its fade score (R273, R277). -/
structure OpenRec where
  open_ : Option FOpen := none
  last : Nat := 0
  isSealed : Bool := false
  fade : Nat := 0
  imported : Bool := false
  deriving DecidableEq, Repr

/-- A live walk as the ledger knows it (R223, R253). -/
structure LWalk where
  id : Nat
  gen : Nat
  layer : Nat
  length : Nat
  deriving DecidableEq, Repr

/-- A ledger entry with its page tables. Leaf entries and open records are keyed `layer * 65536 + page`,
leaf tables `layer * 1024 + root index` (value: block number + 1), lengths by layer. `pends` holds pending seal requests
(count, attribution queue), `exts` the extents whose frames the entry refers to (first frame, EXT). -/
structure LEntry where
  gen : Nat := 0
  st : Nat := 0
  taken : Bool := false
  owner : Nat := 0
  model : Nat := 0
  compactOk : Bool := false
  tgen : Nat := 0
  sink : Nat := 0
  lenCap : Nat := 0
  reserved : Nat := 0
  qrot : Nat := 0
  krot : Nat := 0
  root : Nat := 0
  rootLen : Nat := 0
  recent : Nat := 0
  dest : Nat := 0
  pfx : Nat := 0xFFFFFFFF
  forkAt : Nat := 0
  leafs : Map Leaf := []
  tables : Map Nat := []
  lens : Map Nat := []
  opens : Map OpenRec := []
  pends : Map (Nat × Nat) := []
  exts : List (Nat × Nat) := []
  walks : List LWalk := []
  swapMarks : List Nat := []
  released : Bool := false
  deriving DecidableEq, Repr

/-- A frame record (R266): references, fade score, last sealed count, SEALED, and the pins that hold it; `born` names the
allocation that it belongs to, `imported` whether IMPORT filled it (R268). -/
structure Frame where
  ref : Nat := 0
  fade : Nat := 0
  last : Nat := 0
  isSealed : Bool := false
  pins : Nat := 0
  remit : Nat := 0
  zombie : Bool := false
  open_ : Option FOpen := none
  born : Nat := 0
  imported : Bool := false
  deriving DecidableEq, Repr

/-- A cache model and its frame pool (R242 to R245). -/
structure Model where
  layers : Nat := 0
  kvHeads : Nat := 0
  headDim : Nat := 0
  fmt : Nat := 0
  poolVpn : Nat := 0
  poolPages : Nat := 0
  recBlock : Nat := 0
  recBlocks : Nat := 0
  frames : Map Frame := []
  deriving DecidableEq, Repr

/-- An old leaf held for live walks (R254). -/
structure Shadow where
  block : Nat
  entry : Nat
  key : Nat
  walks : List Nat
  deriving DecidableEq, Repr

/-- An attention item formed at admission (R294). -/
structure Item where
  sess : Nat
  seq : Nat
  entry : Nat
  qpos : Nat
  qtok : Nat
  valid : Nat
  head : Nat
  chunk : Nat
  splits : Nat
  idx : Nat
  cost : Nat
  qrow : Nat
  group : Nat
  cell : Nat := 0
  deriving DecidableEq, Repr

/-- A session record of a batch. -/
structure Sess where
  seq : Nat
  pos : Nat
  tokens : Nat
  eot : Bool
  entry : Nat
  deriving DecidableEq, Repr

/-- A batch: admitted ahead, then running (R297). `took` is what its admission took, by record: the entry, its handle, and RESERVED
as it was before (none: the entry is new). -/
structure Batch where
  num : Nat
  cmd : Nat
  bucket : Nat
  arg0 : Nat
  arg1 : Nat
  sess : List Sess
  items : List Item
  rows : Nat
  attr : Nat
  status : Status := .done
  faultKey : Option (Nat × Nat × Nat) := none
  ended : Bool := false
  flags : Flags := {}
  startedAt : Nat := 0
  took : List ((Nat × Nat) × Option Nat) := []
  deriving DecidableEq, Repr

/-- An attention cell of an image: logical cell and the buffers of its three roles. -/
structure ACell where
  lcell : Nat
  wl : Nat
  rm : Nat
  ma : Nat
  deriving DecidableEq, Repr

/-- The loaded image of a partition (R284). -/
structure Image where
  model : Nat
  group : Nat
  qchunk : Nat
  rowsMax : Nat
  mtFirst : Nat
  mtCount : Nat
  buckets : List (Nat × Nat)
  cells : List (Nat × Nat)
  attn : List ACell
  regions : List (Nat × Nat)
  code : List (Nat × Nat × Nat)
  crc : List (Nat × Nat)
  damaged : Bool := false
  deriving DecidableEq, Repr

/-- PLACE_FAIL. -/
structure PlaceFail where
  kind : Nat := 0
  index : Nat := 0
  status : Nat := 0
  valid : Bool := false
  deriving DecidableEq, Repr

/-- A partition. -/
structure Part where
  st : PState := .free
  mgrFunc : Nat := 0
  mgrEn : Bool := false
  killCause : Nat := 0
  cellsZeroed : Bool := false
  memZeroed : Bool := false
  blocks : Nat := 0
  pageQuota : Nat := 0
  mttBase : Nat := 0
  mttEn : Bool := false
  cmd : Ring := {}
  comp : Ring := {}
  evt : Ring := {}
  fetched : List (Nat × Rec) := []
  fetchIdx : Nat := 0
  commits : List Nat := []
  cellMap : Map Nat := []
  zeroing : List Nat := []
  killAt : Nat := 0
  stopAt : Nat := 0
  scrubBytes : Nat := 0
  scrubLate : Bool := false
  zeroList : List (Nat × Nat) := []
  ended : Nat := 0
  -- ledger
  ledQuota : Nat := 0
  poolMpa : Nat := 0
  poolPages : Nat := 0
  blocksUsed : Map Nat := []
  shadows : List Shadow := []
  models : Map Model := []
  entrySel : Nat := 0
  -- sessions
  image : Option Image := none
  ahead : Option Batch := none
  running : Option Batch := none
  lastBatch : Nat := 0
  lastStatus : Nat := 0
  clearMode : Bool := true
  placeFail : PlaceFail := {}
  -- recovery
  inRecovery : Bool := false
  recStatus : Nat := 0
  recEnded : Nat := 0
  -- tallies and windows
  tallyQuota : Nat := 0
  quotaLocked : Bool := false
  tallySel : Nat := 0
  winQuota : Nat := 0
  winSel : Nat := 0
  winLateAt : Option Nat := none
  winLateSup : Nat := 0
  -- remittance and fabric quotas live with their engines
  groupQuota : Nat := 0
  deriving DecidableEq, Repr

end Sys2Proof.Machine
end

