-- ==== Sys2Proof/Machine/StateFabric.lean ====
section
/-!
DEFINITION. Machine/StateFabric.lean: the state of the Ethernet ports and remittance engines of the four E-dies (spec 11)
and of the Sniedor links, connections, groups and collectives (spec 13).
-/
namespace Sys2Proof.Machine

/-! Remittance. -/
/-- A packet of a queue pair, held in the egress store until it is acknowledged (R313): RoCEv2 opcode, remote address and
key of a First or Only packet, DMA length of the write, immediate data, payload. -/
structure RPkt where
  psn : Nat
  op : Nat
  va : Nat := 0
  rkey : Nat := 0
  dmaLen : Nat := 0
  imm : Nat := 0
  ackReq : Bool := false
  len : Nat
  data : Nat
  remit : Nat
  first : Bool := false
  sent : Option Nat := none
  deriving DecidableEq, Repr

/-- A queue-pair context (R305): 0 FREE, 1 READY, 2 ERROR. `pkts` holds its packets in PSN order; the first `done` of
them have been sent since the last resumption. -/
structure QP where
  st : Nat := 0
  part : Nat := 0
  port : Nat := 0
  err : Nat := 0
  desc : Rec := 0
  nextPsn : Nat := 0
  pkts : List RPkt := []
  done : Nat := 0
  retries : Nat := 0
  rnr : Nat := 0
  rate : Nat := 0
  freeAt : Nat := 0
  rnrAt : Option Nat := none
  cnpAt : Option Nat := none
  rateAt : Nat := 0
  ackAt : Nat := 0
  noticeSeq : Nat := 0
  deriving DecidableEq, Repr

/-- A remittance from hand-off to its end (R312 to R324); `held` counts its bytes in the egress store. -/
structure Remit where
  id : Nat
  part : Nat
  seq : Nat
  dest : Nat
  layer : Nat
  page : Nat
  model : Nat
  frame : Nat
  c : Nat
  serial : Nat
  time : Nat
  edie : Nat
  resend : Bool := false
  cmd : Option Nat := none
  attr : Nat := 0
  handed : Nat := 0
  checked : Bool := false
  read : Bool := false
  qp : Option Nat := none
  descr : Rec := 0
  left : Nat := 0
  bytes : Nat := 0
  held : Nat := 0
  fast : Bool := true
  wired : Bool := false
  deriving DecidableEq, Repr

/-- An Ethernet port; `busyTill` is when the last packet's bits have left. -/
structure EthPort where
  up : Bool := false
  iface : Nat := 0
  since : Nat := 0
  lostAt : Option Nat := none
  pauseAt : Option Nat := none
  rr : Nat := 0
  busyTill : Nat := 0
  fecC : Nat := 0
  fecU : Nat := 0
  viol : Map Nat := []
  violSeen : Map Nat := []
  violAt : Option Nat := none
  deriving DecidableEq, Repr

/-- The port group, queue pairs and engine of one E-die. -/
structure EDie where
  qps : Map QP := []
  q : List Nat := []
  used : Nat := 0
  cache : List (Nat × Nat × Nat) := []
  ports : Map EthPort := []
  wireMax : Nat := 0
  wireLast : Nat := 0
  wireOther : Nat := 0
  deriving DecidableEq, Repr

/-- Remittance state of the module. -/
structure Rem where
  edies : Map EDie := []
  remits : List Remit := []
  serial : Nat := 0
  dests : Map (Nat × Bool) := []
  clears : List (Nat × Nat × Nat) := []
  deriving DecidableEq, Repr

/-! Fabric. -/
/-- A packet: its 32-byte header and its payload. -/
structure Pkt where
  h : Nat
  data : Nat := 0
  deriving DecidableEq, Repr

/-- A data flit in a replay buffer: FSEQ, 256 bytes, times sent. -/
structure TxFlit where
  seq : Nat
  bytes : Nat
  sends : Nat := 1
  deriving DecidableEq, Repr

/-- A packet in a virtual channel's queue of an outgoing link, with the time it began to wait. -/
structure VcPkt where
  vc : Nat
  pkt : Pkt
  at_ : Nat
  deriving DecidableEq, Repr

/-- A Sniedor port (R353 to R359); states 0 DISABLED, 1 TRAIN, 2 UP, 3 RECOVER, 4 DOWN. `owed` counts the credits to return once the
port is UP again. Number 24 is the receive side of the Kwasar link (R467, R468), whose messages stand in `rx` as packets with a
header of 16 bytes and whose state is that of the hub. -/
structure Link where
  st : Nat := 0
  since : Nat := 0
  peerNode : Nat := 0
  peerPort : Nat := 0
  identFault : Bool := false
  retrains : Nat := 0
  txSeq : Nat := 0
  replay : List TxFlit := []
  q : List VcPkt := []
  rr : Nat := 0
  credits : Map Nat := []
  rxSeq : Nat := 0
  goodAt : Nat := 0
  rxBuf : Nat × Nat := (0, 0)
  rx : List Pkt := []
  rxUsed : Map Nat := []
  owed : Map Nat := []
  stallAt : Map Nat := []
  deriving DecidableEq, Repr

/-- A packet on a connection that has not been answered. -/
structure OutPkt where
  cseq : Nat
  pkt : Pkt
  from_ : Origin
  at_ : Nat
  deriving DecidableEq, Repr

/-- The connection to another node (R364 to R366). -/
structure Conn where
  epoch : Nat := 0
  next : Nat := 0
  out : List OutPkt := []
  wait : List (Pkt × Origin) := []
  timeouts : Nat := 0
  broken : Option Nat := none
  deriving DecidableEq, Repr

/-- The connection from another node: expected CSEQ, and the answer log of the last 512 accepted (status 0x100 while the
answer is not made yet). -/
structure RConn where
  epoch : Nat := 0
  expect : Nat := 0
  log : List (Nat × Nat) := []
  deriving DecidableEq, Repr

/-- A group (R368, R369). -/
structure Group where
  part : Nat
  tag : Nat
  members : List Nat
  fanin : Nat
  rank : Nat
  seq : Nat := 0
  clearing : Option Nat := none
  deriving DecidableEq, Repr

/-- A collective in one of a partition's four queues (R379 to R384). Ranks whose COLL_READY has come; E-die → own chunks
added, and chunks no longer in flight; chunk → packets summed, and packets that the parent has answered; packet index → sum and
contributors; result offsets placed; sender rank → rows + 1, bytes. -/
structure Coll where
  id : Nat
  part : Nat
  cmd : Nat
  group : Nat
  tag : Nat
  seq : Nat
  desc : Rec
  started : Bool := false
  ready : List Nat := []
  rmem : Bool := false
  fallback : Bool := false
  sat : Bool := false
  at_ : Nat := 0
  own : Map Nat := []
  ownAll : Bool := false
  done : Map Nat := []
  left : Map Nat := []
  acked : Map Nat := []
  sums : Map Nat := []
  have_ : Map Nat := []
  placed : Nat := 0
  marker : Bool := false
  got : Map Nat := []
  counts : Map Nat := []
  upFrom : List Nat := []
  refuse : Bool := false
  refuseUp : Bool := false
  agreed : Bool := false
  rows : Map Nat := []
  deriving DecidableEq, Repr

/-- A kept rendezvous entry: partition, TAG, SEQ, the packet. -/
structure Rdv where
  part : Nat
  pkt : Pkt
  deriving DecidableEq, Repr

/-- An arrival that waits to be delivered to an engine, with the node it came from and its CSEQ (none: local). -/
structure Inbox where
  pkt : Pkt
  conn : Option Nat
  deriving DecidableEq, Repr

/-- The Sniedor fabric of the module. `fresh` are the links on which the command in progress has put packets. -/
structure Fab where
  links : Map Link := []
  routes : Map Nat := []
  conns : Map Conn := []
  rconns : Map RConn := []
  localq : List Pkt := []
  inbox : List Inbox := []
  answers : List (Origin × Nat × Pkt) := []
  groups : Map (Option Group) := []
  colls : List Coll := []
  ringWait : List Nat := []
  rdv : List Rdv := []
  retry : List (Nat × Nat × Pkt) := []
  rmemUsed : Map Nat := []
  rmemPeak : Map Nat := []
  progress : Map Nat := []
  violSeen : Map Nat := []
  violAt : Map Nat := []
  fresh : List Nat := []
  deriving DecidableEq, Repr

end Sys2Proof.Machine
end

