-- ==== Sys2Proof/Machine/StatePower.lean ====
section
/-!
DEFINITION. Machine/StatePower.lean: the state of power control, clocks, reset and start-up (spec 15, 16).
-/
namespace Sys2Proof.Machine

/-- A purse of a C-die's region (R418 to R422): coins held by cell, waiting requests in order of arrival, grants of the
last microsecond. -/
structure Purse where
  cap : Nat := 0
  held : List (Nat × Nat) := []
  waiters : List (Nat × Nat × Nat) := []
  grants : List (Nat × Nat) := []
  deriving DecidableEq, Repr

/-- A COMMIT that has been received and waits for its switch (R435). -/
structure Commit where
  serial : Nat
  point : Nat
  at_ : Nat
  late : Bool := false
  deriving DecidableEq, Repr

/-- Power and thermal control. `k` is PWR_CAL.K with 16 more fraction bits; powers are in watts. `volt` is the rails' table voltage in
mV (none: that of P7) and `rampFrom` a ramp in progress with its start and its voltage then; `alertEmer` and `heatEmer` keep P7 after
an emergency that ended at MODULE_TIME `relTime`; `slowPoint` is a LOST member's own slower point. -/
structure Power where
  purses : Map Purse := []
  k : Nat := 4096 * 65536
  frozen : Bool := false
  est : Nat := 0
  raw : Nat := 0
  telem : Nat := 0
  lost : Bool := false
  stageAt : Map Nat := []
  cap : Nat := 0
  h2 : List Nat := []
  h1s : List Nat := []
  divSince : Option Nat := none
  agreeSince : Option Nat := none
  diverged : Bool := false
  guard : Bool := false
  guardAt : Nat := 0
  susPoint : Nat := 0
  susAt : Option Nat := none
  susLow : Option Nat := none
  memThr : Nat := 0
  memAt : Option Nat := none
  memClear : Option Nat := none
  ticks : Map Nat := []
  point : Nat := 7
  committed : Nat := 7
  requested : Nat := 7
  sentReq : Nat := 8
  urgentSent : Bool := false
  lock : Nat := 0
  volt : Option Nat := none
  rampFrom : Option (Nat × Nat) := none
  commit : Option Commit := none
  serial : Nat := 0
  commitAt : Nat := 0
  reqs : Map (Nat × Bool × Nat) := []
  lastSent : Option Commit := none
  alert : Option Nat := none
  alertRel : Option Nat := none
  stuckAt : Option Nat := none
  alertHold : Bool := false
  alertEmer : Bool := false
  heatEmer : Bool := false
  relTime : Nat := 0
  slowPoint : Nat := 0
  thPoint : Nat := 0
  thAt : Option Nat := none
  thCool : Option Nat := none
  thEmer : Bool := false
  thEmerEnd : Option Nat := none
  hotSince : Option Nat := none
  temps : Map Nat := []
  peaks : Map Nat := []
  invalid : Map Nat := []
  hotAt : Nat × Nat × Nat := (0, 0, 0)
  reason : Nat := 0
  reasonPosted : Nat := 0
  reasonAt : Nat := 0
  reasonPostAt : Option Nat := none
  droop : Map Bool := []
  energyAt : Nat := 0
  deriving DecidableEq, Repr

/-- A clock domain of a die (R444 to R456), `on` once its clock has been released since boot; codes 0 ACLK, 1 NCLK, 2 MCLK, 3 ECLK, 4 FCLK, 5 KCLK, 6 QCLK. -/
structure Dom where
  locked : Bool := false
  on : Bool := false
  stopped : Bool := false
  stopAt : Nat := 0
  inReset : Bool := false
  causes : List Nat := []
  deriving DecidableEq, Repr

/-- Clocks, reset, boot and job time. `up` tells whether module reset is released. -/
structure Clk where
  doms : Map Dom := []
  absent100 : Map Bool := []
  absent156 : Map Bool := []
  overrun : Map Nat := []
  power : Bool := false
  pgood : Bool := false
  powerAt : Nat := 0
  latched : Bool := false
  modResetN : Bool := false
  up : Bool := false
  step : Nat := 0
  stepAt : Nat := 0
  failed : Bool := false
  ready : Bool := false
  status : Nat := 0
  subch : Nat := 0
  times : Map Nat := []
  cause : Nat := 0
  causeDom : Nat := 0
  causeReg : Nat := 0
  memRate : Nat := 0
  -- job time
  aligned : Bool := false
  slew : Int := 0
  offset : Int := 0
  good : Nat := 0
  timeRx : Map (Nat × Nat × Nat) := []
  timeTick : Map Nat := []
  calib : Map Nat := []
  corrAt : Nat := 0
  deriving DecidableEq, Repr

end Sys2Proof.Machine
end

