-- ==== Sys2Proof/Machine/StateSec.lean ====
section
/-!
DEFINITION. Machine/StateSec.lean: the state of the root of trust, of attestation and of the sideband pins (spec 18, 20).
-/
namespace Sys2Proof.Machine

/-- ATTEST_CTRL of a partition and the request in progress: kind 0 report, 1 certificates. -/
structure Attest where
  busy : Bool := false
  kind : Nat := 0
  status : Nat := 0
  extends_ : Nat := 0
  left : Nat := 0
  total : Nat := 0
  bad : Option Status := none
  deriving DecidableEq, Repr

/-- FW_STAGE_CTRL's status and the staging in progress. -/
structure Stage where
  busy : Bool := false
  status : Nat := 0
  left : Nat := 0
  got : Nat := 0
  img : Nat := 0
  bad : Option Status := none
  deriving DecidableEq, Repr

/-- Fuses blown and flash written since manufacture, which every reset keeps (R455, R488, R490). -/
structure SecKept where
  keySvn : Nat := 0
  fwSvn : Nat := 0
  sessions : Nat := 0
  owner1 : Option (BitVec 384) := none
  owner2 : Option (BitVec 384) := none
  owner1Rev : Bool := false
  slots : Map (Option Nat) := []
  pref : Option Bool := none
  debugRec : Option Nat := none
  draws : Nat := 0
  releases : Nat := 0
  deriving DecidableEq, Repr

/-- What module reset clears. -/
structure Sec where
  slot : Nat := 0
  fallback : Bool := false
  fbStatus : Nat := 0
  fbCheck : Nat := 0
  fbSvn : Nat := 0xFF
  debugActive : Bool := false
  imageSvn : Nat := 0
  manSvn : Nat := 0
  rate : Nat := 0
  meas : Map (BitVec 384) := []
  partMeas : Map (BitVec 384) := []
  attest : Map Attest := []
  dirWin : Memory := []
  dirStatus : Nat := 0
  dirCheck : Nat := 0
  nonce : BitVec 256 := 0
  stage : Stage := {}
  chatterAlert : Bool := false
  chatterTrst : Bool := false
  deriving DecidableEq, Repr

/-- The TAP and the latches of the sideband, which module reset keeps: the instruction in force (0 IDCODE, 1 BYPASS,
2 SAMPLE/PRELOAD, 3 EXTEST, 4 debug of the hub firmware, 5 management access), the last assertion of TRST_N, the thermal
trip's latch (R537), FAULT_N kept through the reset after a module-fatal stop (R536), and PWR_ALERT_N after its filter (R540). -/
structure Pins where
  ir : Nat := 0
  trstAt : Nat := 0
  tripped : Bool := false
  faultKept : Bool := false
  alert : Bool := false
  addr : Nat := 0
  iface : Nat := 0
  deriving DecidableEq, Repr

end Sys2Proof.Machine
end

