-- ==== Sys2Proof/Machine/Block.lean ====
section
/-!
DEFINITION. Machine/Block.lean: everything the module holds but the queue of waiting commands.
-/
namespace Sys2Proof.Machine

/-- The hub's command, DMA, tally, window and error state. -/
structure Hub where
  nextId : Nat := 0
  cmds : List Cmd := []
  dma : List Dma := []
  dmaq : List DmaWait := []
  retired : List (Nat × Nat) := []
  kw : Kw := {}
  mreqs : List MReq := []
  paths : Map MPath := []
  i3c : I3c := {}
  platEvt : Ring := { space := true }
  lastEvents : List Nat := []
  opStatus : Nat := 0
  syncing : Option Nat := none
  ptRefused : Bool := false
  -- tallies and windows
  tallies : Map Tally := []
  tq : List TUpd := []
  watches : List Watch := []
  wins : Map Win := []
  winq : List WinWrite := []
  winAcc : List WinWrite := []
  winOpens : List (Nat × Nat) := []
  tagq : List TagWait := []
  -- errors
  escal : List (Nat × Nat × Nat) := []
  fence : Nat := 0
  fenceLog : List FenceLog := []
  die : Map DieErr := []
  fatal : Option (Nat × Nat × Nat) := none
  scrubPos : Map Nat := []
  pageOwner : Map Nat := []
  zeroing : List (Nat × Nat × Nat) := []
  deriving DecidableEq, Repr

/-- Everything the module holds but the queue. `now` is MODULE_TIME's own count in ns since power-on, `aclk` the ACLK
cycles in thousandths, `free` the count of free values drawn, `nextId` names work in the order it was made. -/
structure Block where
  now : Nat := 0
  aclk : Nat := 0
  mtOff : Nat := 0
  cells : Map Cell := []
  walkers : Map Walker := []
  parts : Map Part := []
  entries : Map LEntry := []
  hub : Hub := {}
  rem : Rem := {}
  fab : Fab := {}
  pow : Power := {}
  clk : Clk := {}
  sec : Sec := {}
  kept : SecKept := {}
  pins : Pins := {}
  regs : Map Word := []
  cnts : Map Nat := []
  mem : Memory := []
  merr : Map (BitVec 72) := []
  sent : List Msg := []
  free : Nat := 0
  deriving DecidableEq, Repr

end Sys2Proof.Machine
end

