-- ==== Sys2Proof/Machine/Ops.lean ====
section
/-!
DEFINITION. Machine/Ops.lean: the shared operations over the block's state: units, counters, events, rings, DMA,
translation and memory words.
-/
namespace Sys2Proof.Machine

/-! Units. -/
def Block.cell (b : Block) (n : Nat) : Cell := mget {} b.cells n
def Block.setCell (b : Block) (n : Nat) (c : Cell) : Block := { b with cells := mset {} b.cells n c }
def Block.modCell (b : Block) (n : Nat) (f : Cell → Cell) : Block := b.setCell n (f (b.cell n))
def Cell.thread (c : Cell) (t : Nat) : Thread := mget {} c.thr t
def Cell.setThread (c : Cell) (t : Nat) (x : Thread) : Cell := { c with thr := mset {} c.thr t x }
def Cell.modThread (c : Cell) (t : Nat) (f : Thread → Thread) : Cell := c.setThread t (f (c.thread t))
def Block.thread (b : Block) (n t : Nat) : Thread := (b.cell n).thread t
def Block.modThread (b : Block) (n t : Nat) (f : Thread → Thread) : Block := b.modCell n (fun c => c.modThread t f)
def Block.walker (b : Block) (n : Nat) : Walker := mget {} b.walkers n
def Block.modWalker (b : Block) (n : Nat) (f : Walker → Walker) : Block :=
  { b with walkers := mset {} b.walkers n (f (b.walker n)) }
def Block.part (b : Block) (n : Nat) : Part := mget {} b.parts n
def Block.setPart (b : Block) (n : Nat) (p : Part) : Block := { b with parts := mset {} b.parts n p }
def Block.modPart (b : Block) (n : Nat) (f : Part → Part) : Block := b.setPart n (f (b.part n))
def Block.entry (b : Block) (n : Nat) : LEntry := mget {} b.entries n
def Block.setEntry (b : Block) (n : Nat) (e : LEntry) : Block := { b with entries := mset {} b.entries n e }
def Block.modEntry (b : Block) (n : Nat) (f : LEntry → LEntry) : Block := b.setEntry n (f (b.entry n))
def Block.modHub (b : Block) (f : Hub → Hub) : Block := { b with hub := f b.hub }
/-- Applies a change once for every element of a list, in order. -/
def Block.each {α : Type} (b : Block) (l : List α) (f : Block → α → Block) : Block := l.foldl f b
/-- The next identity of a piece of work. -/
def Block.newId (b : Block) : Nat × Block := (b.hub.nextId, b.modHub fun h => { h with nextId := h.nextId + 1 })
/-- A fresh free value (AN UNDEFINED VALUE): opaque, one per draw. -/
def Block.draw (b : Block) : Nat × Block := (Config.freeValue b.free, { b with free := b.free + 1 })
/-- MODULE_TIME (spec 16): the local count and the offset that alignment has given it. -/
def Block.mtime (b : Block) : Nat := (b.now + b.mtOff) % 2 ^ 64
/-- ACLK cycles since power-on. -/
def Block.cycles (b : Block) : Nat := b.aclk / 1000
/-- A message leaves the module. -/
def Block.send (b : Block) (m : Msg) : Block := { b with sent := b.sent ++ [m] }

/-! Counters and plain registers. -/
def Cell.count (c : Cell) (off : Nat) (k : Nat := 1) : Cell := { c with cnt := mmod 0 c.cnt off (fun x => (x + k) % 2 ^ 64) }
def Block.countC (b : Block) (n off : Nat) (k : Nat := 1) : Block := b.modCell n (fun c => c.count off k)
def Block.countW (b : Block) (n off : Nat) (k : Nat := 1) : Block :=
  b.modWalker n fun w => { w with cnt := mmod 0 w.cnt off (fun x => (x + k) % 2 ^ 64) }
/-- A 64-bit counter at a management address. -/
def Block.count (b : Block) (addr : Nat) (k : Nat := 1) : Block :=
  { b with cnts := mmod 0 b.cnts addr (fun x => (x + k) % 2 ^ 64) }
def Block.cnt (b : Block) (addr : Nat) : Nat := mget 0 b.cnts addr
/-- A stored register: `regs` holds its difference from the reset value, so an unlisted register reads its reset value. -/
def Block.reg (b : Block) (addr : Nat) (reset : Nat := 0) : Nat := Nat.xor (mget 0 b.regs addr).toNat reset
def Block.setReg (b : Block) (addr : Nat) (reset v : Nat) : Block :=
  { b with regs := mset (0 : Word) b.regs addr (BitVec.ofNat 64 (Nat.xor v reset)) }

/-! Register addresses of spec 12, 14, 17, 19. -/
def kwCfgAddr : Nat := 0xC7FA7008
def dmaTimeoutUs (b : Block) : Nat := bits (b.reg kwCfgAddr 2000) 0 16
def replayCfg (b : Block) : Nat := b.reg 0xC7FC1000 (2 + 4 * 256 + 3600 * 65536)
def replayLimit (b : Block) : Nat := bits (replayCfg b) 0 3
def apertureAddr (n a : Nat) : Nat := 0xC7FA2000 + 0x400 * n + 0x10 * a
/-- Whether a host range lies wholly inside one aperture of partition `n` (R51). -/
def inAperture (b : Block) (n addr len : Nat) : Bool :=
  (List.range 64).any fun a =>
    let base := b.reg (apertureAddr n a)
    let l := b.reg (apertureAddr n a + 8)
    decide (l ≠ 0) && decide (base ≤ addr) && decide (addr + len ≤ base + l)

/-! LPDDR6 words (R508 to R512): `merr` holds, for each word in error, the flipped bits of its 72-bit code word. -/

/-- Column of data bit `i` (R508): weight-3 bytes in ascending order, then weight-5 bytes. -/
def popc8 (x : Nat) : Nat := (List.range 8).foldl (fun a k => a + (x >>> k) % 2) 0
def eccColumns : List Nat := (List.range 256).filter (fun x => popc8 x == 3) ++ ((List.range 256).filter (fun x => popc8 x == 5)).take 8
/-- Column `c` of a word: data bit `c` below 64, else check bit `c - 64`. -/
def eccColumn (c : Nat) : Nat := if c < 64 then eccColumns.getD c 0 else 2 ^ (c - 64)
/-- The check byte of a data word. -/
def eccCheck (d : Nat) : Nat := (List.range 64).foldl (fun a i => if bit d i then Nat.xor a (eccColumn i) else a) 0
/-- The syndrome of a set of flipped bits (R509): the XOR of their columns. -/
def syndrome (flips : BitVec 72) : Nat := (List.range 72).foldl (fun a i => if bit flips.toNat i then Nat.xor a (eccColumn i) else a) 0

/-- What a reader makes of a word (R509). -/
inductive WordRead where
  | clean (d : Nat)
  | corrected (d syn : Nat)
  | bad (syn : Nat)
  deriving DecidableEq, Repr
/-- Reads a word whose true data is `d` with flipped bits `f`. -/
def readWord (d : Nat) (f : BitVec 72) : WordRead :=
  if f = 0 then .clean d else
    let s := syndrome f
    let got := Nat.xor d (f.toNat % 2 ^ 64)
    if s = 0 then .clean got
    else match (List.range 72).find? (fun c => eccColumn c == s) with
      | some c => .corrected (if c < 64 then Nat.xor got (2 ^ c) else got) s
      | none => .bad s
/-- The flips of a poisoned word (R510): its check byte inverted. -/
def poisonFlips : BitVec 72 := BitVec.ofNat 72 (255 * 2 ^ 64)

/-- Whether any word of an LPDDR6 range is uncorrectable. -/
def memBad (b : Block) (mpa len : Nat) : Bool :=
  (b.merr.filter fun e => decide (mpa < 8 * e.1 + 8) && decide (8 * e.1 < mpa + len)).any fun e =>
    match readWord 0 e.2 with | .bad _ => true | _ => false
/-- Writes `len` bytes to LPDDR6; whole words written become clean, and a part-written bad word stays bad. -/
def Block.memWrite (b : Block) (mpa len v : Nat) : Block :=
  { b with mem := b.mem.write mpa len v,
           merr := b.merr.filter fun e => !(decide (mpa ≤ 8 * e.1) && decide (8 * e.1 + 8 ≤ mpa + len)) }
/-- Reads `len` bytes of LPDDR6. -/
def Block.memRead (b : Block) (mpa len : Nat) : Nat := b.mem.read mpa len
/-- Zero-fills LPDDR6. -/
def Block.memZero (b : Block) (mpa len : Nat) : Block :=
  { b with mem := b.mem.zero mpa len, merr := mclear b.merr (mpa / 8) ((mpa + len + 7) / 8) }

/-! Translation (R41, R43, R44). -/
/-- E-die of a module physical address. -/
def mpaEdie (a : Nat) : Nat := a / 2 ^ 38 % 4
/-- Page of a module physical address within its E-die. -/
def mpaPage (a : Nat) : Nat := a / 2 ^ 21 % 2 ^ 17
/-- The subchannel of its E-die that holds the 256-byte granule of a module physical address (R44). -/
def mpaSubchannel (a : Nat) : Nat := (a % 2 ^ 21 / 256 + 7 * mpaPage a) % 48
/-- The number of a physical page, all E-dies together: `EDIE * 2^17 + PAGE`. -/
def pageKey (edie page : Nat) : Nat := edie * 131072 + page
/-- The MPA of a physical page. -/
def pageMpa (key : Nat) : Nat := key / 131072 * 2 ^ 38 + key % 131072 * 2 ^ 21
/-- The MTT entry of a VPN, read from platform-reserved memory. -/
def mttEntry (b : Block) (n vpn : Nat) : Nat := b.memRead ((b.part n).mttBase + 8 * vpn) 8
def mttV (e : Nat) : Bool := bit e 0
def mttR (e : Nat) : Bool := bit e 1
def mttW (e : Nat) : Bool := bit e 2
def mttKind (e : Nat) : Nat := bits e 3 2
def mttKey (e : Nat) : Nat := pageKey (bits e 25 2) (bits e 8 17)
/-- An MTT entry's value. -/
def mttMake (kind : Nat) (r w : Bool) (key : Nat) : Nat :=
  1 + 2 * b2n r + 4 * b2n w + kind * 8 + (key % 131072) * 256 + (key / 131072) * 2 ^ 25
/-- What an access may do: the rights KIND gives beyond R and W (R41). -/
inductive Access where
  | tenantRead | tenantWrite | weightRead | hubRead0 | hubWrite0 | frame | weightWrite
  deriving DecidableEq, Repr
def mttAllows (e : Nat) : Access → Bool
  | .tenantRead => mttR e
  | .tenantWrite => mttW e && decide (mttKind e = 0)
  | .weightRead => mttR e && decide (mttKind e = 1)
  | .hubRead0 => mttR e && decide (mttKind e = 0)
  | .hubWrite0 => mttW e && decide (mttKind e = 0)
  | .frame => decide (mttKind e = 2)
  | .weightWrite => decide (mttKind e = 1)
/-- Translates one PVA (R43); `none` is a PROTECTION. -/
def translate (b : Block) (n : Nat) (acc : Access) (pva : Nat) : Option Nat :=
  let p := b.part n
  if !p.mttEn || decide (2 ^ 40 ≤ pva) then none else
    let e := mttEntry b n (pva / 2 ^ 21)
    if mttV e && mttAllows e acc then some (pageMpa (mttKey e) + pva % 2 ^ 21) else none
/-- Whether every page of a PVA range is mapped with the right. -/
def pvaOk (b : Block) (n : Nat) (acc : Access) (pva len : Nat) : Bool :=
  decide (pva + len ≤ 2 ^ 40) &&
  (List.range ((pva + len - 1) / 2 ^ 21 + 1 - pva / 2 ^ 21)).all fun i => (translate b n acc ((pva / 2 ^ 21 + i) * 2 ^ 21)).isSome
/-- Reads a PVA range that `pvaOk` holds of, page by page. -/
def pvaRead (b : Block) (n : Nat) (acc : Access) (pva : Nat) : Nat → Nat → Nat
  | 0, _ => 0
  | fuel + 1, len =>
    let l := min len (2 ^ 21 - pva % 2 ^ 21)
    if l = 0 then 0 else
      let v := match translate b n acc pva with | some a => b.memRead a l | none => 0
      v + 2 ^ (8 * l) * pvaRead b n acc (pva + l) fuel (len - l)
/-- Writes a PVA range, page by page. -/
def pvaWrite (b : Block) (n : Nat) (acc : Access) (pva : Nat) : Nat → Nat → Nat → Block
  | 0, _, _ => b
  | fuel + 1, len, v =>
    let l := min len (2 ^ 21 - pva % 2 ^ 21)
    if l = 0 then b else
      let b' := match translate b n acc pva with | some a => b.memWrite a l v | none => b
      pvaWrite b' n acc (pva + l) fuel (len - l) (v / 2 ^ (8 * l))
def pvaFuel (len : Nat) : Nat := len / 2 ^ 21 + 2
/-- Whether any word of a PVA range is uncorrectable. -/
def pvaBad (b : Block) (n : Nat) (acc : Access) (pva len : Nat) : Bool :=
  (List.range ((pva + len - 1) / 2 ^ 21 + 1 - pva / 2 ^ 21)).any fun i =>
    let lo := max pva ((pva / 2 ^ 21 + i) * 2 ^ 21)
    let hi := min (pva + len) ((pva / 2 ^ 21 + i + 1) * 2 ^ 21)
    match translate b n acc lo with | some a => memBad b a (hi - lo) | none => false

/-! DMA (R471 to R473). -/
/-- The Kwasar link carries traffic: it is UP, KCLK runs, and no module-fatal stop has idled the transmitters (R522). -/
def kwUp (b : Block) : Bool := decide (b.hub.kw.st = 2) && !b.hub.kw.frozen && b.hub.fatal.isNone
/-- A tag that is neither outstanding nor retired. -/
def freeTag (h : Hub) : Option Nat :=
  (List.range 256).find? fun t => !(h.dma.any fun d => d.tag == t) && !(h.retired.any fun r => r.1 == t)
/-- The next waiting transfer: control before bulk, partitions round-robin after the last one served (R22, R473). -/
def dmaPick (h : Hub) : Option DmaWait :=
  let q := if h.dmaq.any (fun w => !w.bulk) then h.dmaq.filter (fun w => !w.bulk) else h.dmaq
  let order := (List.range 17).map fun i => (h.kw.rr + 1 + i) % 17
  (order.findSome? fun n => q.find? fun w => w.part == n)
/-- Issues waiting transfers while the link is up and a tag is free. -/
def dmaIssue : Nat → Block → Block
  | 0, b => b
  | fuel + 1, b =>
    match kwUp b, freeTag b.hub, dmaPick b.hub with
    | true, some t, some w =>
      let d : Dma := { tag := t, write := w.write, func := w.func, addr := w.addr, len := w.len, use := w.use, data := w.data, sent := b.now }
      let b := b.modHub fun h => { h with dmaq := h.dmaq.erase w, dma := h.dma ++ [d], kw := { h.kw with rr := w.part } }
      let b := b.send (.kw (if w.write then 0x07 else 0x05) w.func t w.len 0 w.addr (if w.write then w.data else 0))
      dmaIssue fuel (if w.write then b.count 0xC7FA7848 w.len else b)
    | _, _, _ => b
/-- Queues a transfer and issues what can be issued. -/
def dmaPush (b : Block) (w : DmaWait) : Block :=
  let b := b.modHub fun h => { h with dmaq := h.dmaq ++ [w] }
  dmaIssue (b.hub.dmaq.length) b

/-! Event records (R14, R15) and rings (R474 to R478, R549). -/
/-- A 32-byte event record. `part` is the PART byte. -/
def eventRec (ty : Nat) (st : Status) (sev loc part time detail : Nat) : Nat :=
  ty + st.code * 2 ^ 16 + sev * 2 ^ 24 + loc * 2 ^ 32 + part * 2 ^ 48 + time * 2 ^ 64 + (detail % 2 ^ 128) * 2 ^ 128
/-- DETAIL from a list of (byte offset from 16, bytes, value). -/
def detail (l : List (Nat × Nat × Nat)) : Nat := l.foldl (fun a x => a + (x.2.2 % 2 ^ (8 * x.2.1)) * 2 ^ (8 * (x.1 - 16))) 0
def Ring.size (r : Ring) : Nat := 2 ^ r.log2
def Ring.full (r : Ring) : Bool := decide (r.size ≤ (r.issued + 2 ^ 32 - r.head) % 2 ^ 32)
/-- Sends NOTIFY for a ring, merged while one is in flight (R478). -/
def notify (b : Block) (n vec : Nat) : Block := b.send (.kw 0x09 (b.part n).mgrFunc 0 0 0 vec 0)

/-- Writes a record to the platform ring, in platform pages, or counts it as lost (R477). -/
def platPut (b : Block) (rec : Nat) : Block :=
  let r := b.hub.platEvt
  if r.full then b.modHub fun h => { h with platEvt := { r with lost := satAdd 32 r.lost 1, lostNew := r.lostNew + 1 } }
  else (b.memWrite (r.base + 32 * (r.issued % r.size)) 32 rec).modHub fun h =>
    { h with platEvt := { r with issued := (r.issued + 1) % 2 ^ 32, tail := (r.issued + 1) % 2 ^ 32 } }
/-- Once the platform ring has space again, EVENTS_LOST goes first (R477). -/
def platLost (b : Block) : Block :=
  let r := b.hub.platEvt
  if !r.en || r.full || r.lostNew == 0 then b else
  platPut (b.modHub fun h => { h with platEvt := { h.platEvt with lostNew := 0 } }) (eventRec 0x0C03 .done 0 chipLoc 0x80 b.mtime (detail [(16, 4, r.lostNew)]))
/-- Posts a record to the platform ring; copies SEVERITY 3 and 4 into PLAT_LAST_EVENT (R484). -/
def postPlat (b : Block) (rec : Nat) : Block :=
  let sev := bits rec 24 8
  let b := if sev = 3 ∨ sev = 4 then
      let b := b.modHub fun h => { h with lastEvents := (rec :: h.lastEvents).take 4 }
      if b.hub.i3c.ibi then b.send (.ibi 1) else b
    else b
  if !b.hub.platEvt.en then b else platPut (platLost b) rec

/-- Drops an event of partition `n` (R477). -/
def lostEvent (b : Block) (n : Nat) : Block :=
  b.modPart n fun p => { p with evt := { p.evt with lost := satAdd 32 p.evt.lost 1, lostNew := p.evt.lostNew + 1 } }
/-- Faults ring `r` of partition `n` (R475, R549) and posts RING_FAULT, for the event ring itself to the platform. -/
def eventRingFault (b : Block) (n : Nat) (st : Status) (check idx : Nat) : Block :=
  let b := b.modPart n fun p => { p with evt := { p.evt with fault := true } }
  postPlat b (eventRec 0x0C02 st 0 chipLoc (n + 0x80) b.mtime (detail [(16, 1, 2), (17, 1, check), (18, 4, idx)]))
/-- Writes one record to partition `n`'s event ring. -/
def putEvent (b : Block) (n rec : Nat) : Block :=
  let r := (b.part n).evt
  if r.full then lostEvent b n
  else if r.space then
    let a := r.base + 32 * (r.issued % r.size)
    match translate b n .hubWrite0 a with
    | none => lostEvent (eventRingFault b n .protection 5 r.issued) n
    | some m => (b.memWrite m 32 rec).modPart n fun p =>
        { p with evt := { p.evt with issued := (r.issued + 1) % 2 ^ 32, tail := (r.issued + 1) % 2 ^ 32 } }
  else if !kwUp b then lostEvent b n
  else
    let b := b.modPart n fun p => { p with evt := { p.evt with issued := (r.issued + 1) % 2 ^ 32 } }
    dmaPush b { part := n, write := true, func := (b.part n).mgrFunc, addr := r.base + 32 * (r.issued % r.size), len := 64,
                data := rec, use := .event n, bulk := false }
/-- Posts a record to partition `n`'s event ring; from the partition's kill until it is assigned again, only if the ring lies in
host memory (R15, R477). -/
def postPart (b : Block) (n rec : Nat) : Block :=
  let p := b.part n
  if !p.evt.en then b
  else if p.st ≠ .active ∧ p.evt.space then b
  else
    let b := if p.evt.lostNew ≠ 0 && !p.evt.full && (p.evt.space || kwUp b) then
        putEvent (b.modPart n fun p => { p with evt := { p.evt with lostNew := 0 } }) n
          (eventRec 0x0C03 .done 0 chipLoc n b.mtime (detail [(16, 4, p.evt.lostNew)]))
      else b
    putEvent b n rec
/-- An event of partition `n`'s own: to its ring, and to the platform ring as well at SEVERITY 3; SEVERITY 4 goes to
the platform ring only (R15). -/
def event (b : Block) (n ty : Nat) (st : Status) (sev loc det : Nat) : Block :=
  let b := if sev = 4 then b else postPart b n (eventRec ty st sev loc n b.mtime det)
  if sev = 3 ∨ sev = 4 then postPlat b (eventRec ty st sev loc (n + 0x80) b.mtime det) else b
/-- An event for the platform ring only; `n` is the partition it concerns. -/
def eventPlat (b : Block) (n ty : Nat) (st : Status) (sev loc det : Nat) : Block :=
  postPlat b (eventRec ty st sev loc (n + 0x80) b.mtime det)
/-- An event for both rings. -/
def eventBoth (b : Block) (n ty : Nat) (st : Status) (sev loc det : Nat) : Block :=
  eventPlat (postPart b n (eventRec ty st sev loc n b.mtime det)) n ty st sev loc det

/-! Tallies (R334 to R342). -/
def tallyKey (n h : Nat) : Nat := n * 4096 + h
def Block.tally (b : Block) (n h : Nat) : Tally := mget {} b.hub.tallies (tallyKey n h)
def Block.modTally (b : Block) (n h : Nat) (f : Tally → Tally) : Block :=
  b.modHub fun u => { u with tallies := mmod {} u.tallies (tallyKey n h) f }
/-- The serial comparison of R336. -/
def holds (t v : Nat) : Bool := decide ((t + 2 ^ 32 - v % 2 ^ 32) % 2 ^ 32 < 2 ^ 31)
def tallyOk (b : Block) (n h : Nat) : Bool := decide (h < (b.part n).tallyQuota)
/-- Fires an armed threshold that holds (R342). -/
def tallyFire (b : Block) (n h : Nat) : Block :=
  let t := b.tally n h
  if t.armed && holds t.val t.thresh then
    event (b.modTally n h fun t => { t with armed := false }) n 0x0701 .done 0 chipLoc
      (detail [(16, 2, h), (20, 4, t.thresh), (24, 4, t.val)])
  else b
/-- Applies one update: value, waits, threshold (R337, R339, R342). -/
def tallyApply (b : Block) (u : TUpd) : Block :=
  let b := b.modTally u.part u.handle fun t => { t with val := (if u.set then u.amount else t.val + u.amount) % 2 ^ 32 }
  let v := (b.tally u.part u.handle).val
  let hit (w : Watch) : Bool := w.part == u.part && w.handle == u.handle && !w.released && holds v w.value
  let k := (b.hub.watches.filter hit).length
  let b := b.modHub fun h => { h with watches := h.watches.map fun w => if hit w then { w with released := true } else w }
  let b := b.count (0xC7F5C800 + 0x80 * u.part)
  let b := if k = 0 then b else b.count (0xC7F5C808 + 0x80 * u.part) k
  tallyFire b u.part u.handle
/-- Applies every queued update of one tally, in order of arrival, and then a new one (R337). -/
def tallyNow (b : Block) (u : TUpd) : Block :=
  let mine := b.hub.tq.filter fun x => x.part == u.part && x.handle == u.handle
  let b := b.modHub fun h => { h with tq := h.tq.filter fun x => !(x.part == u.part && x.handle == u.handle) }
  tallyApply (b.each mine tallyApply) u
/-- The place of an update in the queue: behind the others, but ahead of those to its tally that a unit of a higher LOC made in
the same QCLK cycle (R337). -/
def tallyPut (u : TUpd) : List TUpd → List TUpd
  | [] => [u]
  | x :: l => if x.part = u.part ∧ x.handle = u.handle ∧ x.at_ / 2 = u.at_ / 2 ∧ u.loc < x.loc then u :: x :: l else x :: tallyPut u l
/-- Queues an update for the tally unit. -/
def tallyQueue (b : Block) (u : TUpd) : Block := b.modHub fun h => { h with tq := tallyPut { u with at_ := b.now } h.tq }
/-- Registers a wait in its unit's slot, testing it at registration (R339). -/
def watchSet (b : Block) (w : Watch) : Block :=
  let v := (b.tally w.part w.handle).val
  b.modHub fun h => { h with watches := h.watches.filter (fun x => !(x.cell == w.cell && x.unit == w.unit)) ++
    [{ w with released := holds v w.value, told := holds v w.value }] }
def watchDrop (b : Block) (cell unit : Nat) : Block :=
  b.modHub fun h => { h with watches := h.watches.filter fun x => !(x.cell == cell && x.unit == unit) }
def watchOf (b : Block) (cell unit : Nat) : Option Watch := b.hub.watches.find? fun x => x.cell == cell && x.unit == unit
/-- An engine's start condition: no tally, or a registered wait that was released or holds now. The pair is the
answer and the state with the wait registered or dropped. -/
def engineWait (b : Block) (n cell unit h v id : Nat) : Bool × Block :=
  if h = 0xFFFF then (true, b) else
    let b := match watchOf b cell unit with
      | some w => if w.id = id then b else watchSet b { cell, unit, part := n, handle := h, value := v, id, released := false }
      | none => watchSet b { cell, unit, part := n, handle := h, value := v, id, released := false }
    match watchOf b cell unit with
    | some w => if w.told then (true, watchDrop b cell unit) else (false, b)
    | none => (false, b)
/-- DONE_TALLY at completion or commit: one update, applied before the token is idle (R167). -/
def doneTally (b : Block) (n cell h inc : Nat) : Block :=
  if h = 0xFFFF then b else tallyNow b { part := n, handle := h, set := false, amount := inc, loc := cellLoc cell 2 }

/-- The time that a cell's requests for coins have waited counts in WAIT_NS of its purse. -/
def coinWaited (b : Block) (k : Nat) : Block :=
  let l := (mget {} b.pow.purses (k / 40)).waiters.filter (·.1 == k)
  if l.isEmpty then b else b.count (regionBase (k / 40) + 0x10810) (l.foldl (fun a w => a + (b.now - w.2.2)) 0)

end Sys2Proof.Machine
end

