-- ==== Sys2Proof/Machine/Store.lean ====
section
/-!
DEFINITION. Machine/Store.lean: the cell store: banks, words and their code, the coalescer, tags, accumulate on write
and row statistics (spec 05).
-/
namespace Sys2Proof.Machine

/-- Bytes of a cell's store (R124). -/
def storeBytes : Nat := 6144 * 1024
/-- Bank of a store-local offset (R125). -/
def bankOf (off : Nat) : Nat := let l := off / 64; Nat.xor (Nat.xor (l % 64) (l / 64 % 64)) (l / 4096 % 32)
/-- Address of the code area (R35). -/
def Cell.codeBase (c : Cell) : Nat := storeBytes - c.codeKib * 1024
def Cell.buf (c : Cell) (i : Nat) : Buf := mget {} c.bufs i
/-- Store-local offset of a buffer access under R38; `none` is a PROTECTION. -/
def Cell.bufAddr (c : Cell) (i off size : Nat) (write : Bool) : Option Nat :=
  let e := c.buf i
  if !e.valid || decide (e.len < off + size) || (write && e.weight) then none else some (e.base + off)
/-- Whether an offset lies in a weight buffer. -/
def Cell.isWeight (c : Cell) (off : Nat) : Bool := c.bufs.any fun e => e.2.valid && e.2.weight && decide (e.2.base ≤ off) && decide (off < e.2.base + e.2.len)
/-- Bank of the word at a store-local offset. In a weight buffer a pair of lines shares a pair of banks: the even one holds words
0 to 3 of both lines, the odd one words 4 to 7 (R152). -/
def Cell.wordBank (c : Cell) (off : Nat) : Nat := if c.isWeight off then bankOf off / 2 * 2 + off / 32 % 2 else bankOf off
/-- Column of bit `i` (0 to 71) of the word at `off` in its physical line of a weight buffer (R152): word slot `off / 8 % 4` of
the line's half, the odd line's words in slots 4 to 7. -/
def weightColumn (off i : Nat) : Nat := 8 * i + (off / 8 % 4 + 4 * (off / 64 % 2))
def Cell.isCode (c : Cell) (off : Nat) : Bool := decide (c.codeBase ≤ off)
def Cell.tag (c : Cell) (g : Nat) : Nat := (mget 0 c.tags g).toNat
def Cell.setTag (c : Cell) (g v : Nat) : Cell := { c with tags := mset 0 c.tags g (BitVec.ofNat 2 v) }
def Cell.setTags (c : Cell) (gs : List Nat) (v : Nat) : Cell := gs.foldl (fun c g => c.setTag g v) c
/-- The 1 KiB granules of a range (R147). -/
def granules (off len : Nat) : List Nat := if len = 0 then [] else (List.range ((off + len - 1) / 1024 + 1 - off / 1024)).map (· + off / 1024)

/-- STORE_ERR_LOG (later errors overwrite). -/
def Cell.logErr (c : Cell) (off syn kind : Nat) : Cell :=
  { c with errLog := { off := off, bank := c.wordBank off, syn := syn, kind := kind, valid := true } }
/-- Splits a range into its lines. -/
def lineSplit (off len : Nat) : List (Nat × Nat) :=
  if len = 0 then [] else
  (List.range ((off + len - 1) / 64 + 1 - off / 64)).map fun i =>
    let lo := max off ((off / 64 + i) * 64)
    (lo, min (off + len) ((off / 64 + i + 1) * 64) - lo)
/-! Plain writes (R129, R553). -/
def isBad (f : BitVec 72) : Bool := match readWord 0 f with | .bad _ => true | _ => false
/-- The syndrome of a word with a single error. -/
def oneError (f : BitVec 72) : Option Nat := match readWord 0 f with | .corrected _ s => some s | _ => none
/-- The words of `f` are read to be written again: single errors are corrected, counted and logged, and their events follow
(R129, R158). -/
def Cell.mend (c : Cell) (f : Nat → Bool) : Cell :=
  let l := c.serr.filterMap fun e => if f e.1 then (oneError e.2).map fun s => (8 * e.1, s) else none
  if l.isEmpty then c else
  let c := l.foldl (fun c x => (c.count 0x30878).logErr x.1 x.2 0) c
  { c with serr := c.serr.filter fun e => !(l.any (·.1 == 8 * e.1)), met := c.met ++ l }
/-- The bytes of the word of number `w` that a write of `len` bytes at `off` under `mask` covers, as bits. -/
def coverOf (off len mask w : Nat) : Nat :=
  (List.range 8).foldl (fun a k => if decide (off ≤ 8 * w + k) && decide (8 * w + k < off + len) && bit mask (8 * w + k - off) then a + 2 ^ k else a) 0
/-- A write of `len` bytes, those of `mask` only (R129). Words written whole become clean. A part-written word is read, merged
and written back, which leaves an uncorrectable word uncorrectable; each line with such a word counts in RMW_WRITES. An armed
injection flips its word's bits once a write covers bytes of it (R553). -/
def Cell.write (c : Cell) (off len v : Nat) (mask : Nat) : Cell :=
  let cover := coverOf off len mask
  let partial_ (w : Nat) : Bool := cover w != 0 && cover w != 255
  let whole := decide (off % 8 = 0) && decide (len % 8 = 0) && decide (mask % 2 ^ len = 2 ^ len - 1)
  let rmw := if whole then 0 else (lineSplit off len).countP fun p => (List.range 8).any fun i => partial_ (p.1 / 64 * 8 + i)
  let c := if whole then c else c.mend partial_
  let c := { c with store := c.store.writeMask off len v mask, serr := c.serr.filter fun e => cover e.1 != 255 }
  let c := if rmw = 0 then c else c.count 0x30848 rmw
  match c.inject with
  | none => c
  | some i =>
    if cover (i.off / 8) = 0 then c else
    let f : Nat := Nat.xor (2 ^ i.flip0) (if i.flip1 = 0xFF then 0 else 2 ^ i.flip1)
    { c with inject := none, serr := mmod 0 c.serr (i.off / 8) fun x => x ^^^ BitVec.ofNat 72 f }
/-- A whole write. -/
def Cell.put (c : Cell) (off len v : Nat) : Cell := c.write off len v (2 ^ len - 1)

/-! Reads with the word code (R508 to R515). -/
/-- Result of a store read: data, a stored error at an offset, or a weight block that must be refetched. -/
inductive Rd where
  | ok (v : Nat)
  | bad (off syn : Nat)
  | refetch (block : Nat)
  deriving DecidableEq, Repr
def Cell.errsIn (c : Cell) (off len : Nat) : List (Nat × BitVec 72) :=
  c.serr.filter fun e => decide (off < 8 * e.1 + 8) && decide (8 * e.1 < off + len)
/-- An event of a cell's: to its owning partition's ring, and to the platform ring as R15 says. -/
def cellEvent (b : Block) (n ty : Nat) (st : Status) (sev loc det : Nat) : Block :=
  let c := b.cell n
  if c.assigned then event b c.part ty st sev loc det else if 3 ≤ sev then eventPlat b 0 ty st sev loc det else b
/-- The event of a corrected word: at most once per cell per millisecond (R158). -/
def correctedEvent (b : Block) (n off syn : Nat) : Block :=
  let c := b.cell n
  let due := match c.corrAt with | none => true | some t => decide (t + 1000000 ≤ b.now)
  if due then
    cellEvent (b.modCell n fun c => { c with corrAt := some b.now, corrSup := 0 }) n 0x0201 .done 1 (cellLoc n 3)
      (detail [(16, 4, off), (20, 1, c.wordBank off), (21, 1, syn), (22, 2, c.corrSup)])
  else b.modCell n fun c => { c with corrSup := c.corrSup + 1 }
/-- A corrected word: counted, logged and reported. -/
def storeCorrected (b : Block) (n off syn : Nat) : Block :=
  correctedEvent (b.modCell n fun c => (c.count 0x30878).logErr off syn 0) n off syn
/-- The events of the words that partial-word writes corrected. -/
def metEvents (b : Block) : Block :=
  b.each (b.cells.filter fun e => !e.2.met.isEmpty) fun b e =>
    (b.modCell e.1 fun c => { c with met := [] }).each e.2.met fun b x => correctedEvent b e.1 x.1 x.2
/-- A stored uncorrectable word: counted and logged, and the fence condition of R523 tested. -/
def storeUncorr (b : Block) (n off syn kind : Nat) : Block :=
  let win := bits (replayCfg b) 16 16 * 1000000000
  let lim := bits (replayCfg b) 8 8
  let b := b.modCell n fun c => { ((c.count 0x30880).logErr off syn kind) with
    uncorr := b.now :: c.uncorr.filter fun t => decide (b.now < t + max win 1000000000) }
  let b := b.count 0xC7FC1808
  if max lim 1 ≤ (b.cell n).uncorr.length && !(b.cell n).fenced then
    b.modHub fun h => { h with escal := h.escal ++ [(1, n, 0)] }
  else b
/-- STORE_UNCORRECTABLE for a word at `off`. -/
def uncorrEvent (b : Block) (n sev off syn cls : Nat) : Block :=
  cellEvent b n 0x0202 .uncorrectable sev (cellLoc n 3) (detail [(16, 4, off), (20, 1, (b.cell n).wordBank off), (21, 1, syn), (22, 1, cls)])
/-- An uncorrectable word that reaches a reader of class `cls`: severity 3 where it has the cell fenced, which aborts its
partition (R544, R524). -/
def uncorrRead (b : Block) (n off syn kind cls : Nat) : Block :=
  let b' := storeUncorr b n off syn kind
  uncorrEvent b' n (if b.hub.escal.length < b'.hub.escal.length then 3 else 2) off syn cls
/-- Starts a weight refetch (R155) unless the block is under refetch. -/
def startRefetch (b : Block) (n blk : Nat) : Block :=
  b.modCell n fun c => if c.refetching.any (·.blk == blk) then c else { c with refetching := c.refetching ++ [{ blk := blk, at_ := b.now }] }
def modRefetch (b : Block) (n blk : Nat) (f : Refetching → Refetching) : Block :=
  b.modCell n fun c => { c with refetching := c.refetching.map fun r => if r.blk = blk then f r else r }
/-- An uncorrectable word of a weight buffer: its block is refetched. STORE_UNCORRECTABLE follows once the refetch has ended, at
once where the word has the cell fenced (R544). -/
def weightUncorr (b : Block) (n off syn cls : Nat) : Block :=
  let b' := storeUncorr b n off syn 2
  let b' := if b.hub.escal.length < b'.hub.escal.length then uncorrEvent b' n 3 off syn cls else
    modRefetch (startRefetch b' n (off / 4096)) n (off / 4096) fun r => { r with words := r.words ++ [(off, syn, cls)] }
  startRefetch b' n (off / 4096)
/-- Reads bytes from the banks, with the corrections and reports of R509 and R544. `who` names the reader: eight times its own
number, plus its requester class. A read of a block under refetch stalls until the refetch ends; if that fails, the reads it had
stalled receive UNCORRECTABLE (R155). -/
def storeRead (b : Block) (n off len who : Nat) : Rd × Block :=
  let c := b.cell n
  let inRange (blk : Nat) : Bool := decide (4096 * blk < off + len) && decide (off < 4096 * blk + 4096)
  match c.refetching.find? fun r => inRange r.blk with
  | some r => (.refetch r.blk, modRefetch b n r.blk fun r => { r with readers := r.readers.filter (· != who) ++ [who] })
  | none =>
    match c.refetchFailed.find? fun x => x.2 == who && inRange x.1 with
    | some x =>
      let word := (c.errsIn off len).find? fun e => isBad e.2
      (.bad (match word with | some e => 8 * e.1 | none => off) (match word with | some e => syndrome e.2 | none => 0),
        b.modCell n fun c => { c with refetchFailed := c.refetchFailed.filter fun y => y != x })
    | none =>
      (c.errsIn off len).foldl (fun (acc : Rd × Block) e =>
        let o := 8 * e.1
        match readWord (c.store.read o 8) e.2 with
        | .clean _ => acc
        | .corrected _ s => (acc.1, storeCorrected acc.2 n o s)
        | .bad s =>
          if c.isWeight o then
            let b := weightUncorr acc.2 n o s (who % 8)
            match acc.1 with
            | .ok _ => (.refetch (o / 4096), modRefetch b n (o / 4096) fun r => { r with readers := [who] })
            | x => (x, b)
          else
            (match acc.1 with | .ok _ => .bad o s | x => x, uncorrRead acc.2 n o s (if c.isCode o then 3 else 1) (who % 8)))
        (.ok (c.store.read off len), b)

/-! The coalescer (R131 to R134). -/
def Cell.drain (c : Cell) (e : Coal) : Cell :=
  ({ c with coal := c.coal.erase e }.count 0x30840).write e.line 64 e.data e.mask
/-- Drains every entry that satisfies a condition. -/
def Cell.drainWhere (c : Cell) (f : Coal → Bool) : Cell := (c.coal.filter f).foldl Cell.drain c
/-- Drains a thread's coalesced stores (R81, R86). -/
def Cell.drainThread (c : Cell) (t : Nat) : Cell := c.drainWhere fun e => bit e.threads t
def orNat (a b : Nat) : Nat := Nat.lor a b
/-- Merges `len` bytes of `v` at byte `k` of a line's data under a mask. -/
def mergeBytes (old v k : Nat) (mask : Nat) : Nat → Nat
  | 0 => old
  | n + 1 =>
    let r := mergeBytes old v k mask n
    if bit mask n then
      let sh := 8 * (k + n)
      r - bits r sh 8 * 2 ^ sh + bits v (8 * n) 8 * 2 ^ sh
    else r
/-- A plain thread store into one line (R131). -/
def Cell.coalLine (c : Cell) (cyc t off len v mask : Nat) : Cell :=
  let line := off / 64 * 64
  if mask % 2 ^ len = 0 then c
  else if len = 64 ∧ off % 64 = 0 ∧ mask % 2 ^ 64 = 2 ^ 64 - 1 then
    { c with coal := c.coal.filter fun e => e.line != line }.put off 64 v
  else
    let (c, e) := match c.coal.find? (fun e => e.line == line) with
      | some e => (c, e)
      | none =>
        let c := if c.coal.length < 8 then c else match c.coal with | [] => c | e :: _ => c.drain e
        let e : Coal := { line := line, mask := 0, threads := 0, data := 0, last := cyc }
        ({ c with coal := c.coal ++ [e] }, e)
    let k := off - line
    let e' : Coal := { e with mask := orNat e.mask ((mask % 2 ^ len) * 2 ^ k), threads := orNat e.threads (2 ^ t),
                              data := mergeBytes e.data v k mask len, last := cyc }
    let c := { c with coal := c.coal.map fun x => if x.line == line then e' else x }
    if e'.mask = 2 ^ 64 - 1 then c.drain e' else c
/-- A plain thread store (R131), line by line. -/
def Cell.coalesce (c : Cell) (cyc t off len v mask : Nat) : Cell :=
  (lineSplit off len).foldl (fun c p => c.coalLine cyc t p.1 p.2 (v / 2 ^ (8 * (p.1 - off))) (mask / 2 ^ (p.1 - off))) c
/-- Merges the bytes held in the coalescer over data read from the banks (R133). -/
def Cell.coalOver (c : Cell) (off len v : Nat) : Nat :=
  c.coal.foldl (fun v e =>
    (List.range 64).foldl (fun v k =>
      if bit e.mask k && decide (off ≤ e.line + k) && decide (e.line + k < off + len) then
        let sh := 8 * (e.line + k - off)
        v - bits v sh 8 * 2 ^ sh + bits e.data (8 * k) 8 * 2 ^ sh
      else v) v) v
/-- Stored errors under bytes that the coalescer does not replace still reach the reader. -/
def coalHides (c : Cell) (w : Nat) : Bool := c.coal.any fun e => decide (e.line ≤ 8 * w) && decide (8 * w < e.line + 64) && decide (bits e.mask (8 * w - e.line) 8 = 255)

/-! Accumulate on write and row statistics (R138 to R146). -/
def inSize (fmt : Nat) : Nat := if fmt = 0 then 4 else if fmt = 10 then 8 else 2
/-- Decodes an element of a v.cvt format code 0 to 2. -/
def decElem (fmt x : Nat) : Fl := if fmt = 0 then fp32.decode x else if fmt = 1 then bf16.decode x else fp16.decode x
def Range.elems (r : Range) : Nat := r.len / (if r.fast then 4 else 8)
def Cell.rangeAt (c : Cell) (off : Nat) : Option Range := c.ranges.find? fun r => decide (r.base ≤ off) && decide (off < r.base + r.len)
def Cell.setRange (c : Cell) (r : Range) : Cell := { c with ranges := c.ranges.map fun x => if x.base == r.base then r else x }
/-- Bytes of a stored element. -/
def Range.elemSize (r : Range) : Nat := if r.fast then 4 else 8
/-- The number of the row that a byte of a row-statistic range belongs to. -/
def Range.rowOf (r : Range) (off : Nat) : Nat := (off - r.base) / (r.rowElems * inSize r.fmt)
/-- The stored bytes that an engine write reads in order to change them: elements that accumulate (R140) and records (R144). -/
def Cell.accWords (c : Cell) (off len : Nat) : List (Nat × Nat) :=
  (lineSplit off len).filterMap fun p => (c.rangeAt p.1).bind fun r =>
    if !r.stat then some (r.base + (p.1 - r.base) / inSize r.fmt * r.elemSize, p.2 / inSize r.fmt * r.elemSize)
    else if p.2 = 64 then some (r.recBase + 8 * r.rowOf p.1, 8) else none
/-- Whether stored bytes hold an uncorrectable word. -/
def Cell.badIn (c : Cell) (off len : Nat) : Bool := (c.errsIn off len).any fun e => isBad e.2
/-- Whether an engine write meets an uncorrectable element or record. -/
def accBad (c : Cell) (off len : Nat) : Bool := (c.accWords off len).any fun x => c.badIn x.1 x.2
/-- `accBad`, with the report of each word met. -/
def accCheck (b : Block) (n off len cls : Nat) : Bool × Block :=
  let c := b.cell n
  let bad := (c.accWords off len).flatMap fun x => (c.errsIn x.1 x.2).filter fun e => isBad e.2
  (!bad.isEmpty, b.each bad.eraseDups fun b e => uncorrRead b n (8 * e.1) (syndrome e.2) 1 cls)
/-- Accumulates one element (R140). -/
def Cell.accElem (c : Cell) (r : Range) (k x : Nat) : Cell × Range × Flags :=
  if r.fast then
    let a := r.base + 4 * k
    let y := fp32.arith ((fp32.decode (c.store.read a 4)).add (decElem r.fmt x))
    ((c.put a 4 y).count 0x30858, { r with wrote := true, multi := true }, { nondet := true })
  else
    let a := r.base + 8 * k
    let cv : Cvt := if r.fmt = 10 then ⟨x, false, false⟩ else toX64 r.frac (decElem r.fmt x)
    let s := x64Add (c.store.read a 8) cv.code
    let sat := cv.sat || cv.nanDropped || s.2
    let c := (c.put a 8 s.1).count 0x30858
    (if sat then c.count 0x30860 else c, { r with wrote := true, sat := r.sat || sat }, { sat := sat })
/-- The record update of R144 and R145 for the elements of one line. -/
def statUpdate (kind scale m l : Nat) (x : List Nat) : Nat × Nat :=
  let n := Nat.log2 x.length
  let y := if kind = 0 then x.map fun e => f32mul e scale else x.map fun e => fp32.arith (f32 e).abs
  let mc := treeFold f32max n y
  let lc := if kind = 0 then treeFold f32add n (y.map fun e => f32exp2 (f32sub e mc)) else treeFold f32add n (x.map fun e => f32mul e e)
  if (f32 mc).isNan ∨ (f32 m).isNan ∨ (f32 l).isNan then (fp32.nanCode, fp32.nanCode)
  else if m = f32negInf then (mc, lc)
  else
    let m2 := f32max m mc
    if kind = 0 then (m2, f32add (f32mul l (f32exp2 (f32sub m m2))) (f32mul lc (f32exp2 (f32sub mc m2))))
    else (m2, f32add l lc)
/-- An engine write of one line, or part of one, into the store (R139 to R146). `cmd` identifies the command. The
status is PROTECTION for a line discarded under R141, UNCORRECTABLE where a stored element or record that the write would change
cannot be read: it stays as it is, and the rest lands. -/
def Cell.engineLine (c : Cell) (off len v cmd : Nat) : Cell × Flags × Option Status :=
  let c := c.mend fun w => (c.accWords off len).any fun x => decide (x.1 < 8 * w + 8) && decide (8 * w < x.1 + x.2)
  match c.rangeAt off with
  | none => (c.put off len v, {}, none)
  | some r =>
    let sz := inSize r.fmt
    if !r.stat then
      let k0 := (off - r.base) / sz
      let cnt := len / sz
      if r.elems < k0 + cnt then (c.count 0x30868, {}, some .protection)
      else
        let bad (k : Nat) : Bool := c.badIn (r.base + r.elemSize * k) r.elemSize
        let (c', r', f) := (List.range cnt).foldl (fun (a : Cell × Range × Flags) i =>
          if bad (k0 + i) then a else
          let (c, r, f) := a.1.accElem a.2.1 (k0 + i) (bits v (8 * sz * i) (8 * sz))
          (c, r, a.2.2.or f)) (c, r, {})
        (c'.setRange r', f, if (List.range cnt).any fun i => bad (k0 + i) then some .uncorrectable else none)
    else
      let row := r.rowOf off
      let a := r.recBase + 8 * row
      let bad := c.badIn a 8
      let c := c.put off len v
      if len ≠ 64 then (c, {}, none) else
      if bad then (c, {}, some .uncorrectable) else
      let x := (List.range (64 / sz)).map fun i => fp32.arith (decElem r.fmt (bits v (8 * sz * i) (8 * sz)))
      let (m, l) := statUpdate r.statKind r.scale (c.store.read a 4) (c.store.read (a + 4) 4) x
      let old := mget 0 r.rows row
      let mul := decide (old = 1) || (decide (old ≠ 0) && decide (old ≠ cmd + 2))
      let r := { r with rows := mset 0 r.rows row (if mul then 1 else cmd + 2), multi := r.multi || mul }
      (((c.put a 8 (m + l * 2 ^ 32)).count 0x30870).setRange r, { nondet := mul }, none)
/-- An engine write of any length, line by line; the first bad status is kept and the other lines land. -/
def Cell.engineWrite (c : Cell) (off len v cmd : Nat) : Cell × Flags × Option Status :=
  (lineSplit off len).foldl (fun (a : Cell × Flags × Option Status) p =>
    let (c, f, st) := a.1.engineLine p.1 p.2 (bits v (8 * (p.1 - off)) (8 * p.2)) cmd
    (c, a.2.1.or f, match a.2.2 with | some s => some s | none => st)) (c, {}, none)
/-- Sets a row's record to its initial value and re-arms the row (R143, R146, R207, R218). -/
def Cell.rearm (c : Cell) (r : Range) (row : Nat) : Cell :=
  let r' := match c.rangeAt r.base with | some x => x | none => r
  (c.put (r.recBase + 8 * row) 8 f32negInf).setRange { r' with rows := mset 0 r'.rows row 0 }

/-! Waiting on tags (R147 to R149). -/
/-- Whether a granule (`cell * 8192 + granule`) has what an access needs. -/
def tagHas (b : Block) (x : Nat × Nat) : Bool :=
  let t := (b.cell (x.1 / 8192)).tag (x.1 % 8192)
  if x.2 = 2 then t != 2 else t == x.2
/-- Whether a waiting access is still to be made. -/
def TagWait.live (b : Block) (w : TagWait) : Bool :=
  let c := b.cell w.cell
  let stream (s : Stream) : Bool := !s.stop && s.q.any fun e => e.id == w.who || e.win.any fun x => x.id == w.who && x.st == .todo
  (c.thr.any fun t => t.2.tagSeq == some w.who && t.2.pc == w.pc && decide (t.2.st = .run ∨ t.2.st = .wait)) ||
    stream c.inb || stream c.outb || c.run.any (·.e.id == w.who) || c.bankq.any (·.id == w.who)
/-- Whether an access may be made now: its granules have what it needs, and none of the accesses that have waited longer on one
of them could be made (R149). -/
def tagMay (b : Block) (who : Nat) (need : List (Nat × Nat)) : Bool :=
  need.all (tagHas b) && (b.hub.tagq.takeWhile (·.who != who)).all fun w =>
    !(w.need.any (fun x => need.any (·.1 == x.1)) && w.need.all (tagHas b) && w.live b)
/-- An access leaves the order of the waiting ones. -/
def tagLeave (b : Block) (who : Nat) : Block := b.modHub fun h => { h with tagq := h.tagq.filter (·.who != who) }
/-- An access takes its place in the order, or keeps the one that it has. -/
def tagJoin (b : Block) (w : TagWait) : Block := b.modHub fun h =>
  { h with tagq := if h.tagq.any (·.who == w.who) then h.tagq.map fun x => if x.who = w.who then w else x
                   else h.tagq.filter (TagWait.live b) ++ [w] }
/-- An engine's access tries its granules: it may be made, or waits in the order of R149. -/
def tagTake (b : Block) (cell who : Nat) (need : List (Nat × Nat)) : Bool × Block :=
  if need.isEmpty || tagMay b who need then (true, tagLeave b who) else (false, tagJoin b { who := who, cell := cell, pc := 0, need := need })

/-! Block digests (R153): CRC-64, reflected, initial value and final XOR all ones. -/
def crcBit (c : Nat) : Nat → Nat
  | 0 => c
  | n + 1 => crcBit (if c % 2 = 1 then Nat.xor (c / 2) 0xC96C5795D7870F42 else c / 2) n
def crcStep (c : Nat) : Nat → Nat → Nat
  | 0, _ => c
  | n + 1, v => crcStep (crcBit (Nat.xor c (v % 256)) 8) n (v / 256)
/-- CRC-64 of `n` bytes. -/
def crc64 (n v : Nat) : Nat := Nat.xor (crcStep (2 ^ 64 - 1) n v) (2 ^ 64 - 1)

end Sys2Proof.Machine
end

