-- ==== Sys2Proof/Machine/Operands.lean ====
section
/-!
DEFINITION. Machine/Operands.lean: thread registers, guards, tokens, store addresses, the issue of an instruction and
the thread fault (spec 03).
-/
namespace Sys2Proof.Machine

/-! Registers (R60). -/
/-- s0 reads zero. -/
def Thread.sr (t : Thread) (i : Nat) : Word := if i = 0 then 0 else mget 0 t.s i
/-- A write of s0 is discarded. -/
def Thread.setS (t : Thread) (i : Nat) (v : Word) : Thread := if i = 0 then t else { t with s := mset 0 t.s i v }
/-- p0 reads all ones. -/
def Thread.pr (t : Thread) (i : Nat) : PReg := if i = 0 then BitVec.allOnes 256 else mget 0 t.p i
def Thread.setP (t : Thread) (i : Nat) (v : PReg) : Thread := if i = 0 then t else { t with p := mset 0 t.p i v }
def Thread.vr (t : Thread) (i : Nat) : VReg := mget 0 t.v i
def Thread.setV (t : Thread) (i : Nat) (v : VReg) : Thread := { t with v := mset 0 t.v i v }
def lane (v : VReg) (i : Nat) : Nat := bits v.toNat (32 * i) 32
/-- A vector from a function of the lane. -/
def ofLanes (f : Nat → Nat) : VReg := BitVec.ofNat 8192 ((List.range 256).foldr (fun i a => a * 2 ^ 32 + f i % 2 ^ 32) 0)
/-- A predicate from a function of the lane. -/
def ofBits (f : Nat → Bool) : PReg := BitVec.ofNat 256 ((List.range 256).foldr (fun i a => a * 2 + b2n (f i)) 0)
def pbit (p : PReg) (i : Nat) : Bool := bit p.toNat i
/-- The guard of an instruction (R68): PRED, inverted by PNEG. -/
def Thread.guard (t : Thread) (w : Who) : PReg := let p := t.pr w.pred.toNat; if w.pneg then ~~~p else p
/-- The guard bit of lane 0, which a scalar instruction uses. -/
def Thread.guard0 (t : Thread) (w : Who) : Bool := pbit (t.guard w) 0
/-- Keeps the old value in unguarded lanes. -/
def blend (g : PReg) (new old : VReg) : VReg :=
  if g = BitVec.allOnes 256 then new else ofLanes fun i => if pbit g i then lane new i else lane old i
def blendP (g new old : PReg) : PReg := (new &&& g) ||| (old &&& ~~~g)

/-- Bytes of an F-M SIZE code. -/
def sizeBytes (s : Nat) : Nat := match s with
  | 0 => 1 | 1 => 2 | 2 => 4 | 3 => 8 | 4 => 32 | 5 => 64 | _ => 1024
/-- The alignment of R56: natural up to 64 B, and 64 B for a 1 KiB access. -/
def alignBytes (s : Nat) : Nat := min (sizeBytes s) 64

/-! Tokens (R82). -/
def Thread.token (t : Thread) (k : Nat) : Token := mget {} t.tok k
def Thread.setToken (t : Thread) (k : Nat) (x : Token) : Thread := { t with tok := mset {} t.tok k x }
def Thread.busyMask (t : Thread) : Nat := (List.range 16).foldl (fun a k => a + b2n (t.token k).busy * 2 ^ k) 0
/-- Whether the tokens of a y.wtok mask are idle: all of them, or any (an empty mask waits for nothing). -/
def Thread.tokensReady (t : Thread) (mask : Nat) (any : Bool) : Bool :=
  let l := (List.range 16).filter (bit mask)
  if any then l.isEmpty || l.any fun k => !(t.token k).busy else l.all fun k => !(t.token k).busy
/-- The next position in program order, with the c.loop of R77. -/
def Thread.advance (t : Thread) : Thread :=
  match t.loop with
  | none => { t with pc := t.pc + 1 }
  | some l =>
    if t.pc + 1 = l.start + l.len then
      if l.left ≤ 1 then { t with pc := t.pc + 1, loop := none } else { t with pc := l.start, loop := some { l with left := l.left - 1 } }
    else { t with pc := t.pc + 1 }
/-- Ends a wait: the waiting instruction completes, or issues again. -/
def Thread.wake (t : Thread) (adv : Bool) : Thread :=
  let t := { t with st := .run, wait := .none }
  if adv then t.advance else t
/-- Blocks the thread at its instruction. -/
def Thread.block (t : Thread) (w : Wait) (now : Nat) : Thread := { t with st := .wait, wait := w, since := now }
/-- The token records status and flags and becomes idle; a thread that waited for it goes on (R80, R82). -/
def Thread.tokenDone (t : Thread) (k : Nat) (st : Status) (f : Flags) : Thread :=
  let t := t.setToken k { busy := false, status := st.code, flags := f.byte }
  match t.st, t.wait with
  | .wait, .tokens mask any => if t.tokensReady mask any then t.wake true else t
  | .wait, .busyToken j => if j = k then t.wake false else t
  | _, _ => t
def Cell.tokenDone (c : Cell) (t k : Nat) (st : Status) (f : Flags) : Cell :=
  { c.modThread t (fun x => x.tokenDone k st f) with runFlags := Nat.lor c.runFlags f.byte }

/-- Stops a cell and starts its zeroing (R157): its threads and engines stop, its coalescer is discarded. -/
def Cell.startZero (c : Cell) (cyc : Nat) : Cell :=
  { c with thr := [], acc := [], coal := [], bankq := [], inb := {}, outb := {}, arrq := [], run := none, zeroTiles := [],
           refetching := [], refetchFailed := [], reload := [], inject := none, loaded := false, inRun := false, zeroing := true, zeroAt := cyc }

/-! Cancelling a run's work in a cell (R91, R178, R182, R212). -/
def Cell.strm (c : Cell) (o : Bool) : Stream := if o then c.outb else c.inb
def Cell.setStrm (c : Cell) (o : Bool) (s : Stream) : Cell := if o then { c with outb := s } else { c with inb := s }
/-- The granules of store bytes, as `cell * 8192 + granule`. -/
def Side.keys (len : Nat) : Side → List Nat
  | .store k off => (granules off len).map (8192 * k + ·)
  | _ => []
def setKeys (b : Block) (keys : List Nat) (v : Nat) : Block := b.each keys fun b key => b.modCell (key / 8192) fun c => c.setTag (key % 8192) v
def tagKey (b : Block) (key : Nat) : Nat := (b.cell (key / 8192)).tag (key % 8192)
def Xfer.isFlight (x : Xfer) : Bool := x.st == .flight
def Xfer.isBad (x : Xfer) : Bool := x.st == .failed
def SEntry.faulty (e : SEntry) : Bool := e.win.any Xfer.isBad
/-- A failed transfer is to be made again; a window write that timed out keeps the answer that its first sending has had, so that
it lands once (R176). -/
def Xfer.again (x : Xfer) : Xfer := if x.isBad then { x with st := .todo, answer := if x.fault = .timeout then x.answer else none } else x
/-- Transfers that failed, and a refused index entry, are to be made again (R176). -/
def SEntry.again (e : SEntry) : SEntry :=
  let pseudo := e.win.find? fun x => x.len == 0
  let e := { e with win := (e.win.filter fun x => x.len != 0).map Xfer.again, retried := [] }
  match pseudo with | some x => { e with nrow := x.row, nbyte := 0, cur := none } | none => e
/-- The halt of an engine ends: nothing is recorded, and its transfers run again. -/
def Stream.goOn (s : Stream) : Stream := { s with q := s.q.map SEntry.again, stop := false, halted := false, halt := { s.halt with valid := false } }
/-- Fences that every descriptor ahead of them has left (R173, R181). -/
def Cell.sweepFences (c : Cell) : Cell :=
  let ids := (c.inb.q ++ c.outb.q).map (·.id)
  let keep (e : SEntry) : Bool := !e.fence || e.peers.any ids.contains
  { c with inb := { c.inb with q := c.inb.q.filter keep }, outb := { c.outb with q := c.outb.q.filter keep } }
/-- Cancels one descriptor of an engine: its token is idle with CANCELLED, its transfers in flight go on to land, and the
granules it claimed become EMPTY, at once where no transfer in flight writes them (R178, R179). A halt that it alone caused
ends. -/
def cancelEntry (b : Block) (k : Nat) (o : Bool) (e : SEntry) : Block :=
  let s := (b.cell k).strm o
  let fl := (e.win.filter Xfer.isFlight).map fun x => { x with claimed := (x.dst.keys x.len).filter e.claims.contains }
  let kept := fl.flatMap (·.claimed)
  let b := setKeys b (e.claims.filter fun g => !kept.contains g) 0
  let s := { s with q := s.q.filter (fun x => x.id != e.id), zombies := s.zombies ++ fl }
  let first := ((b.cell k).strm o).q.find? SEntry.faulty
  let s := if s.stop && (first.map (·.id) == some e.id) then s.goOn else s
  let unit := if o then 0x50840 else 0x40840
  b.modCell k fun c => (((c.setStrm o s).tokenDone e.thr e.tok .cancelled e.flags).count unit).sweepFences
/-- Cancels the descriptors of both engines of a cell that satisfy a condition. -/
def cancelStreams (b : Block) (k : Nat) (f : SEntry → Bool) : Block :=
  let c := b.cell k
  let b := b.each (c.inb.q.filter fun e => !e.fence && f e) fun b e => cancelEntry b k false e
  b.each (c.outb.q.filter fun e => !e.fence && f e) fun b e => cancelEntry b k true e
/-- Removes the array queue entries that have not started and the bank-side work that has not started, their tokens
completing with `st`; started bank-side work runs to its end, and its token then shows CANCELLED (R88, R91, R212). -/
def Cell.cancelQueues (c : Cell) (st : Status) : Cell :=
  let a := c.arrq
  let c := { c with arrq := [] }
  let c := a.foldl (fun c e => if e.kind == .zero then c else c.tokenDone e.thr e.tok st {}) c
  let q := c.bankq.filter (!·.started)
  let c := { c with bankq := (c.bankq.filter (·.started)).map fun e => { e with cancelled := true } }
  q.foldl (fun c e => c.tokenDone e.thr e.tok st {}) c
/-- Stops a thread: RUN and WAIT become HALT, and a wait is abandoned. -/
def Thread.stop (t : Thread) : Thread := match t.st with
  | .run | .wait => { t with st := .halt, wait := .none, loop := none, stalled := none, tagSeq := none }
  | _ => t
/-- The physical cells of a partition's image. -/
def imageCells (b : Block) (n : Nat) : List Nat := ((b.part n).cellMap.map (·.2 - 1)).filter fun k => (b.cell k).loaded
/-- Marks a running array command to stop with a status. -/
def Run.stopWith (r : Run) (st : Status) : Run := if r.status = .done ∧ r.phase ≠ .ended then { r with status := st } else r
/-- The fault that decides a run's status: the earliest, then the lower cell, then the lower thread (R89). -/
def Batch.fault (r : Batch) (key : Nat × Nat × Nat) (st : Status) : Batch :=
  match r.faultKey with
  | none => { r with faultKey := some key, status := st }
  | some old =>
    if key.1 < old.1 ∨ (key.1 = old.1 ∧ (key.2.1 < old.2.1 ∨ (key.2.1 = old.2.1 ∧ key.2.2 < old.2.2)))
    then { r with faultKey := some key, status := st } else r
/-- A cell's request for coins leaves its purse's queue (R422). -/
def coinLeave (b : Block) (k : Nat) : Block :=
  let b := coinWaited b k
  { b with pow := { b.pow with purses := mmod {} b.pow.purses (k / 40) fun p => { p with waiters := p.waiters.filter (·.1 != k) } } }
/-- Stops every thread of the run and cancels its engine work; a running array command is marked to stop with `st` at its
next boundary, and takes no coins if it waits for them (R88 steps 2 and 3, R91, R182, R212, R239, R422). -/
def stopRun (b : Block) (n : Nat) (st : Status) : Block :=
  b.each (imageCells b n) fun b k =>
    let b := cancelStreams (b.modHub fun h => { h with watches := h.watches.filter fun w => w.cell != k }) k fun _ => true
    (coinLeave b k).modCell k fun c =>
      let c := { c with thr := mmap {} c.thr Thread.stop }
      let c := (c.cancelQueues st).sweepFences
      { c with run := c.run.map (Run.stopWith · st) }

/-- A thread fault (R88): recorded in THREAD_FAULT and posted, and the run ends with the earliest fault's status (R89). -/
def threadFault (b : Block) (k t : Nat) (st : Status) (word pc off : Nat) : Block :=
  let c := b.cell k
  let n := c.part
  let f : ThreadFault := { status := st.code, pc := pc, cls := bits word 60 4, op := bits word 52 8, valid := true }
  let b := b.modThread k t fun x => { x with st := .fault, wait := .none, loop := none, tfault := f }
  let b := event b n 0x0101 st 0 (cellLoc k 0)
    (detail [(16, 1, t), (17, 1, bits word 60 4), (18, 2, pc), (20, 8, word), (28, 4, off)])
  let b := b.modPart n fun p => { p with running := p.running.map (Batch.fault · (b.mtime, k, t) st) }
  stopRun b n .cancelled

/-- Whether a cell can issue: it answers, is neither fenced nor stopped, and is not being zeroed. -/
def cellLive (c : Cell) : Bool := !c.fenced && !c.stopped && !c.zeroing && c.loaded
/-- Whether a wait repeats its instruction when it ends, so that the instruction has not issued yet. -/
def Wait.retries : Wait → Bool
  | .busyToken _ | .tag _ _ _ | .queue _ | .tile _ => true
  | _ => false
/-- The issue of one instruction (R59): the thread runs and its fetch buffer is not stalled. At the instruction count it
faults with PROTECTION (R75) and records zeros as CLASS, OP and word (DESIGN CHOICE, log 97: no instruction stands
there); otherwise `body` acts, and ISSUED counts the instruction unless it must issue again. -/
def issue (b : Block) (w : Who) (_word : Nat) (body : Block → Block) : Block :=
  let c := b.cell w.cell
  let t := c.thread w.thr
  if !cellLive c || decide (t.st ≠ .run) || t.stalled.isSome then b
  else if c.codeCount ≤ t.pc then threadFault b w.cell w.thr .protection 0 t.pc 0
  else
    let b := body b
    let c' := b.cell w.cell
    let t' := c'.thread w.thr
    if (t'.st == .wait && t'.wait.retries) || t'.st == .fault || (t' == t && mget 0 c'.cnt 0x428 == mget 0 c.cnt 0x428) then b
    else b.countC w.cell 0x400
/-- An instruction whose whole effect is a change of its thread, followed by the next position. -/
def issueThread (b : Block) (w : Who) (word : Nat) (f : Thread → Thread) : Block :=
  issue b w word fun b => b.modThread w.cell w.thr fun t => (f t).advance
/-- A scalar instruction: a no-op where guard bit 0 is 0 (R68). -/
def issueScalar (b : Block) (w : Who) (word : Nat) (f : Thread → Thread) : Block :=
  issueThread b w word fun t => if t.guard0 w then f t else t
/-- A fault raised at issue (R87). -/
def issueFault (b : Block) (w : Who) (word : Nat) (st : Status) (off : Nat := 0) : Block :=
  threadFault b w.cell w.thr st word (b.thread w.cell w.thr).pc off

end Sys2Proof.Machine
end

