-- ==== Sys2Proof/Machine/HubOps.lean ====
section
/-!
DEFINITION. Machine/HubOps.lean: ring commands of a partition from their taking to their completion records
(spec 14, 17), and the module-fatal stop (R522).
-/
namespace Sys2Proof.Machine

/-! Commands in progress. -/
def cmdOf (b : Block) (id : Nat) : Option Cmd := b.hub.cmds.find? fun c => c.id == id
def modCmd (b : Block) (id : Nat) (f : Cmd → Cmd) : Block :=
  b.modHub fun h => { h with cmds := h.cmds.map fun c => if c.id = id then f c else c }
def Cmd.op (c : Cmd) : Nat := c.desc.u 0 1
def Cmd.attr (c : Cmd) : Nat := c.desc.u 3 1 % 8
/-- The 32-byte completion record (R395). -/
def compRec (c : Cmd) (time : Nat) : Nat :=
  c.desc.u 4 4 + c.status.code * 2 ^ 32 + c.flags.byte * 2 ^ 40 + c.op * 2 ^ 48 + c.desc.u 3 1 * 2 ^ 56 +
  (c.result % 2 ^ 64) * 2 ^ 64 + time * 2 ^ 128 + c.idx * 2 ^ 192
/-- Writes the record of a command at a place of the completion ring. -/
def compWrite (b : Block) (n : Nat) (c : Cmd) (slot : Nat) : Block :=
  let p := b.part n
  dmaPush (modCmd b c.id fun c => { c with st := .posting, slot := slot })
    { part := n, write := true, func := p.mgrFunc, addr := p.comp.base + 32 * (slot % p.comp.size), len := 64,
      data := compRec c b.mtime, use := .comp n c.id, bulk := false }
/-- Posts waiting commits in commit order while the ring has space and the link is up (R476, R480). -/
def postCommits (n : Nat) : Nat → Block → Block
  | 0, b => b
  | fuel + 1, b =>
    let p := b.part n
    match p.commits with
    | [] => b
    | id :: rest =>
      match cmdOf b id with
      | none => postCommits n fuel (b.modPart n fun p => { p with commits := rest })
      | some c =>
        if !p.comp.en || p.comp.full || !kwUp b then b else
        let slot := p.comp.issued
        let b := b.modPart n fun p => { p with commits := rest, comp := { p.comp with issued := (slot + 1) % 2 ^ 32 } }
        postCommits n fuel (compWrite b n c slot)
def postAll (b : Block) (n : Nat) : Block := postCommits n ((b.part n).commits.length + 1) b
/-- A command's work has ended: its record joins the commit order (R395). -/
def finish (b : Block) (id : Nat) (st : Status) (result : Nat := 0) (fl : Flags := {}) : Block :=
  match cmdOf b id with
  | none => b
  | some c =>
    if c.st = .commit ∨ c.st = .posting then b else
    let b := modCmd b id fun c => { c with st := .commit, status := st, result := result, flags := c.flags.or fl }
    postAll (b.modPart c.part fun p => { p with commits := p.commits ++ [id] }) c.part

/-! Taking a command (R393, R394). -/
/-- Whether every bit of the record that its command does not use is zero; `used` are (byte, bytes) of the body. -/
def bodyOk (r : Rec) (used : List (Nat × Nat)) : Bool :=
  bits (r.u 1 1) 1 7 == 0 && bits (r.u 2 1) 4 4 == 0 && bits (r.u 3 1) 3 5 == 0 && r.u 8 8 == 0 &&
  (List.range 48).all fun k => (used.any fun x => decide (x.1 ≤ 16 + k) && decide (16 + k < x.1 + x.2)) || r.u (16 + k) 1 == 0
/-- Commands that wait until every earlier command of the ring has committed. -/
def mustWait (r : Rec) : Bool := bit (r.u 1 1) 0 || [0x50, 0x51, 0x11].contains (r.u 0 1)
/-- Commands of the partition that were taken before and have not committed. -/
def earlier (b : Block) (n id : Nat) : Bool := b.hub.cmds.any fun c => c.part == n && decide (c.id < id)
/-- Whether a command holds the ring head: a BATCH in admission, a COLL that waits for a queue (R394). -/
def headHeld (b : Block) (n : Nat) : Bool :=
  b.hub.cmds.any (fun c => c.part == n && c.st == .running && c.op == 0x52 && c.left == 1) || b.fab.ringWait.contains n
/-- The identity of the next command: new among the commands in progress. -/
def Block.cmdId (b : Block) : Nat := b.hub.cmds.foldl (fun a c => max a (c.id + 1)) b.hub.nextId
/-- The processor takes record `r` from partition `n`'s command ring: its manager is bound (R401), the ring is enabled and not stopped, nothing holds
its head, the entry at HEAD is `r` if it has been fetched, and HEAD moves past the record. -/
def ringTake (b : Block) (n : Nat) (r : Rec) : Option (Cmd × Block) :=
  let p := b.part n
  let other : Bool := (p.fetched.find? fun f => f.1 == p.cmd.head).any fun f => f.2 != r
  if !p.mgrEn || !p.cmd.en || p.cmd.stop || headHeld b n || b.hub.fatal.isSome || other then none else
    let idx := p.cmd.head
    let id := b.cmdId
    let b := b.modHub fun h => { h with nextId := id + 1 }
    let c : Cmd := { id := id, part := n, idx := idx, desc := r }
    let next := (idx + 1) % 2 ^ 32
    let b := b.modPart n fun p =>
      { p with cmd := { p.cmd with head := next, tail := if p.cmd.tail = idx then next else p.cmd.tail },
               fetched := p.fetched.filter fun f => f.1 != idx }
    some (c, b.modHub fun h => { h with cmds := h.cmds ++ [c] })
/-- The state of the partition answers first (R404, R405): FREE refuses, a kill in progress completes SCRUBBING. -/
def stateCheck (p : Part) : Option Status := match p.st with
  | .free => some .protection | .active => none | .killing | .scrubbing => some .scrubbing
/-- A ring command of opcode `op`: taken, set aside where it must wait, else started by `go`. -/
def ringCmd (op : Nat) (go : Block → Cmd → Block) (n : Fin 16) (r : Rec) (b : Block) : Block :=
  if r.u 0 1 ≠ op then b else
  match ringTake b n r with
  | none => b
  | some (c, b) =>
    match stateCheck (b.part n) with
    | some st => finish b c.id st
    | none => if mustWait r && earlier b n c.id then modCmd b c.id fun c => { c with st := .aside } else go b c
/-- Ends a command on the first failing check of R11's order, else goes on. -/
def checked (b : Block) (c : Cmd) (l : List (Bool × Status)) (go : Block → Block) : Block :=
  match refuse l with
  | some st => finish b c.id st
  | none => go b

/-! Reads of LPDDR6 by an agent of partition `n` (R512, R514, R526). -/
/-- A corrected word: counted, logged, written back, and posted at most once per die per millisecond. -/
def memCorrected (b : Block) (word syn : Nat) : Block :=
  let r := 20 + mpaEdie (8 * word)
  let d := mget {} b.hub.die r
  let due : Bool := match d.corrAt with | none => true | some t => decide (t + 1000000 ≤ b.now)
  let d' := { d with loc := regionLoc r, syn := syn, kind := 0, valid := true, corrected := satAdd 32 d.corrected 1,
                     corrAt := if due then some b.now else d.corrAt, sup := if due then 0 else d.sup + 1 }
  let b := ({ b with merr := mset 0 b.merr word 0 }.modHub fun h => { h with die := mset {} h.die r d' }).count 0xC7FC1800
  if due then eventPlat b 0 0x0E01 .done 1 (regionLoc r) (detail [(16, 1, syn), (18, 2, d.sup)]) else b
/-- KIND of an uncorrectable word as it is read: syndrome 0xFF is reported as poison (R510). -/
def uncorrKind (syn : Nat) : Nat := if syn = 0xFF then 3 else 1
/-- A stored uncorrectable word that a consumer of partition `n` receives. -/
def memStored (b : Block) (n word syn : Nat) : Block :=
  let r := 20 + mpaEdie (8 * word)
  let put (d : DieErr) : DieErr := { d with loc := regionLoc r, syn := syn, kind := uncorrKind syn, valid := true, uncorr := satAdd 16 d.uncorr 1 }
  event ((b.modHub fun h => { h with die := mmod {} h.die r put }).count 0xC7FC1808) n 0x0E02 .uncorrectable 2 (regionLoc r)
    (detail [(16, 1, syn), (17, 1, uncorrKind syn), (18, 6, 8 * word), (24, 1, 1)])
/-- Checks the words of a range as they are read; whether one is uncorrectable. -/
def memCheck (b : Block) (n mpa len : Nat) : Bool × Block :=
  let errs := b.merr.filter fun e => decide (mpa < 8 * e.1 + 8) && decide (8 * e.1 < mpa + len)
  errs.foldl (fun (a : Bool × Block) e => match readWord 0 e.2 with
    | .clean _ => a
    | .corrected _ s => (a.1, memCorrected a.2 e.1 s)
    | .bad s => (true, memStored a.2 n e.1 s)) (false, b)

/-- Checks the words of several ranges. -/
def memChecks (b : Block) (n : Nat) (l : List (Nat × Nat)) : Bool × Block :=
  l.foldl (fun (a : Bool × Block) x => let c := memCheck a.2 n x.1 x.2; (a.1 || c.1, c.2)) (false, b)
/-- Checks the words of a PVA range. -/
def pvaCheck (b : Block) (n : Nat) (acc : Access) (pva len : Nat) : Bool × Block :=
  (List.range ((pva + len - 1) / 2 ^ 21 + 1 - pva / 2 ^ 21)).foldl (fun (a : Bool × Block) i =>
    let lo := max pva ((pva / 2 ^ 21 + i) * 2 ^ 21)
    let hi := min (pva + len) ((pva / 2 ^ 21 + i + 1) * 2 ^ 21)
    match translate a.2 n acc lo with
    | some m => let (bad, b) := memCheck a.2 n m (hi - lo); (a.1 || bad, b)
    | none => a) (false, b)

/-! Module-fatal stop (R522). -/
/-- Stops every cell, idles the transmitters, and posts MODULE_FATAL; the reset follows after 1 ms. -/
def fatalStop (b : Block) (cause loc : Nat) : Block :=
  if b.hub.fatal.isSome then b else
  let b := { b with cells := mmap {} b.cells fun c => { c with stopped := true } }
  let b := b.modHub fun h => { h with fatal := some (cause, loc, b.now) }
  let b := ((if b.clk.ready then b.send (.pin 0 false) else b).send (.pin 1 true))
  eventPlat b 0 0x0E08 .aborted 4 chipLoc (detail [(16, 1, cause), (18, 2, loc)])
/-- Escalations wait in the hub until the command that met them settles: kind 0 aborts partition `x` (R408) for the
trigger `cause`, kind 1 fences cell `x` (R523), kind 2 is a module-fatal condition, kind 3 a domain reset's abort. -/
def escalate (b : Block) (kind x cause : Nat) : Block := b.modHub fun h => { h with escal := h.escal ++ [(kind, x, cause)] }

end Sys2Proof.Machine
end

