-- ==== Sys2Proof/Machine/FabricOps.lean ====
section
/-!
DEFINITION. Machine/FabricOps.lean: shared operations of the Sniedor fabric: flits with their codes, virtual channels,
routes and connections (spec 13).
-/
namespace Sys2Proof.Machine

/-! Registers. -/
def nodeId (b : Block) : Nat := bits (b.reg 0xC7F60000) 0 13
def nodeValid (b : Block) : Bool := bit (b.reg 0xC7F60000) 13
def fabCfgReset : Nat := 32 + 20 * 2 ^ 6 + 200 * 2 ^ 14 + 8 * 2 ^ 24 + 1000 * 2 ^ 28 + 100 * 2 ^ 44
def fabCfg (b : Block) : Nat := b.reg 0xC7F60008 fabCfgReset
def hopLimit (b : Block) : Nat := bits (fabCfg b) 0 6
def lifetimeMs (b : Block) : Nat := bits (fabCfg b) 6 8
def e2eUs (b : Block) : Nat := bits (fabCfg b) 14 10
def e2eRetries (b : Block) : Nat := bits (fabCfg b) 24 4
def collMs (b : Block) : Nat := bits (fabCfg b) 28 16
def stallMs (b : Block) : Nat := bits (fabCfg b) 44 8
def eBase (e : Nat) : Nat := regionBase (20 + e)
/-- An E-die fabric counter (R386): k of the table. -/
def fabCount (b : Block) (e k : Nat) (n : Nat := 1) : Block := b.count (eBase e + 0x30A00 + 8 * k) n
/-- A port counter. -/
def portCount (b : Block) (p k : Nat) (n : Nat := 1) : Block := b.count (eBase (p / 6) + 0x30800 + 0x40 * (p % 6) + 8 * k) n
def linkCtrlAddr (p : Nat) : Nat := eBase (p / 6) + 0x30080 + 8 * (p % 6)

/-! State. -/
def Block.modFab (b : Block) (f : Fab → Fab) : Block := { b with fab := f b.fab }
def Block.link (b : Block) (p : Nat) : Link := mget {} b.fab.links p
def Block.modLink (b : Block) (p : Nat) (f : Link → Link) : Block := b.modFab fun x => { x with links := mmod {} x.links p f }
def Block.conn (b : Block) (d : Nat) : Conn := mget {} b.fab.conns d
def Block.modConn (b : Block) (d : Nat) (f : Conn → Conn) : Block := b.modFab fun x => { x with conns := mmod {} x.conns d f }

/-! Packets (R360). -/
def Pkt.typ (p : Pkt) : Nat := bits p.h 0 8
def Pkt.cls (p : Pkt) : Nat := bits p.h 8 2
def Pkt.v (p : Pkt) : Nat := bits p.h 10 1
def Pkt.epoch (p : Pkt) : Nat := bits p.h 12 4
def Pkt.dst (p : Pkt) : Nat := bits p.h 16 13
def Pkt.src (p : Pkt) : Nat := bits p.h 32 13
def Pkt.dpart (p : Pkt) : Nat := bits p.h 48 4
def Pkt.spart (p : Pkt) : Nat := bits p.h 52 4
def Pkt.hops (p : Pkt) : Nat := bits p.h 56 8
def Pkt.cseq (p : Pkt) : Nat := bits p.h 64 24
def Pkt.born (p : Pkt) : Nat := bits p.h 96 16
def Pkt.len (p : Pkt) : Nat := bits p.h 112 16
/-- `n` bytes of the header from byte `k`. -/
def Pkt.u (p : Pkt) (k n : Nat) : Nat := bits p.h (8 * k) (8 * n)
/-- Replaces a field of the header. -/
def Pkt.set (p : Pkt) (lo n v : Nat) : Pkt := { p with h := p.h - bits p.h lo n * 2 ^ lo + (v % 2 ^ n) * 2 ^ lo }
/-- The body from a list of (byte, bytes, value). -/
def pktBody (l : List (Nat × Nat × Nat)) : Nat := l.foldl (fun a x => a + (x.2.2 % 2 ^ (8 * x.2.1)) * 2 ^ (8 * x.1)) 0
def mkPkt (typ cls dst src dpart spart len : Nat) (body : List (Nat × Nat × Nat)) (data : Nat := 0) : Pkt :=
  { h := typ + cls * 2 ^ 8 + dst * 2 ^ 16 + src * 2 ^ 32 + dpart * 2 ^ 48 + spart * 2 ^ 52 + len * 2 ^ 112 + pktBody body, data := data }
/-- Class of a packet type. -/
def typeClass (t : Nat) : Nat := if t = 2 then 1 else if t = 1 ∨ t = 4 ∨ t = 5 ∨ t = 7 then 0 else 2
/-- Credits of a packet (R358). -/
def Pkt.credits (p : Pkt) : Nat := cdiv (32 + p.len) 64
/-- Whether a packet's reserved fields, type, class and length are in order (R360, R386). -/
def Pkt.ok (p : Pkt) : Bool :=
  let t := p.typ
  decide (1 ≤ t) && decide (t ≤ 9) && p.cls == typeClass t && bits p.h 11 1 == 0 && bits p.h 29 3 == 0 && bits p.h 45 3 == 0 &&
  bits p.h 88 8 == 0 && decide (p.len ≤ 1024) &&
  (match t with
    | 1 => decide (64 ≤ p.len) && p.len % 64 == 0 && p.u 28 4 == 0
    | 2 => p.len == 0 && decide (p.u 20 1 < 4) && p.u 21 3 == 0 && p.u 28 4 == 0
    | 4 | 5 => decide (p.u 28 1 < 4) && p.u 31 1 == 0
    | 6 => p.len == 0 && p.u 28 1 == 0 && p.u 31 1 == 0
    | 7 => p.u 28 1 == 0 && p.u 31 1 == 0
    | 8 => p.len == 0 && p.u 25 4 == 0 && p.u 31 1 == 0
    | _ => p.len == 0)
/-- The packet's age in ns (R362). -/
def Pkt.age (b : Block) (p : Pkt) : Nat := ((b.mtime / 2 ^ 14 + 2 ^ 16 - p.born) % 2 ^ 16) * 16384

/-! The code of the wire (R355): RS(136,128) over GF(2^8), x^8 + x^4 + x^3 + x^2 + 1. -/
def gfMulStep (a b : Nat) : Nat → Nat
  | 0 => 0
  | n + 1 =>
    let r := gfMulStep a b n
    let r2 := 2 * r
    let r2 := if 256 ≤ r2 then Nat.xor r2 0x11D else r2
    if bit b (8 - (n + 1)) then Nat.xor r2 a else r2
def gfMul (a b : Nat) : Nat := gfMulStep a b 8
def gfPow (a : Nat) : Nat → Nat
  | 0 => 1
  | n + 1 => gfMul a (gfPow a n)
/-- Inverse: a^254. -/
def gfInv (a : Nat) : Nat := let x2 := gfMul a a; let x4 := gfMul x2 x2; let x8 := gfMul x4 x4; let x16 := gfMul x8 x8
  let x32 := gfMul x16 x16; let x64 := gfMul x32 x32; let x128 := gfMul x64 x64
  gfMul (gfMul (gfMul x2 x4) (gfMul x8 x16)) (gfMul (gfMul x32 x64) x128)
/-- Product of two polynomials, lowest coefficient first. -/
def gfPolyMul : List Nat → List Nat → List Nat
  | [], _ => []
  | a :: p, q =>
    let rest := 0 :: gfPolyMul p q
    let here := q.map (gfMul a)
    (List.range (max here.length rest.length)).map fun i => Nat.xor (here.getD i 0) (rest.getD i 0)
def gfEval (p : List Nat) (x : Nat) : Nat := p.foldr (fun c a => Nat.xor c (gfMul a x)) 0
/-- The generator with roots α^0 to α^7, lowest coefficient first. -/
def rsGen : List Nat := (List.range 8).foldl (fun g i => gfPolyMul g [gfPow 2 i, 1]) [1]
/-- Parity of a message of symbols, first symbol at the highest power. -/
def rsParity (msg : List Nat) : List Nat :=
  let g := rsGen.take 8
  let rem := msg.foldl (fun (r : List Nat) m =>
    let f := Nat.xor m (r.getD 7 0)
    (List.range 8).map fun i => Nat.xor (gfMul f (g.getD i 0)) (if i = 0 then 0 else r.getD (i - 1) 0)) (List.replicate 8 0)
  rem.reverse
/-- Berlekamp–Massey: the error locator of a list of syndromes. -/
def rsLocator (syn : List Nat) : List Nat :=
  let s := (List.range syn.length).foldl (fun (a : List Nat × List Nat × Nat × Nat × Nat) n =>
    let (c, p, l, m, bb) := a
    let d := (List.range (l + 1)).foldl (fun d i => Nat.xor d (gfMul (c.getD i 0) (syn.getD (n - i) 0))) 0
    if d = 0 then (c, p, l, m + 1, bb) else
    let k := gfMul d (gfInv bb)
    let sh := List.replicate m 0 ++ p.map (gfMul k)
    let c' := (List.range (max c.length sh.length)).map fun i => Nat.xor (c.getD i 0) (sh.getD i 0)
    if 2 * l ≤ n then (c', c, n + 1 - l, 1, d) else (c', p, l, m + 1, bb)) ([1], [1], 0, 1, 1)
  s.1.take (s.2.2.1 + 1)
/-- Decodes a code word of 136 symbols, first symbol at the highest power: corrected symbols and the number corrected,
or none where more than 4 are in error. -/
def rsDecode (w : List Nat) : Option (List Nat × Nat) :=
  let low := w.reverse
  let syn := (List.range 8).map fun j => gfEval low (gfPow 2 j)
  if syn.all (· == 0) then some (w, 0) else
  let loc := rsLocator syn
  let nerr := loc.length - 1
  let pos := (List.range 136).filter fun i => gfEval loc (gfInv (gfPow 2 i)) == 0
  if 4 < nerr ∨ pos.length ≠ nerr then none else
  let omega := (gfPolyMul syn loc).take 8
  let fix := pos.map fun i =>
    let x := gfPow 2 i
    let xi := gfInv x
    let den := (List.range loc.length).foldl (fun a k => if k % 2 = 1 then Nat.xor a (gfMul (loc.getD k 0) (gfPow xi (k - 1))) else a) 0
    (i, gfMul x (gfMul (gfEval omega xi) (gfInv den)))
  let low := fix.foldl (fun (l : List Nat) f => l.set f.1 (Nat.xor (l.getD f.1 0) f.2)) low
  some (low.reverse, nerr)
/-- Byte `i` of a little-endian string. -/
def byteAt (v i : Nat) : Nat := bits v (8 * i) 8
def ofBytes (l : List Nat) : Nat := l.foldr (fun x a => x + 256 * a) 0
/-- The 272 wire bytes of a 256-byte flit: the flit, then eight parity bytes of each code word. -/
def flitWire (f : Nat) : Nat :=
  let even := (List.range 128).map fun i => byteAt f (2 * i)
  let odd := (List.range 128).map fun i => byteAt f (2 * i + 1)
  f + ofBytes (rsParity even ++ rsParity odd) * 2 ^ 2048
/-- Decodes 272 wire bytes: the flit and the code words corrected. -/
def wireFlit (w : Nat) : Option (Nat × Nat) :=
  let cw (k : Nat) : List Nat := (List.range 128).map (fun i => byteAt w (2 * i + k)) ++ (List.range 8).map fun i => byteAt w (256 + 8 * k + i)
  match rsDecode (cw 0), rsDecode (cw 1) with
  | some (a, n), some (c, m) =>
    some (ofBytes ((List.range 256).map fun i => if i % 2 = 0 then a.getD (i / 2) 0 else c.getD (i / 2) 0), b2n (n ≠ 0) + b2n (m ≠ 0))
  | _, _ => none

/-! Flits. -/
/-- A flit with its header and CRC. -/
def mkFlit (ftype fseq fack cvc credits first payload : Nat) : Nat :=
  let body := ftype + fseq * 2 ^ 4 + fack * 2 ^ 16 + cvc * 2 ^ 28 + credits * 2 ^ 31 + first * 2 ^ 41 + payload * 2 ^ 64
  body + crc64 248 body * 2 ^ 1984
/-- The last data flit received good. -/
def Link.fack (l : Link) : Nat := (l.rxSeq + 4095) % 4096
/-- Sends a flit that takes no sequence number: idle, NAK, IDENT or TIME; transmitters are idle after a module-fatal stop. -/
def sendCtl (b : Block) (p ftype cvc credits payload : Nat) : Block :=
  if b.hub.fatal.isSome then b else
  let l := b.link p
  b.send (.snd p ftype (272, flitWire (mkFlit ftype ((l.txSeq + 4095) % 4096) l.fack cvc credits 0x1F payload)))
/-- Counts a data flit sent; the Kwasar link, numbered 24, has no such counter. -/
def flitSent (b : Block) (p : Nat) : Block := if p < 24 then portCount b p 0 else b
/-- Sends data flits of the bytes of whole packets, 240 to a flit from flit `i` on; `heads` are the slots in which a packet's header
begins (R360). -/
def sendData (p : Nat) (heads : List Nat) : Nat → Nat → Nat → Nat → Block → Block
  | 0, _, _, _, b => b
  | fuel + 1, i, len, v, b =>
    if len = 0 then b else
    let l := b.link p
    let first := ((heads.find? fun s => s / 15 == i).map (· % 15)).getD 0x1F
    let f := mkFlit 1 l.txSeq l.fack 0 0 first (v % 2 ^ 1920)
    let b := b.modLink p fun l => { l with txSeq := (l.txSeq + 1) % 4096, replay := l.replay ++ [{ seq := l.txSeq, bytes := f }] }
    sendData p heads fuel (i + 1) (len - min len 240) (v / 2 ^ 1920) (flitSent (b.send (.snd p 1 (272, flitWire f))) p)
/-- Counts a flit sent again, on a Sniedor port or on the Kwasar link (REPLAYS of R481). -/
def flitAgain (b : Block) (p : Nat) : Block := if p < 24 then portCount (portCount b p 0) p 4 else b.count 0xC7FA7838
/-- Sends the flits of a replay buffer again. -/
def resendFlits (b : Block) (p : Nat) (l : List TxFlit) : Block :=
  b.each l fun b f => flitAgain (b.send (.snd p 1 (272, flitWire f.bytes))) p
/-- Bytes of a packet on a link: header and payload, padded to a slot of 16. -/
def Pkt.wireLen (k : Pkt) : Nat := cdiv (32 + k.len) 16 * 16
/-- The next packet of a link with `n` virtual channels of `room` credits: the ready channels take turns (R358). -/
def linkPick (n room : Nat) (cost : Pkt → Nat) (l : Link) : Option VcPkt :=
  ((List.range n).map fun i => (l.rr + 1 + i) % n).findSome? fun vc =>
    match l.q.find? fun x => x.vc == vc with
    | some x => if cost x.pkt + mget 0 l.credits vc ≤ room then some x else none
    | none => none
/-- The link takes a packet of `cost` credits out of its queues. -/
def Link.take (l : Link) (x : VcPkt) (cost : Nat) : Link :=
  { l with q := l.q.erase x, rr := x.vc, credits := mmod 0 l.credits x.vc (· + cost) }
/-- Takes out of the queues of a link the packets that it can send now, after `n` bytes of others; one that has outlived its time is
discarded (R362). -/
def linkTake (p : Nat) : Nat → Nat → List Pkt → Block → List Pkt × Block
  | 0, _, out, b => (out, b)
  | fuel + 1, n, out, b =>
    let l := b.link p
    match linkPick 6 1024 Pkt.credits l with
    | none => (out, b)
    | some x =>
      if 1000000 * lifetimeMs b < x.pkt.age b then
        linkTake p fuel n out (fabCount (b.modLink p fun l => { l with q := l.q.erase x }) (p / 6) 3)
      else if 2048 < l.replay.length + cdiv (n + x.pkt.wireLen) 240 then (out, b)
      else linkTake p fuel (n + x.pkt.wireLen) (out ++ [x.pkt])
        (b.modLink p fun l => { l.take x x.pkt.credits with stallAt := mset 0 l.stallAt x.vc (2 * b.now) })
/-- Packets, with headers of `hdr` bytes, from slot to slot: the slots of their headers, their bytes, and how many. -/
def packPkts (hdr : Nat) (len : Pkt → Nat) (ks : List Pkt) : List Nat × Nat × Nat :=
  ks.foldl (fun (a : List Nat × Nat × Nat) k => (a.1 ++ [a.2.2 / 16], a.2.1 + (k.h + k.data * 2 ^ (8 * hdr)) * 2 ^ (8 * a.2.2), a.2.2 + len k)) ([], 0, 0)
/-- Sends what an UP link can send. -/
def pumpLink (b : Block) (p : Nat) : Block :=
  if (b.link p).st ≠ 2 ∨ b.hub.fatal.isSome then b else
  let (ks, b) := linkTake p (b.link p).q.length 0 [] b
  let x := packPkts 32 Pkt.wireLen ks
  sendData p x.1 (x.2.2 / 240 + 1) 0 x.2.2 x.2.1 b
/-- Sends what a command has put in the queues of links, packets that were ready together in common flits. -/
def pumpLinks (b : Block) : Block :=
  let l := b.fab.fresh
  if l.isEmpty then b else (b.modFab fun f => { f with fresh := [] }).each l pumpLink

/-! Routes (R361). -/
def routeOf (b : Block) (e dst : Nat) : Nat := mget 0 b.fab.routes (e * 8192 + dst)
def selectPort (b : Block) (entry src dst cls : Nat) : Option Nat :=
  let up := (List.range 24).filter fun p => bit entry p && (b.link p).st == 2
  if !bit entry 25 || up.isEmpty then none
  else
    let h := (((src * 8192 + dst) * 0x9E3779B1 + cls) % 2 ^ 32) / 65536
    up[h % up.length]?
/-- Routes a packet from E-die `e` into the queue of a link; none where there is no route. -/
def routeSend (b : Block) (e : Nat) (k : Pkt) : Option Block :=
  let entry := routeOf b e k.dst
  match selectPort b entry k.src k.dst k.cls with
  | none => none
  | some p =>
    let v := bits entry 24 1
    let k := k.set 10 1 v
    let b := b.modLink p fun l => { l with q := l.q ++ [{ vc := 2 * k.cls + v, pkt := k, at_ := b.now }] }
    some (b.modFab fun f => { f with fresh := if f.fresh.contains p then f.fresh else f.fresh ++ [p] })
/-- HOPS and BORN at injection. -/
def stamp (b : Block) (k : Pkt) : Pkt := (k.set 56 8 (hopLimit b)).set 96 16 (b.mtime / 2 ^ 14)

/-! Answers to local senders. -/
def markXfer (st : Status) (id : Nat) (x : Xfer) : Xfer := if x.id = id then { x with answer := some st } else x
def Stream.answer (s : Stream) (id : Nat) (st : Status) : Stream :=
  { s with q := s.q.map fun e => { e with win := e.win.map (markXfer st id) }, zombies := s.zombies.map (markXfer st id) }
/-- A sender on this module receives the answer to its packet or window write. -/
def answerLocal (b : Block) (o : Origin) (st : Status) (k : Pkt) : Block := match o with
  | .xfer cell out id => b.modCell cell fun c => if out then { c with outb := c.outb.answer id st } else { c with inb := c.inb.answer id st }
  | .coll _ _ => b.modFab fun f => { f with answers := f.answers ++ [(o, st.code, k)] }
  | .fabric _ _ _ => b
/-- Sends an ANSWER packet to another node (R365). -/
def sendAnswer (b : Block) (node cseq : Nat) (st : Status) (cumul expect : Bool) (token : Nat) : Block :=
  let k := stamp b (mkPkt 2 1 node (nodeId b) 0 0 0 [(16, 3, cseq), (19, 1, st.code), (20, 1, b2n cumul + 2 * b2n expect), (24, 4, token)])
  match routeSend b (node % 4) k with | some b => b | none => fabCount b (node % 4) 4
/-- A receiver answers an accepted packet and logs the answer (R365). -/
def answerPkt (b : Block) (node cseq : Nat) (st : Status) (token : Nat) : Block :=
  let put (r : RConn) : RConn := { r with log := r.log.map fun x => if x.1 = cseq then (cseq, st.code) else x }
  let b := b.modFab fun f => { f with rconns := mmod {} f.rconns node put }
  sendAnswer b node cseq st false false token

/-! Connections (R364 to R366). -/
/-- LINK_BYTES: a packet sent is charged to the queue of the collective's command or of the partition's run (R410). -/
def chargeLink (b : Block) (k : Pkt) (o : Origin) : Block :=
  let run := match (b.part k.spart).running with | some r => r.attr % 8 | none => 0
  let q := match o with
    | .coll _ id => match b.fab.colls.find? (·.id == id) with
      | some c => match cmdOf b c.cmd with | some d => d.attr | none => run
      | none => run
    | _ => run
  b.count (0xC7F71000 + 0x100 * k.spart + 0x20 * q + 24) k.wireLen
/-- Sends waiting packets of the connection to `d` while fewer than 512 are unanswered. -/
def connPump (d : Nat) : Nat → Block → Block
  | 0, b => b
  | fuel + 1, b =>
    let c := b.conn d
    match c.wait with
    | [] => b
    | (k, o) :: rest =>
      if 512 ≤ c.out.length then b else
      let k := ((stamp b k).set 64 24 c.next).set 12 4 c.epoch
      match routeSend b (d % 4) k with
      | none =>
        let b := b.modConn d fun c => { c with wait := rest }
        connPump d fuel (answerLocal (fabCount b (d % 4) 4) o .linkDown k)
      | some b =>
        let x : OutPkt := { cseq := c.next, pkt := k, from_ := o, at_ := b.now }
        connPump d fuel ((chargeLink b k o).modConn d fun c => { c with wait := rest, next := (c.next + 1) % 2 ^ 24, out := c.out ++ [x] })
/-- Sends a packet of a connection to its destination: to this module itself it is delivered locally; with no node number
in force, on a broken connection or without a route its sender is answered LINK_DOWN. -/
def connSend (b : Block) (k : Pkt) (o : Origin) : Block :=
  let d := k.dst
  if d = nodeId b then b.modFab fun f => { f with localq := f.localq ++ [k] }
  else if !nodeValid b || (b.conn d).broken.isSome || b.hub.fatal.isSome then answerLocal b o .linkDown k
  else
    let b := b.modConn d fun c => { c with wait := c.wait ++ [(k, o)] }
    connPump d ((b.conn d).wait.length) b

/-! Link state changes (R354). -/
def linkEvent (b : Block) (p st cause : Nat) : Block :=
  let l := b.link p
  eventPlat b 0 0x0801 (if st = 2 then .done else if st = 4 then .linkDown else .done) 0 (regionLoc (20 + p / 6))
    (detail [(16, 1, p), (17, 1, st), (18, 1, cause), (20, 2, l.peerNode), (22, 1, l.peerPort), (24, 4, (b.now - l.since) / 1000)])
def timeCfg (b : Block) : Nat := b.reg 0xC7F90208
/-- The parent port of job time, where the module takes its time from a neighbour (R459). -/
def timeParent (b : Block) : Option Nat := if bit (timeCfg b) 0 && !bit (timeCfg b) 1 then some (bits (timeCfg b) 2 5) else none
/-- TIME_ALIGN. -/
def timeAlignEvent (b : Block) (up : Bool) : Block :=
  eventPlat b 0 0x0B05 (if up then .done else .linkDown) 0 chipLoc
    (detail [(16, 1, b2n up), (17, 1, bits (timeCfg b) 2 5), (18, 4, wrapN 32 b.clk.offset)])
/-- The parent port leaves UP: ALIGNED is cleared and the time runs free. -/
def timeFree (b : Block) : Block :=
  let was := b.clk.aligned
  let b : Block := { b with clk := { b.clk with aligned := false, good := 0, slew := 0 } }
  if was then timeAlignEvent b false else b
/-- Moves a port to a state; entries into TRAIN and RECOVER count as retrains, and a port in TRAIN sends IDENT. -/
def linkTo (b : Block) (p st cause : Nat) : Block :=
  let b := if (b.link p).st = 2 ∧ st ≠ 2 ∧ timeParent b = some p then timeFree b else b
  let b := linkEvent b p st cause
  let b := if st = 1 then sendCtl b p 3 0 0 (Config.identPayload (nodeId b) p).toNat else b
  b.modLink p fun l => { l with st := st, since := b.now, goodAt := b.now,
                                retrains := if st = 1 ∨ st = 3 then min 255 (l.retrains + 1) else l.retrains }
/-- What a port that goes DOWN or is disabled loses: its replay buffer, queued packets, credits and receive buffers. -/
def linkDrop (b : Block) (p : Nat) : Block :=
  b.modLink p fun l => { l with replay := [], q := [], credits := [], rxBuf := (0, 0), rx := [], rxUsed := [], owed := [], txSeq := 0, rxSeq := 0,
                                stallAt := [] }
def linkDown (b : Block) (p cause : Nat) : Block := linkDrop (linkTo b p 4 cause) p

end Sys2Proof.Machine
end

