-- ==== Sys2Proof/Machine/CollOps.lean ====
section
/-!
DEFINITION. Machine/CollOps.lean: groups, and the ending of a collective (spec 13).
-/
namespace Sys2Proof.Machine

/-! Groups (R368). -/
def groupKey (n g : Nat) : Nat := 1024 * n + g
def groupOf (b : Block) (n g : Nat) : Option Group := if g < 1024 then mget none b.fab.groups (groupKey n g) else none
/-- The group that a command's handle names: an index below the quota (R48). -/
def groupNamed (b : Block) (n g : Nat) : Option Group := if g < (b.part n).groupQuota then groupOf b n g else none
/-- Groups that all partitions hold: the H-die has 1,024 entries (R368). -/
def groupsAll (b : Block) : Nat := b.fab.groups.countP fun g => g.2.isSome
def setGroup (b : Block) (n g : Nat) (x : Option Group) : Block := b.modFab fun f => { f with groups := mset none f.groups (groupKey n g) x }
def memberNode (m : Nat) : Nat := m % 8192
def memberPart (m : Nat) : Nat := m / 8192 % 16
def collGroup (b : Block) (c : Coll) : Group := (groupOf b c.part c.group).getD { part := c.part, tag := 0, members := [], fanin := 2, rank := 0 }
def Block.coll (b : Block) (id : Nat) : Option Coll := b.fab.colls.find? fun c => c.id == id
def modColl (b : Block) (id : Nat) (g : Coll → Coll) : Block := b.modFab fun f => { f with colls := f.colls.map fun c => if c.id = id then g c else c }
/-- A per-partition collective counter: k of the table. -/
def collCount (b : Block) (n k : Nat) (a : Nat := 1) : Block := b.count (0xC7F60800 + 0x80 * n + 8 * k) a
/-- The partition's collectives have sent or received a packet (R382). -/
def collProgress (b : Block) (n : Nat) : Block := b.modFab fun f => { f with progress := mset 0 f.progress n (b.now + 1) }
/-- Sends a collective's packet to a member. -/
def sendMember (b : Block) (c : Coll) (rank typ len : Nat) (body : List (Nat × Nat × Nat)) (data : Nat := 0) : Block :=
  let m := (collGroup b c).members.getD rank 0
  let k := mkPkt typ (typeClass typ) (memberNode m) (nodeId b) (memberPart m) c.part len body data
  connSend (collProgress b c.part) k (.coll c.part c.id)
/-- The flags of what a collective has done (R13). -/
def Coll.flags (c : Coll) : Flags := { fallback := c.fallback, sat := c.sat }
/-- Completes a GROUP_CLEAR once no collective of the group is left (R370). -/
def groupCleared (b : Block) (n g : Nat) : Block :=
  match groupOf b n g with
  | some x => match x.clearing with
    | some id => if b.fab.colls.any fun c => c.part == n && c.group == g then b else finish (setGroup b n g none) id .done
    | none => b
  | none => b
/-! Escrow (R375). -/
/-- Bytes of the result region of a COLL descriptor in a group of `p` members (R375). -/
def resultBytes (r : Rec) (p : Nat) : Nat :=
  let n := r.u 40 4
  match r.u 18 1 with
  | 0 => n * inSize (r.u 21 1) | 1 => n / p * inSize (r.u 21 1) | 2 => p * n | _ => r.u 56 4
def escrowBytes (r : Rec) (p : Nat) : Nat := resultBytes r p + (if r.u 18 1 < 2 then 4 * r.u 23 1 * 65536 else 0)
/-- The escrow's pieces in logical order: cell, store offset, bytes; none where one is not a usable buffer. -/
def escrowList (b : Block) (n : Nat) (r : Rec) : Option (List (Nat × Nat × Nat)) :=
  ((List.range (r.u 47 1)).map (· + r.u 44 2)).mapM fun k =>
    match mget 0 (b.part n).cellMap k with
    | 0 => none
    | c + 1 => let e := (b.cell c).buf (r.u 46 1)
               if e.valid && !e.weight then some (c, e.base, e.len) else none
/-- Writes bytes to the escrow from position `pos`. -/
def escrowPut : List (Nat × Nat × Nat) → Nat → Nat → Nat → Block → Block
  | [], _, _, _, b => b
  | (k, base, size) :: l, pos, len, v, b =>
    if len = 0 then b
    else if size ≤ pos then escrowPut l (pos - size) len v b
    else
      let m := min len (size - pos)
      escrowPut l 0 (len - m) (v / 2 ^ (8 * m)) (b.modCell k fun c => c.put (base + pos) m (v % 2 ^ (8 * m)))
/-- The escrow of a collective that does not end with DONE is undefined (R376). -/
def escrowLost (b : Block) (c : Coll) : Block := match escrowList b c.part c.desc with
  | none => b
  | some esc => let (v, b) := b.draw; escrowPut esc 0 (escrowBytes c.desc (collGroup b c).members.length) v b
/-- Ends a collective: its queue and reduction memory are free, its command completes and is counted, and an ending other
than DONE is posted; with `tell` it is sent to every other member (R376, R382 to R384, R388). Its flags say what was done before it
ended (R13). -/
def collEnd (b : Block) (c : Coll) (st : Status) (received tell : Bool) (rank : Nat) (fl : Flags := {}) : Block :=
  let g := collGroup b c
  let b := if st = .done then b else escrowLost b c
  let b := if tell then
      b.each ((List.range g.members.length).filter (· != g.rank)) fun b r =>
        sendMember b c r 8 0 [(16, 4, c.tag), (20, 4, c.seq), (24, 1, st.code), (29, 2, g.rank)]
    else b
  let b := b.modFab fun f => { f with colls := f.colls.filter (fun x => x.id != c.id) }
  let b := if c.rmem then b.each (List.range 4) fun b e => b.modFab fun f => { f with rmemUsed := mmod 0 f.rmemUsed e (· - c.desc.u 23 1) } else b
  let b := match st with
    | .done => if c.fallback then collCount (collCount b c.part 0) c.part 1 else collCount b c.part 0
    | .orderStall => collCount b c.part 2
    | .timeout => collCount b c.part 3
    | _ => collCount b c.part 4
  let b := if st = .done then b else
    event b c.part 0x0804 st 0 chipLoc
      (detail [(16, 2, c.group), (18, 1, c.desc.u 18 1), (19, 1, b2n received), (20, 4, c.tag), (24, 4, c.seq), (28, 2, rank)])
  groupCleared (finish b c.cmd st 0 (fl.or c.flags)) c.part c.group
/-- Ends a collective for a reason met here. -/
def collFail (b : Block) (c : Coll) (st : Status) : Block := collEnd b c st false true (collGroup b c).rank
/-- A kill ends a partition's collectives with ABORTED and frees its groups and rendezvous entries (R404, R405). -/
def collKill (b : Block) (n : Nat) : Block :=
  let b := b.each (b.fab.colls.filter fun c => c.part == n) fun b c => collFail b c .aborted
  b.modFab fun f => { f with groups := f.groups.filter (fun g => g.1 / 1024 != n), rdv := f.rdv.filter (fun r => r.part != n),
                             ringWait := f.ringWait.filter (· != n), retry := f.retry.filter (fun r => r.2.1 != n) }

end Sys2Proof.Machine
end

