-- ==== Sys2Proof/Machine/RemitOps.lean ====
section
/-!
DEFINITION. Machine/RemitOps.lean: frames of the ledger's pools, and shared operations of the remittance engines, their
queue pairs and ports (spec 09, 11).
-/
namespace Sys2Proof.Machine

/-! Frames (R242 to R244). -/
def Block.model (b : Block) (n m : Nat) : Model := mget {} (b.part n).models m
def Block.modModel (b : Block) (n m : Nat) (f : Model → Model) : Block := b.modPart n fun p => { p with models := mmod {} p.models m f }
def Model.pageBytes (m : Model) : Nat := m.kvHeads * 2 * 16 * m.headDim
def Model.fpp (m : Model) : Nat := 2097152 / max 1 m.pageBytes
def Model.framePva (m : Model) (f : Nat) : Nat := (m.poolVpn + f / max 1 m.fpp) * 2 ^ 21 + f % max 1 m.fpp * m.pageBytes
def frameMpa (b : Block) (n m f : Nat) : Nat := (translate b n .frame ((b.model n m).framePva f)).getD 0
def frameEdie (b : Block) (n m f : Nat) : Nat := mpaEdie (frameMpa b n m f)
def Block.frame (b : Block) (n m f : Nat) : Frame := mget {} (b.model n m).frames f
/-- A frame that nothing refers to or pins is free. -/
def Frame.norm (f : Frame) : Frame := if f.ref = 0 ∧ f.pins = 0 ∧ f.remit = 0 ∧ !f.zombie then {} else f
def Block.modFrame (b : Block) (n m f : Nat) (g : Frame → Frame) : Block :=
  b.modModel n m fun x => { x with frames := mmod {} x.frames f fun y => (g y).norm }

/-- The handle check of R247; a free entry's next generation is no handle. -/
def seqCheck (b : Block) (n h : Nat) : Option Status :=
  let e := b.entry (h % 65536)
  if !e.taken || e.owner ≠ n then some .protection else if e.gen ≠ h / 65536 || e.st = 0 then some .descInvalid else none
def leafKey (layer page : Nat) : Nat := layer * 65536 + page

/-! State. -/
def Block.modRem (b : Block) (f : Rem → Rem) : Block := { b with rem := f b.rem }
def Block.ed (b : Block) (e : Nat) : EDie := mget {} b.rem.edies e
def Block.modEd (b : Block) (e : Nat) (f : EDie → EDie) : Block := b.modRem fun r => { r with edies := mmod {} r.edies e f }
def Block.port (b : Block) (e p : Nat) : EthPort := mget {} (b.ed e).ports p
def Block.modPort (b : Block) (e p : Nat) (f : EthPort → EthPort) : Block := b.modEd e fun x => { x with ports := mmod {} x.ports p f }
def Block.qp (b : Block) (e i : Nat) : QP := mget {} (b.ed e).qps i
def Block.modQp (b : Block) (e i : Nat) (f : QP → QP) : Block := b.modEd e fun x => { x with qps := mmod {} x.qps i f }
def remBase (e : Nat) : Nat := regionBase (20 + e) + 0x20000
def remCount (b : Block) (e off : Nat) (k : Nat := 1) : Block := b.count (remBase e + off) k
def partRemCount (b : Block) (n k : Nat) (a : Nat := 1) : Block := b.count (0xC7F58800 + 0x80 * n + 8 * k) a
def portMode (b : Block) (e : Nat) : Nat := b.reg (remBase e) 24
/-- Line rate of a port in Mb/s. -/
def lineRate (b : Block) (e : Nat) : Nat := if bit (portMode b e) 0 then 800000 else 1600000
/-- The cap of a queue pair's rate (R323). -/
def rateCap (b : Block) (e : Nat) (q : QP) : Nat := let c := q.desc.u 56 4; if c = 0 then lineRate b e else c
def egressBytes : Nat := 16 * 2 ^ 20

/-! Destinations (R308, R309). -/
def destKey (n i : Nat) : Nat := n * 65536 + i
def destTable (b : Block) (n : Nat) : Nat × Nat := let r := b.reg (0xC7F58000 + 8 * n); (bits r 0 40, bits r 40 16)
/-- The descriptor a handle names, if the entry is in use under that generation. -/
def destOf (b : Block) (n h : Nat) : Option Rec :=
  let i := h % 65536
  let (base, cnt) := destTable b n
  match mget (0, false) b.rem.dests (destKey n i) with
  | (g, true) => if g = h / 65536 ∧ i < cnt then some (BitVec.ofNat 512 (b.memRead (base + 64 * i) 64)) else none
  | _ => none

/-! Ends of remittances. -/
/-- A remittance's pin on its frame ends (R265, R313). -/
def remitUnpin (b : Block) (r : Remit) : Block :=
  if r.read then b else b.modFrame r.part r.model r.frame fun f => { f with remit := f.remit - 1 }
/-- Completes DEST_CLEAR commands whose remittances have ended (R309). -/
def clearsDone (b : Block) : Block :=
  let ready := b.rem.clears.filter fun c => !(b.rem.remits.any fun r => r.part == c.2.1 && r.dest == c.2.2)
  let b := b.modRem fun r => { r with clears := r.clears.filter fun c => !ready.contains c }
  b.each ready fun b c => finish b c.1 .done
/-- Takes a remittance out: its store bytes, its pin and its RESEND command's account. -/
def remitGone (b : Block) (r : Remit) (st : Status) : Block :=
  let b := remitUnpin b r
  let b := b.modRem fun x => { x with remits := x.remits.filter fun y => y.id != r.id }
  let b := b.modEd r.edie fun e => { e with q := e.q.filter (· != r.id), used := e.used - r.held }
  let b := match r.cmd with
    | none => b
    | some id =>
      let b := modCmd b id fun c => { c with left := c.left - 1, bad := match c.bad with
                                                                  | some s => some s
                                                                  | none => if st = .done then none else some st }
      match cmdOf b id with
      | some c => if c.left = 0 && c.st == .running then finish b id (c.bad.getD .done) c.result else b
      | none => b
  clearsDone b
/-- Ends a remittance with a failure: counted, and posted unless a kill ends it (R325, R328). -/
def remitFail (b : Block) (r : Remit) (st : Status) (quiet : Bool := false) : Block :=
  let qpn := match r.qp with | some i => r.edie * 4096 + i | none => 0xFFFFFF
  let b := partRemCount b r.part 3
  let b := if quiet then b else
    event b r.part 0x0601 st 0 (regionLoc (20 + r.edie))
      (detail [(16, 4, r.seq), (20, 2, r.layer), (22, 1, r.c), (23, 1, b2n r.resend), (24, 4, r.page), (28, 3, qpn)])
  let b := match r.qp with
    | none => b
    | some i => b.modQp r.edie i fun q =>
        { q with done := (q.pkts.take q.done).countP (fun k => k.remit != r.id), pkts := q.pkts.filter fun k => k.remit != r.id }
  remitGone b r st
/-- Packets that have been sent and not acknowledged: the front of a queue pair's packets (R321). -/
def QP.outstanding (q : QP) : List RPkt := q.pkts.takeWhile fun k => k.sent.isSome
def remitsOf (b : Block) (e i : Nat) : List Remit := b.rem.remits.filter fun r => r.edie == e && r.qp == some i
/-- A queue pair enters ERROR (R325). -/
def qpError (b : Block) (e i : Nat) (st : Status) (syn psn : Nat) : Block :=
  let q := b.qp e i
  if q.st ≠ 1 then b else
  let rs := remitsOf b e i
  let b := b.modQp e i fun q => { q with st := 2, err := st.code, rnrAt := none }
  let b := event b q.part 0x0602 st 0 (regionLoc (20 + e))
    (detail [(16, 3, e * 4096 + i), (19, 1, syn), (20, 3, psn), (24, 8, rs.length)])
  (b.each rs fun b r => remitFail b r st).modQp e i fun q => { q with pkts := [], done := 0 }

/-! Hand-off (R312). -/
/-- Hands a page to the engine of its frame's E-die, with the next SEAL_SERIAL. Without a destination nothing is shipped. -/
def handOff (b : Block) (n seq dest layer page m frame c attr : Nat) (resend : Bool) (cmd : Option Nat) : Block :=
  let serial := b.rem.serial
  let b := b.modRem fun r => { r with serial := (r.serial + 1) % 2 ^ 64 }
  if dest = 0xFFFFFFFF then partRemCount b n 5 else
  let (id, b) := b.newId
  let e := frameEdie b n m frame
  let r : Remit := { id := id, part := n, seq := seq, dest := dest, layer := layer, page := page, model := m, frame := frame, c := c,
                     serial := serial, time := b.mtime, edie := e, resend := resend, cmd := cmd, attr := attr, handed := b.now }
  let b := b.modFrame n m frame fun f => { f with remit := f.remit + 1 }
  let b := b.modRem fun x => { x with remits := x.remits ++ [r] }
  let b := b.modEd e fun x => { x with q := x.q ++ [id] }
  if resend then partRemCount b n 4 else b

/-! Port links (R326, R548). -/
def portEvent (b : Block) (e p : Nat) (up : Bool) (us : Nat) : Block :=
  eventPlat b 0 0x0603 (if up then .done else .linkDown) 0 (regionLoc (20 + e)) (detail [(16, 1, p), (17, 1, b2n up), (18, 4, us)])
/-- A port's link is lost: its queue pairs stop sending and keep their contexts. -/
def portDown (b : Block) (e p : Nat) : Block :=
  if !(b.port e p).up then b else
  portEvent (b.modPort e p fun x => { x with up := false, since := b.now, lostAt := some b.now, pauseAt := none }) e p false 0

/-! Ends of a partition's remittances (R328). -/
def killRemit (b : Block) (n : Nat) : Block :=
  let b := b.each (b.rem.remits.filter fun r => r.part == n) fun b r => remitFail b r .aborted true
  let b := b.each (List.range 4) fun b e => b.modEd e fun x =>
    { x with qps := mmap {} x.qps fun q => if q.part = n then {} else q, cache := x.cache.filter fun c => c.1 != n }
  b.modRem fun r => { r with dests := mmap (0, false) r.dests id |>.filter fun d => d.1 / 65536 != n, clears := r.clears.filter fun c => c.2.1 != n }

end Sys2Proof.Machine
end

