-- ==== Sys2Proof/Machine/LedgerOps.lean ====
section
/-!
DEFINITION. Machine/LedgerOps.lean: the ledger's tables, frames, leaves, seals and walks as shared operations (spec 09).
-/
namespace Sys2Proof.Machine

/-! Counters (k of the table) and handles. -/
def ledCount (b : Block) (n k : Nat) (a : Nat := 1) : Block := b.count (0xC7F52000 + 0x100 * n + 8 * k) a
def handleOf (b : Block) (x : Nat) : Nat := x + 65536 * (b.entry x).gen
def ledUsed (b : Block) (n : Nat) : Nat := b.entries.countP fun e => e.2.st != 0 && e.2.owner == n
/-- A new entry cannot be taken (R249). -/
def ledFull (b : Block) (n : Nat) : Bool := decide ((b.part n).ledQuota ≤ ledUsed b n) || decide (65536 ≤ b.entries.countP fun e => e.2.st != 0)
/-- The lowest free entry. -/
def freeEntry (b : Block) : Nat := ((List.range 65536).find? fun i => (b.entry i).st == 0).getD 0

/-! Table pool (R250): runs of 256-byte blocks, first-fit. -/
def poolBlocks (p : Part) : Nat := p.poolPages * 8192
def firstFit (used : Map Nat) (total k : Nat) : Option Nat :=
  let r := used.foldl (fun (a : Nat × Option Nat) e =>
    match a.2 with
    | some _ => a
    | none => if a.1 + k ≤ e.1 then (a.1, some a.1) else (e.1 + e.2, none)) (0, none)
  match r.2 with
  | some s => some s
  | none => if r.1 + k ≤ total then some r.1 else none
def allocBlocks (b : Block) (n k : Nat) : Option (Nat × Block) :=
  (firstFit (b.part n).blocksUsed (poolBlocks (b.part n)) k).map fun s => (s, b.modPart n fun p => { p with blocksUsed := mset 0 p.blocksUsed s k })
def freeBlocks (b : Block) (n s : Nat) : Block := b.modPart n fun p => { p with blocksUsed := mset 0 p.blocksUsed s 0 }
def blocksUsedSum (p : Part) : Nat := p.blocksUsed.foldl (fun a e => a + e.2) 0
/-- Whether a table-pool block holds an uncorrectable word (R281). -/
def blockBad (b : Block) (n s len : Nat) : Bool := memBad b ((b.part n).poolMpa + 256 * s) len

/-! Frames (R243 to R245). -/
def Model.defined (m : Model) : Bool := m.layers != 0
def Model.frames_ (m : Model) : Nat := m.poolPages * m.fpp
def Model.parts (m : Model) : Nat := 2 ^ (2 * m.kvHeads) - 1
def Model.inUse (m : Model) : Nat := m.frames.length
/-- The lowest run of `k` free frames on an E-die, scanning from frame `f` with `run` free frames behind it. -/
def runScan (b : Block) (n m e k : Nat) : Nat → Nat → Nat → Option Nat
  | 0, _, _ => none
  | fuel + 1, f, run =>
    let ok := (b.frame n m f == {}) && frameEdie b n m f == e
    if ok && decide (k ≤ run + 1) then some (f + 1 - k) else runScan b n m e k fuel (f + 1) (if ok then run + 1 else 0)
/-- New frames for page `p` of entry `x` (R245, R252): E-die (x + p) mod 4 first, then the next in ascending order. -/
def allocFrames (b : Block) (n m x p k : Nat) : Option (Nat × Block) :=
  let total := (b.model n m).frames_
  let at_ := [0, 1, 2, 3].findSome? fun i => runScan b n m ((x + p + i) % 4) k total 0 0
  at_.map fun f => let (id, b) := b.newId; (f, b.each (List.range k) fun b i => b.modFrame n m (f + i) fun _ => { ref := 1, born := id })
/-- Drops one reference of a frame (R280); a free that waits for pins is counted. -/
def deref (b : Block) (n m f : Nat) : Block :=
  let x := b.frame n m f
  let b := if x.ref = 1 then
      let b := match x.open_ with | some o => freeBlocks b n o.block | none => b
      if x.pins ≠ 0 ∨ x.remit ≠ 0 then ledCount b n 11 else b
    else b
  b.modFrame n m f fun y => { y with ref := y.ref - 1, open_ := if y.ref = 1 then none else y.open_ }
def Frame.mask (m : Model) (f : Frame) (slot : Nat) : Nat := match f.open_ with
  | some o => mget 0 o.parts slot
  | none => m.parts
/-- Leading slots whose every part is committed. -/
def Frame.lead (m : Model) (f : Frame) : Nat := ((List.range 16).takeWhile fun s => f.mask m s == m.parts).length

/-! Leaves (R250, R252, R254). -/
def LEntry.leaf (e : LEntry) (layer page : Nat) : Leaf := mget {} e.leafs (leafKey layer page)
def LEntry.len (e : LEntry) (layer : Nat) : Nat := mget 0 e.lens layer
def LEntry.pages (e : LEntry) : List (Nat × Nat × Leaf) := e.leafs.map fun x => (x.1 / 65536, x.1 % 65536, x.2)
/-- The frame of a page: its own, or its piece of an extent (R252). -/
def leafFrame (l : Leaf) (page : Nat) : Nat := if l.st = 3 then l.frame + page % 2 ^ (l.ext + 1) else l.frame
def tableKey (layer page : Nat) : Nat := layer * 1024 + page / 64
/-- Live walks that latched the leaf table now in force for a page. -/
def latchers (b : Block) (x layer page : Nat) : List Nat :=
  let e := b.entry x
  let old := ((b.part e.owner).shadows.filter fun s => s.entry == x && s.key == tableKey layer page).flatMap (·.walks)
  (e.walks.filter fun w => w.layer == layer && decide (page / 64 * 1024 < w.length) && !old.contains w.id).map (·.id)
/-- Whether an edit of a leaf needs a shadow: a live walk has latched the leaf and the page lies below its length. -/
def needShadow (b : Block) (x layer page : Nat) : Bool :=
  let e := b.entry x
  let l := latchers b x layer page
  e.walks.any fun w => l.contains w.id && decide (16 * page < w.length)
/-- Writes a leaf entry (R254): in place, or in a shadow that takes one block; none where no block can be had. -/
def setLeaf (b : Block) (x layer page : Nat) (l : Leaf) : Option Block :=
  let e := b.entry x
  let n := e.owner
  let k := tableKey layer page
  let put (b : Block) : Block := b.modEntry x fun e => { e with leafs := mset {} e.leafs (leafKey layer page) l }
  match mget 0 e.tables k with
  | 0 => (allocBlocks b n 1).map fun r => put (r.2.modEntry x fun e => { e with tables := mset 0 e.tables k (r.1 + 1) })
  | old + 1 =>
    if needShadow b x layer page then
      let walks := latchers b x layer page
      (allocBlocks b n 1).map fun r =>
        let b := r.2.modPart n fun p => { p with shadows := p.shadows ++ [{ block := old, entry := x, key := k, walks := walks }] }
        put (b.modEntry x fun e => { e with tables := mset 0 e.tables k (r.1 + 1) })
    else some (put b)
/-- TGEN advances by one for each accepted operation that edits leaves (R253). -/
def bumpTgen (b : Block) (x : Nat) : Block := b.modEntry x fun e => { e with tgen := (e.tgen + 1) % 65536 }
/-- The next TGEN is one that a live walk has latched (R253). -/
def tgenBlocked (b : Block) (x : Nat) : Bool := let e := b.entry x; e.walks.any fun w => w.gen == (e.tgen + 1) % 65536
/-- A failed entry (R281). -/
def failEntry (b : Block) (x block layer : Nat) : Block :=
  let e := b.entry x
  if e.st = 6 then b else
  event (b.modEntry x fun e => { e with st := 6 }) e.owner 0x0503 .uncorrectable 2 chipLoc
    (detail [(16, 4, handleOf b x), (20, 4, block), (24, 2, layer)])
/-- What a read of an entry's layer up to a page meets in the table pool: the root area, then the leaf table, then the page's frame and
open page records; each with its place, and the block and layer that TABLE_UNCORRECTABLE names. -/
def tableWords (b : Block) (x layer page : Nat) : List (Nat × Nat × Nat × Nat) :=
  let e := b.entry x
  let m := b.model e.owner e.model
  let pool := (b.part e.owner).poolMpa
  let span := 4 * (1 + cdiv e.lenCap 1024)
  let t := mget 0 e.tables (tableKey layer page)
  let l := e.leaf layer page
  let f := leafFrame l page
  (pool + 256 * e.root + layer * span, span, e.root, layer) ::
    (if t = 0 then [] else [(pool + 256 * (t - 1), 256, t - 1, layer)]) ++
    (if l.st = 1 ∨ l.st = 3 then (pool + 256 * m.recBlock + 16 * f, 16, m.recBlock + f / 16, 0xFFFF) ::
      (match (b.frame e.owner e.model f).open_ with | some o => [(pool + 256 * o.block, 256, o.block, 0xFFFF)] | none => []) else [])
/-- Reads the tables of an entry's layer up to a page; single errors are corrected, and the first bad word fails the entry (R281, R514). -/
def tablesOk (b : Block) (x layer page : Nat) : Bool × Block :=
  if b.merr.isEmpty then (true, b) else
  (tableWords b x layer page).foldl (fun (a : Bool × Block) r =>
    if !a.1 then a else
    let c := memCheck a.2 (b.entry x).owner r.1 r.2.1
    if c.1 then (false, failEntry c.2 x r.2.2.1 r.2.2.2) else (true, c.2)) (true, b)

/-- Reads the tables that a command on an entry needs: the root area of every layer and `pages`. -/
def tablesRead (b : Block) (x : Nat) (pages : List (Nat × Nat)) : Bool × Block :=
  if b.merr.isEmpty then (true, b) else
  let e := b.entry x
  let all : List (Nat × Nat) := (List.range (b.model e.owner e.model).layers).map (fun i => (i, 0)) ++ pages
  all.foldl (fun (a : Bool × Block) p => if a.1 then tablesOk a.2 x p.1 p.2 else a) (true, b)
/-- The pages that an entry's leaves name. -/
def LEntry.pageKeys (e : LEntry) : List (Nat × Nat) := e.leafs.map fun x => (x.1 / 65536, x.1 % 65536)

/-! Lengths, appends and seals (R251, R260 to R263). -/
/-- The committed parts of a slot of a page that a leaf holds, in memory or out (R251). -/
def slotParts (b : Block) (e : LEntry) (layer page : Nat) (l : Leaf) (slot : Nat) : Nat :=
  let m := b.model e.owner e.model
  if l.st = 2 then match (mget {} e.opens (leafKey layer page)).open_ with | some o => mget 0 o.parts slot | none => m.parts
  else (b.frame e.owner e.model (leafFrame l page)).mask m slot
/-- LENGTH of a layer, from its present value up: committed slots of the pages below RESERVED. -/
def advanceLen (b : Block) (x layer : Nat) : Nat → Block
  | 0 => b
  | fuel + 1 =>
    let e := b.entry x
    let m := b.model e.owner e.model
    let p := e.len layer
    let l := e.leaf layer (p / 16)
    if p < e.reserved && l.st ≠ 0 && slotParts b e layer (p / 16) l (p % 16) == m.parts then
      advanceLen (b.modEntry x fun e => { e with lens := mset 0 e.lens layer (p + 1) }) x layer fuel
    else b
/-- Commits the pending seal of a page if its condition holds (R263). -/
def trySeal (b : Block) (x layer page : Nat) : Block :=
  let e := b.entry x
  let n := e.owner
  let m := b.model n e.model
  let l := e.leaf layer page
  let (c, attr) := mget (0, 0) e.pends (leafKey layer page)
  if c = 0 ∨ l.st ≠ 1 then b else
  let f := b.frame n e.model l.frame
  if c ≤ f.last then b.modEntry x fun e => { e with pends := mset (0, 0) e.pends (leafKey layer page) (0, 0) }
  else if f.lead m < c ∨ f.imported then b
  else
    let b := b.modEntry x fun e => { e with pends := mset (0, 0) e.pends (leafKey layer page) (0, 0) }
    let b := match c, f.open_ with | 16, some o => freeBlocks b n o.block | _, _ => b
    let b := b.modFrame n e.model l.frame fun y =>
      { y with last := c, isSealed := c == 16, open_ := if c = 16 then none else y.open_ }
    let b := ledCount b n (if c = 16 then 5 else 6)
    handOff b n (handleOf b x) e.dest layer page e.model l.frame c attr false none
/-- A seal request (R262): no effect at or below the last sealed count; a larger count replaces a smaller pending one.
A request for a page that is out is recorded (R265); one for an imported page has no effect (R268). -/
def requestSeal (b : Block) (x layer page c attr : Nat) : Block :=
  let e := b.entry x
  let l := e.leaf layer page
  let k := leafKey layer page
  let f := b.frame e.owner e.model l.frame
  let o := mget {} e.opens k
  let last := if l.st = 1 then (if f.imported then 16 else f.last) else if l.st = 2 then (if o.imported then 16 else o.last) else 16
  if c ≤ last ∨ e.st = 0 then b else
  let b := b.modEntry x fun e => { e with pends := mset (0, 0) e.pends k (if (mget (0, 0) e.pends k).1 < c then (c, attr) else mget (0, 0) e.pends k) }
  if e.swapMarks.contains k then b else trySeal b x layer page
/-- Commits one appended row's parts in the frame that it was resolved to (R260), its LENGTH, and the seals that wait for it. A row
whose handle has gone stale commits nothing (R247, R280). -/
def commitAppend (b : Block) (x : RowSlot) (layer parts attr : Nat) : Block :=
  let e := b.entry x.entry
  let n := e.owner
  let page := x.pos / 16
  let f := x.frame % 2 ^ 32
  if (seqCheck b n x.seq).isSome then b else
  let b := b.modFrame n e.model f fun f =>
    { f with open_ := f.open_.map fun o => { o with parts := mmod 0 o.parts (x.pos % 16) (Nat.lor · parts), attr := attr } }
  let b := advanceLen b x.entry layer 1048577
  let sharers := b.entries.filter fun y => y.2.st != 0 && y.2.owner == n && y.2.model == e.model &&
    (mget (0, 0) y.2.pends (leafKey layer page)).1 != 0 && (y.2.leaf layer page).frame == f
  b.each sharers fun b y => if y.2.swapMarks.contains (leafKey layer page) then b else trySeal b y.1 layer page

/-! Pins and walks (R223, R224, R253). -/
def pinFrames (b : Block) (n m : Nat) (l : List Nat) : Block := b.each l fun b f => b.modFrame n m f fun y => { y with pins := y.pins + 1 }
def unpinFrames (b : Block) (n m : Nat) (l : List Nat) : Block := b.each l fun b f => b.modFrame n m f fun y => { y with pins := y.pins - 1 }
/-- A walk ends: its pins, its snapshot's shadows. -/
def endWalk (b : Block) (n m : Nat) (w : Walk) : Block :=
  let b := unpinFrames b n m ((w.pages.filter fun p => p.resident).map (·.frame))
  let b := b.modEntry w.entry fun e => { e with walks := e.walks.filter fun x => x.id != w.id }
  let gone := (b.part n).shadows.filter fun s => s.walks == [w.id]
  let b := b.modPart n fun p => { p with shadows := (p.shadows.filter fun s => s.walks != [w.id]).map fun s => { s with walks := s.walks.filter (· != w.id) } }
  b.each gone fun b s => freeBlocks b n s.block

/-- A page that has come back is resident in every live walk that latched it, which pins its frame from then on (R228). -/
def walksResident (b : Block) (n m x layer page f : Nat) : Block :=
  let waits (w : Walk) : Bool := w.entry == x && w.handle == (b.entry x).gen && w.layer == layer && w.pages.any fun p => p.page == page && !p.resident
  let fix (w : Walk) : Walk := if waits w then { w with pages := w.pages.map fun p => if p.page = page ∧ !p.resident then { p with resident := true, frame := f } else p } else w
  let k := (b.cells.map fun c => match c.2.run with | some r => r.items.countP fun i => (i.walk.map waits).getD false | none => 0).sum
  let b := { b with cells := mmap {} b.cells fun c => { c with run := c.run.map fun r => { r with items := r.items.map fun i => { i with walk := i.walk.map fix } } } }
  if k = 0 then b else b.modFrame n m f fun y => { y with pins := y.pins + k }

/-! Taking and freeing entries (R258, R280). -/
/-- Takes a free entry with an empty root area; none where its blocks cannot be had. -/
def takeEntry (b : Block) (n : Nat) (e : LEntry) : Option (Nat × Block) :=
  let x := freeEntry b
  let m := b.model n e.model
  let blocks := cdiv (m.layers * 4 * (1 + cdiv e.lenCap 1024)) 256
  (allocBlocks b n blocks).map fun r =>
    (x, ledCount (r.2.setEntry x { e with gen := (b.entry x).gen, taken := true, owner := n, root := r.1, rootLen := blocks }) n 0)
/-- Drops every reference of an entry: its pages, its extents, its pending seals, its open records. -/
def dropPages (b : Block) (x : Nat) : Block :=
  let e := b.entry x
  let n := e.owner
  let b := b.each e.pages fun b p => if p.2.2.st = 1 then deref b n e.model p.2.2.frame else b
  let b := b.each e.exts fun b q => b.each (List.range (2 ^ (q.2 + 1))) fun b i => deref b n e.model (q.1 + i)
  b.each e.opens fun b o => match o.2.open_ with | some r => freeBlocks b n r.block | none => b
/-- Frees an entry (R280): tables that live walks have latched are kept as shadows until those walks end. -/
def releaseEntry (b : Block) (x : Nat) : Block :=
  let e := b.entry x
  let n := e.owner
  let b := dropPages b x
  let b := b.each e.tables fun b t =>
    let l := latchers b x (t.1 / 1024) (t.1 % 1024 * 64)
    if l.isEmpty then freeBlocks b n (t.2 - 1)
    else b.modPart n fun p => { p with shadows := p.shadows ++ [{ block := t.2 - 1, entry := x, key := t.1, walks := l }] }
  let b := freeBlocks b n e.root
  ledCount (b.setEntry x { gen := (e.gen + 1) % 65535, taken := true, owner := n }) n 1
/-- A kill releases every entry of the partition with GEN incremented and drops its pools and tables (R404). -/
def killLedger (b : Block) (n : Nat) : Block :=
  let mine := b.entries.filter fun e => e.2.st != 0 && e.2.owner == n
  let b := b.each mine fun b e => ledCount (b.setEntry e.1 { gen := (e.2.gen + 1) % 65535, taken := true, owner := n }) n 1
  b.modPart n fun p => { p with models := [], blocksUsed := [], shadows := [] }

end Sys2Proof.Machine
end

