-- ==== Sys2Proof/Machine/PowerOps.lean ====
section
/-!
DEFINITION. Machine/PowerOps.lean: shared operations of power control: points, purses, coins, the capping power (spec 15).
-/
namespace Sys2Proof.Machine

/-! Module state (spec 16). -/
/-- Module reset is released and input power is present. -/
def hubUp (b : Block) : Bool := b.clk.power && b.clk.up
/-- READY has been reached (R460). -/
def isReady (b : Block) : Bool := hubUp b && b.clk.ready
def domKey (r d : Nat) : Nat := 8 * r + d
def Block.dom (b : Block) (r d : Nat) : Dom := mget {} b.clk.doms (domKey r d)
def Block.modSec (b : Block) (f : Sec → Sec) : Block := { b with sec := f b.sec }
def Block.modClk (b : Block) (f : Clk → Clk) : Block := { b with clk := f b.clk }
def Block.modDom (b : Block) (r d : Nat) (f : Dom → Dom) : Block := b.modClk fun c => { c with doms := mmod {} c.doms (domKey r d) f }
/-- A domain whose clock has stopped, or that is held in reset. -/
def domHeld (b : Block) (r d : Nat) : Bool := let x := b.dom r d; x.stopped || x.inReset

/-! Points (R415). -/
def Block.modPow (b : Block) (f : Power → Power) : Block := { b with pow := f b.pow }
/-- ACLK of the operating points in MHz. -/
def pointMhz (k : Nat) : Nat := [2400, 2200, 2000, 1800, 1600, 1400, 1100, 800].getD k 800
/-- Fused table voltage in mV and base load power in W of a point (R415); conversion efficiency × 1,024. The fuses are
numbered 0-7, 8-15 and 16 of the module's power fuses. -/
def pointMv (k : Nat) : Nat := (Config.fuse (0x100 + k)).toNat % 4096
def pointBase (k : Nat) : Nat := (Config.fuse (0x108 + k)).toNat % 2048
def effFuse : Nat := (Config.fuse 0x110).toNat % 1024
/-- SCALE_k × 4,096, rounded to nearest (R415). -/
def pointScale (k : Nat) : Nat :=
  let num := 4096 * pointMhz k * pointMv k * pointMv k
  let den := max 1 (pointMhz 0 * pointMv 0 * pointMv 0)
  (2 * num + den) / (2 * den) % 8192
def pwrCap (b : Block) : Nat := b.reg 0xC7F80000 (4800 + 5600 * 2 ^ 13 + 95 * 2 ^ 26)
def susW (b : Block) : Nat := bits (pwrCap b) 0 13
def peakW (b : Block) : Nat := bits (pwrCap b) 13 13
def thermLimit (b : Block) : Nat := bits (pwrCap b) 26 8
def pwrCfg (b : Block) : Nat := b.reg 0xC7F80008 (512 * 8)
def coinRamp (b : Block) : Nat := max 1 (bits (pwrCfg b) 3 10)
def jobCfg (b : Block) : Nat := b.reg 0xC7F80080 (500 * 2 ^ 30 + 10 * 2 ^ 40)
def jobEn (b : Block) : Bool := bit (jobCfg b) 0
def jobMaster (b : Block) : Nat := bits (jobCfg b) 1 13
def jobNum (b : Block) : Nat := bits (jobCfg b) 14 16
def leadUs (b : Block) : Nat := bits (jobCfg b) 30 10
def silentMs (b : Block) : Nat := bits (jobCfg b) 40 8
def jobList (b : Block) : Nat := b.reg 0xC7F80088
/-- The master's member list: node numbers. -/
def members (b : Block) : List Nat :=
  if !jobEn b then [] else (List.range (bits (jobList b) 40 14)).map fun i => b.memRead (bits (jobList b) 0 40 + 2 * i) 2
def isMaster (b : Block) : Bool := !jobEn b || jobMaster b == nodeId b
def powCount (b : Block) (i : Nat) (k : Nat := 1) : Block := b.count (0xC7F80800 + 8 * i) k
/-- K as PWR_CAL shows it. -/
def Power.kCal (p : Power) : Nat := p.k / 65536

/-! Purses (R418 to R422). -/
def Block.purse (b : Block) (r : Nat) : Purse := mget {} b.pow.purses r
def Block.modPurse (b : Block) (r : Nat) (f : Purse → Purse) : Block := b.modPow fun p => { p with purses := mmod {} p.purses r f }
def purseBase (r : Nat) : Nat := regionBase r + 0x10000
def purseCeil (b : Block) (r : Nat) : Nat := bits (b.reg (purseBase r + 8) 4095) 0 13
def Purse.heldCoins (p : Purse) : Nat := p.held.foldl (fun a x => a + x.2) 0
/-- A command of a cell asks for coins; it waits in order of arrival. -/
def coinRequest (b : Block) (cell coins : Nat) : Block := b.modPurse (cell / 40) fun p => { p with waiters := p.waiters ++ [(cell, coins, b.now)] }
/-- Whether the oldest waiter of a region's purse can be granted now (R418, R421). -/
def coinReady (b : Block) (r : Nat) : Bool :=
  let p := b.purse r
  match p.waiters with
  | [] => false
  | (_, k, _) :: _ =>
    let recent := (p.grants.filter fun g => decide (b.now < g.1 + 1000)).foldl (fun a g => a + g.2) 0
    decide (p.heldCoins + k ≤ p.cap) && (decide (recent + k ≤ coinRamp b) || recent == 0)
/-- Grants the oldest waiter. -/
def coinGrant (b : Block) (r : Nat) : Block :=
  match (b.purse r).waiters with
  | [] => b
  | (cell, k, at_) :: rest =>
    let b := b.modPurse r fun p => { p with waiters := rest, held := p.held ++ [(cell, k)],
                                            grants := p.grants.filter (fun g => decide (b.now < g.1 + 1000)) ++ [(b.now, k)] }
    let a := purseBase r
    ((b.count (a + 0x800)).count (a + 0x808) k).count (a + 0x810) (b.now - at_)
/-- A command gives its coins back, or leaves the queue (R421, R422). -/
def coinReturn (b : Block) (cell : Nat) : Block :=
  (coinWaited b cell).modPurse (cell / 40) fun p => { p with held := p.held.filter (·.1 != cell), waiters := p.waiters.filter (·.1 != cell) }
/-- Whether a command of the cell holds coins. -/
def hasCoins (b : Block) (cell : Nat) : Bool := (b.purse (cell / 40)).held.any (·.1 == cell)

/-! Capping power (R429 to R431). -/
def capPower (p : Power) : Nat := if p.lost then p.est * 13 / 10 else if p.diverged then max p.est p.telem else p.est
def avgOf (l : List Nat) : Nat := if l.isEmpty then 0 else l.foldl (· + ·) 0 / l.length
/-- Average of the capping power over 2 ms (R424) and over 1 s (R425). -/
def Power.avg2 (p : Power) : Nat := avgOf p.h2
def Power.avg1s (p : Power) : Nat := avgOf p.h1s
/-- A periodic tick of the hub: `period` ns since the last one with the same key. -/
def tickDue (b : Block) (key period : Nat) : Bool := hubUp b && decide (mget 0 b.pow.ticks key + period ≤ b.now)
def tickMark (b : Block) (key : Nat) : Block := b.modPow fun p => { p with ticks := mset 0 p.ticks key b.now }

/-! Requests and reasons (R433, R436, R439). -/
def preference (b : Block) : Nat :=
  let hints := b.hub.cmds.filterMap fun c => if bit (c.desc.u 2 1) 3 && c.st != .aside then some (c.desc.u 2 1 % 8) else none
  match hints with
  | [] => bits (pwrCfg b) 0 3
  | h :: t => t.foldl Nat.min h
/-- The alert or the thermal emergency is in force (R436). -/
def Power.forced (p : Power) : Bool := p.alert.isSome || p.thEmer
/-- P7 is forced by the alert and by the thermal emergency (R436), and by either until the first COMMIT whose AT follows its end (R28,
R439). -/
def emergency (b : Block) : Bool := b.pow.forced || b.pow.alertEmer || b.pow.heatEmer
/-- The member's own request: the slowest of its preference, sustained point and thermal point; the alert, the
thermal emergency and 10 ms after either keep it at P7 (R433, R436, R440). -/
def ownRequest (b : Block) : Nat :=
  let p := b.pow
  if p.alert.isSome || p.thEmer || p.alertHold || p.thEmerEnd.isSome then 7 else max (preference b) (max p.susPoint p.thPoint)
/-- The throttle reasons of PWR_STATUS.REASON, bits as in the counter table; the alert is a reason while it keeps the module below the
committed point. -/
def reasons (b : Block) : Nat :=
  let p := b.pow
  b2n (p.susPoint ≠ 0) + 2 * b2n p.guard + 4 * b2n (p.thPoint ≠ 0 || p.thEmer || (p.heatEmer && decide (p.committed < p.point))) +
  8 * b2n ((p.alert.isSome || p.alertEmer) && decide (p.committed < p.point)) +
  16 * b2n (decide (ownRequest b < p.committed)) +
  32 * b2n ((decide (susW b < 4800) && p.susPoint ≠ 0) || (decide (peakW b < 5600) && p.guard) || (decide (thermLimit b < 95) && (p.thPoint ≠ 0 || p.thEmer))) +
  64 * b2n p.lost + 128 * b2n p.diverged + 256 * b2n (p.memThr ≠ 0)
/-- The ENERGY_UJ counters that activity can be charged to: the queue of a partition's run, or queue 0 without one, and those of its
commands in progress (R410). -/
def energyQueues (b : Block) : List Nat :=
  ((List.range 16).filter fun n => (b.part n).st != .free).flatMap fun n =>
    ((match (b.part n).running with | some r => r.attr % 8 | none => 0) ::
      (b.hub.cmds.filter fun c => c.part == n && c.st == .running).map Cmd.attr).map fun q => 0xC7F71000 + 0x100 * n + 0x20 * q
/-- Charges energy (R410): how it divides among the queues rests on the units' activity and is free; what no queue takes is the
platform's, so that the counters sum to the estimate. -/
def chargeEnergy (b : Block) (e : Nat) : Block :=
  if e = 0 then b else
  let r := (energyQueues b).foldl (fun (s : Block × Nat) a =>
    let x := s.1.draw
    (x.2.count a (x.1 % (s.2 + 1)), s.2 - x.1 % (s.2 + 1))) (b, e)
  r.1.count 0xC7F70280 r.2
/-- Accounts the time spent under each reason and posts THROTTLE_CHANGE at most once per 10 ms (R443). -/
def throttleAccount (b : Block) : Block :=
  let p := b.pow
  let us := (b.now - p.energyAt) / 1000
  let b := b.each (List.range 9) fun b i => if bit p.reason i then powCount b i us else b
  let e := p.est * us
  let b := (chargeEnergy (b.count 0xC7F80200 e) e).modPow fun p => { p with energyAt := p.energyAt + 1000 * us, reason := reasons b }
  let r := b.pow.reason
  let due : Bool := match b.pow.reasonPostAt with | none => true | some t => decide (t + 10000000 ≤ b.now)
  if r ≠ b.pow.reasonPosted && due then
    let b' := eventPlat b 0 0x0A02 .done 0 chipLoc
      (detail [(16, 2, r), (18, 2, b.pow.reasonPosted), (20, 4, (b.now - b.pow.reasonAt) / 1000000)])
    b'.modPow fun p => { p with reasonPosted := r, reasonPostAt := some b.now, reasonAt := b.now }
  else b
/-- The rails' table voltage in mV at this moment: a ramp rises at 2 mV/µs to that of the pending COMMIT's point (R435). -/
def railMv (b : Block) : Nat :=
  let v := b.pow.volt.getD (pointMv 7)
  match b.pow.rampFrom, b.pow.commit with
  | some (t, v0), some c => min (pointMv c.point) (v0 + (b.now - t) / 500)
  | _, _ => v
/-- Holds the rails where they are; without an emergency a ramp towards the pending COMMIT's point begins (R435). -/
def rampSet (b : Block) : Block :=
  let v := railMv b
  b.modPow fun p => { p with volt := some v, rampFrom := match p.commit with
    | some c => if !p.forced && decide (v < pointMv c.point) then some (b.now, v) else none
    | none => none }
/-- Sets the effective point: the slowest of the committed point, a LOST member's own and P7 in an emergency (R436, R437). A LOST member
stays LOST until a COMMIT. -/
def applyPoint (b : Block) (cause : Nat) : Block :=
  let p := b.pow
  let new := if emergency b then 7 else max p.committed p.slowPoint
  let newLock := if jobEn b && p.lock == 3 then 3 else if new ≠ p.committed then 2 else if jobEn b then 1 else 0
  let lockEv (b : Block) : Block := if newLock = p.lock then b else
    eventPlat b 0 0x0A08 .done 0 chipLoc (detail [(16, 1, newLock), (17, 1, p.lock), (18, 2, jobMaster b), (20, 4, p.serial)])
  if new = p.point then throttleAccount (lockEv (b.modPow fun p => { p with lock := newLock }))
  else
    let b := powCount (b.modPow fun p => { p with point := new, lock := newLock }) 9
    let b := eventPlat b 0 0x0A01 .done 0 chipLoc
      (detail [(16, 1, p.point), (17, 1, new), (18, 1, newLock), (19, 1, cause), (20, 4, p.serial), (24, 8, b.mtime)])
    throttleAccount (lockEv b)

end Sys2Proof.Machine
end

