-- ==== Sys2Proof/Machine/SecOps.lean ====
section
/-!
DEFINITION. Machine/SecOps.lean: the root of trust: SHA3-384, fuses, flash slots, measurements, attestation, directives
and firmware staging (spec 18).
-/
namespace Sys2Proof.Machine

/-! SHA3-384 (FIPS 202). The permutation's state is one number of 1,600 bits: five planes of 320 bits, each of five lanes. -/
/-- Sum of the five planes' numbers that `f` gives. -/
def planes (f : Nat → Nat) : Nat := (List.range 5).foldl (fun s y => s + f y * 2 ^ (320 * y)) 0
/-- A number of `w` bits turned left by `k`. -/
def turned (w k v : Nat) : Nat := v * 2 ^ k % 2 ^ w + v / 2 ^ (w - k)
/-- Each lane of a plane turned left by one bit. -/
def lanesTurned (p : Nat) : Nat := (List.range 5).foldl (fun s x => s + turned 64 1 (bits p (64 * x) 64) * 2 ^ (64 * x)) 0
/-- Theta: every plane takes the parity of the column before it and of the column after it, that one turned. -/
def shaTheta (a : Nat) : Nat :=
  let c := (List.range 5).foldl (fun s y => Nat.xor s (bits a (320 * y) 320)) 0
  let d := Nat.xor (turned 320 64 c) (lanesTurned (turned 320 256 c))
  Nat.xor a (planes fun _ => d)
/-- Rho and pi in one walk: lane (x, y) moves to (y, 2x + 3y), and the lane met at step `t` turns by the `t + 1`-th triangular number. -/
def shaWalk (a : Nat) : Nat :=
  ((List.range 24).foldl (fun (s : Nat × Nat) t =>
    let to_ := s.1 / 5 + (2 * (s.1 % 5) + 3 * (s.1 / 5)) % 5 * 5
    (to_, s.2 + turned 64 ((t + 1) * (t + 2) / 2 % 64) (bits a (64 * s.1) 64) * 2 ^ (64 * to_))) (1, bits a 0 64)).2
/-- Chi, plane by plane. -/
def shaChi (a : Nat) : Nat := planes fun y =>
  let p := bits a (320 * y) 320
  Nat.xor p (Nat.land (2 ^ 320 - 1 - turned 320 256 p) (turned 320 192 p))
/-- The shift register of iota's constants, `x ^ 8 + x ^ 6 + x ^ 5 + x ^ 4 + 1`. -/
def shaReg (r : Nat) : Nat := if r < 128 then 2 * r else Nat.xor (2 * r) 0x171
/-- One round: the new state, and the register seven steps on. -/
def shaRound (s : Nat × Nat) : Nat × Nat :=
  let (c, r) := (List.range 7).foldl (fun (q : Nat × Nat) j => (q.1 + q.2 % 2 * 2 ^ (2 ^ j - 1), shaReg q.2)) (0, s.2)
  (Nat.xor (shaChi (shaWalk (shaTheta s.1))) c, r)
def shaRounds : Nat → Nat × Nat → Nat × Nat
  | 0, s => s
  | n + 1, s => shaRounds n (shaRound s)
/-- Takes in `n` blocks of 832 bits. -/
def shaBlocks : Nat → Nat → Nat → Nat
  | 0, _, a => a
  | n + 1, v, a => shaBlocks n (v / 2 ^ 832) (shaRounds 24 (Nat.xor a (v % 2 ^ 832), 1)).1
/-- SHA3-384 of `len` bytes given as a little-endian number, first byte lowest. -/
def sha3 (len v : Nat) : BitVec 384 :=
  let n := len / 104 + 1
  BitVec.ofNat 384 (shaBlocks n (v % 2 ^ (8 * len) + 6 * 2 ^ (8 * len) + 2 ^ (832 * n - 1)) 0)
/-- Extends a measurement: SHA3-384(M ‖ d) (R493). -/
def measExtend (m d : BitVec 384) : BitVec 384 := sha3 96 (m.toNat + d.toNat * 2 ^ 384)
/-- A string's bytes, first character lowest. -/
def asciiNat (s : String) : Nat := s.toList.foldr (fun c a => c.toNat + 256 * a) 0

/-! Fuses (R487, R488). -/
/-- Consecutive blown bits from bit 0 of a fuse word as programmed at test. -/
def fusedCount (w n : Nat) : Nat := ((List.range n).takeWhile fun i => bit (Config.fuse w).toNat i).length
def keySvn (b : Block) : Nat := max (fusedCount 0x201 16) b.kept.keySvn
def fwSvn (b : Block) : Nat := max (fusedCount 0x202 64) b.kept.fwSvn
def debugSessions (b : Block) : Nat := max (fusedCount 0x203 32) b.kept.sessions
def debugDisable : Bool := bit (Config.fuse 0x204).toNat 0
/-- Bits of fuse word 0x205 as programmed at test: OWNER[1] programmed, revoked, OWNER[2] programmed, revoked. -/
def ownerFuse (i : Nat) : Bool := bit (Config.fuse 0x205).toNat i
def owner1 (b : Block) : Option (BitVec 384) := if ownerFuse 0 then some (Config.digest 3) else b.kept.owner1
def owner2 (b : Block) : Option (BitVec 384) := if ownerFuse 2 then some (Config.digest 4) else b.kept.owner2
/-- The owner slot in force: the highest programmed slot without its revoke bit; 0 none. -/
def ownerSlot (b : Block) : Nat :=
  if (owner2 b).isSome && !ownerFuse 3 then 2 else if (owner1 b).isSome && !ownerFuse 1 && !b.kept.owner1Rev then 1 else 0

def Block.modKept (b : Block) (f : SecKept → SecKept) : Block := { b with kept := f b.kept }

/-! Flash slots (R490, R491). -/
def slotImage (b : Block) (s : Nat) : Nat := match mget none b.kept.slots s with | some v => v | none => Config.slot s
def prefSlot (b : Block) : Nat := b2n (b.kept.pref.getD Config.prefSlot)
def ctxKeys : String := "EZ2580-KEYS"
def ctxImage : String := "EZ2580-IMAGE"
def ctxDirective : String := "EZ2580-DIRECTIVE"
def ctxAttest : String := "EZ2580-ATTEST"
/-- Both signatures verify over the same bytes (R489). -/
def bothVerify (ctx : String) (ed ml len msg sigEd sigMl : Nat) : Bool :=
  let c := asciiNat ctx
  let n := ctx.length
  Config.verifyEd ed (n + len) (c + msg * 2 ^ (8 * n)) sigEd && Config.verifyMl ml c len msg sigMl
/-- Checks 1 to 8 of R491 on a slot image: the first that fails, with its status. The two flags say that the flash cannot
be read at the manifest and at the header. -/
def imageCheck (b : Block) (img : Nat) (manBad hdrBad : Bool) : Option (Nat × Status) :=
  let u (k n : Nat) : Nat := bits img (8 * k) (8 * n)
  let hd (k n : Nat) : Nat := u (8192 + k) n
  let len := hd 4 4
  let manOk := u 0 2 == 1 && decide (u 2 2 ≤ 16) && u 4 60 == 0 && u 7405 787 == 0
  let hdrOk := hd 0 2 == 1 && decide (hd 2 1 ≤ 64) && hd 3 1 == 0 && decide (64 ≤ len) && decide (len ≤ 16764928) && len % 64 == 0 &&
    hd 10 6 == 0 && hd 3437 659 == 0
  if manBad then some (1, .uncorrectable)
  else if !manOk then some (1, .descInvalid)
  else if sha3 32 (u 64 32) ≠ Config.digest 1 ∨ sha3 1952 (u 96 1952) ≠ Config.digest 2 then some (2, .protection)
  else if u 2 2 < keySvn b then some (3, .protection)
  else if !bothVerify ctxKeys (u 64 32) (u 96 1952) 4032 (u 0 4032) (u 4032 64) (u 4096 3309) then some (4, .protection)
  else if hdrBad then some (5, .uncorrectable)
  else if !hdrOk then some (5, .descInvalid)
  else if hd 2 1 < fwSvn b then some (6, .protection)
  else if !bothVerify ctxImage (u 2048 32) (u 2080 1952) 64 (hd 0 64) (hd 64 64) (hd 128 3309) then some (7, .protection)
  else if sha3 len (u 12288 len) ≠ BitVec.ofNat 384 (hd 16 48) then some (8, .protection)
  else none
def imageSvn (img : Nat) : Nat := bits img (8 * 8194) 8
def imageKeySvn (img : Nat) : Nat := bits img 16 16

/-! Identity (R496 to R498). -/
def Block.meas (b : Block) (i : Nat) : BitVec 384 := mget 0 b.sec.meas i
def extendMeas (b : Block) (i : Nat) (d : BitVec 384) : Block := b.modSec fun s => { s with meas := mmod 0 s.meas i (measExtend · d) }
def devSeed : BitVec 384 := sha3 53 (Config.uds.toNat + asciiNat "DEVID" * 2 ^ 384)
def edPriv (seed : BitVec 384) : Nat := (sha3 50 (seed.toNat + asciiNat "ED" * 2 ^ 384)).toNat % 2 ^ 256
def mlXi (seed : BitVec 384) : Nat := (sha3 50 (seed.toNat + asciiNat "ML" * 2 ^ 384)).toNat % 2 ^ 256
def deviceId : Nat := (sha3 32 (Config.pubEd (edPriv devSeed))).toNat % 2 ^ 64
def aliasSeed (b : Block) : BitVec 384 :=
  sha3 192 (Config.uds.toNat + (b.meas 1).toNat * 2 ^ 384 + (b.meas 2).toNat * 2 ^ 768 + (b.meas 3).toNat * 2 ^ 1152)
/-- MODULE_ID (R2). -/
def moduleId : Nat := 0x2580 + Config.memGib * 2 ^ 16 + Config.hwMinor.toNat * 2 ^ 24 + Config.hwMajor.toNat * 2 ^ 28
/-- A random number of the given bits. -/
def drawRandom (b : Block) (n : Nat) : Nat × Block := (Config.random b.kept.draws % 2 ^ n, b.modKept fun k => { k with draws := k.draws + 1 })
def newNonce (b : Block) : Block := let (x, b) := drawRandom b 256; b.modSec fun s => { s with nonce := BitVec.ofNat 256 x }

/-! Directives (R501 to R504). -/
/-- The digest of the signer's two public keys. -/
def signerDigest (d : Nat) : BitVec 384 := sha3 1984 (bits d (8 * 128) (8 * 1984))
def directiveSigned (d : Nat) : Bool :=
  bothVerify ctxDirective (bits d (8 * 128) 256) (bits d (8 * 160) (8 * 1952)) 2112 (bits d 0 (8 * 2112)) (bits d (8 * 2112) 512) (bits d (8 * 2176) (8 * 3309))
/-- Check 1 of R501. -/
def directiveForm (d : Nat) : Bool :=
  let u (k n : Nat) : Nat := bits d (8 * k) (8 * n)
  u 0 2 == 1 && decide (1 ≤ u 2 1) && decide (u 2 1 ≤ 3) && u 3 1 == 0 && u 4 4 == 5488 && u 51 13 == 0 && u 112 16 == 0 && u 5485 3 == 0
/-- Check 3: the keys are those of the slot in force, or NEW_OWNER's for a first OWNER_SET. -/
def directiveOwner (b : Block) (d : Nat) : Bool :=
  let g := signerDigest d
  match ownerSlot b with
  | 2 => owner2 b == some g
  | 1 => owner1 b == some g
  | _ => (owner1 b).isNone && (owner2 b).isNone && bits d 16 8 == 3 && g == BitVec.ofNat 384 (bits d (8 * 64) 384)
/-- Check 5 (R502 to R504); `i3c` says that the directive arrived over I3C. -/
def directiveRule (b : Block) (d : Nat) (i3c : Bool) : Option Status :=
  let u (k n : Nat) : Nat := bits d (8 * k) (8 * n)
  match u 2 1 with
  | 1 => if b.sec.imageSvn < u 48 1 ∨ b.sec.manSvn < u 49 1 then some .protection else none
  | 2 => if debugDisable then some .protection else if 32 ≤ debugSessions b then some .quota
         else if u 50 1 ≠ debugSessions b + 1 then some .protection else none
  | _ => if ownerSlot b = 2 then some .quota
         else if ownerSlot b = 1 then none else if i3c && (owner1 b).isNone && (owner2 b).isNone then none else some .protection
/-- What an accepted directive does. -/
def directiveApply (b : Block) (d : Nat) : Block :=
  let u (k n : Nat) : Nat := bits d (8 * k) (8 * n)
  let owner := BitVec.ofNat 384 (u 64 48)
  match u 2 1 with
  | 1 => b.modKept fun k => { k with fwSvn := max k.fwSvn (u 48 1), keySvn := max k.keySvn (u 49 1) }
  | 2 => b.modKept fun k => { k with debugRec := some d }
  | _ => if ownerSlot b = 1 then b.modKept fun k => { k with owner2 := some owner, owner1Rev := true }
         else b.modKept fun k => { k with owner1 := some owner }
/-- SUBMIT (R501). -/
def submitDirective (b : Block) (i3c : Bool) : Block :=
  let d := b.sec.dirWin.read 0 5488
  let (chk, st) : Nat × Status :=
    if !directiveForm d then (1, .descInvalid)
    else if bits d 64 64 ≠ deviceId ∨ bits d 128 256 ≠ b.sec.nonce.toNat then (2, .protection)
    else if !directiveOwner b d then (3, .protection)
    else if !directiveSigned d then (4, .protection)
    else match directiveRule b d i3c with | some st => (5, st) | none => (0, .done)
  let b := if chk = 0 then newNonce (extendMeas (directiveApply b d) 4 (sha3 5488 d)) else b
  let b := b.modSec fun s => { s with dirStatus := st.code, dirCheck := chk }
  eventPlat b 0 0x0D02 st 0 chipLoc (detail [(16, 1, bits d 16 8), (17, 1, chk)])
/-- The debug record passes again at boot (R504). -/
def debugRecordOk (b : Block) : Option Nat :=
  match b.kept.debugRec with
  | none => none
  | some d => if directiveForm d && bits d 16 8 == 2 && directiveOwner b d && directiveSigned d && (directiveRule b d false).isNone then some d else none

/-! Boot step 2 (R491 to R498). -/
/-- The slot to boot: its number, and the first slot's failure; or the second slot's failing status. -/
def chooseSlot (b : Block) (bad : Nat) : Except Status (Nat × Option (Nat × Status × Nat)) :=
  let p := prefSlot b
  let chk (s : Nat) : Option (Nat × Status) := imageCheck b (slotImage b s) (bit bad (2 * s)) (bit bad (2 * s + 1))
  match chk p with
  | none => .ok (p, none)
  | some (k, st) =>
    match chk (1 - p) with
    | none => .ok (1 - p, some (k, st, if 6 ≤ k ∨ (k = 5 ∧ st ≠ .uncorrectable) then imageSvn (slotImage b p) else 0xFF))
    | some (_, st2) => .error st2
/-- Verifies the firmware image, blows a session fuse for an accepted debug record, and sets measurements and identity. -/
def secureBoot (b : Block) (bad : Nat) : Except Status Block :=
  match chooseSlot b bad with
  | .error st => .error st
  | .ok (s, fb) =>
    let dbg := (debugRecordOk b).isSome
    let b := if dbg then b.modKept fun k => { k with sessions := debugSessions b + 1 } else b
    let img := slotImage b s
    let u (k n : Nat) : Nat := bits img (8 * k) (8 * n)
    let (fst, fch, fsv) : Nat × Nat × Nat := match fb with | some (k, st, v) => (st.code, k, v) | none => (0, 0, 0xFF)
    let b := b.modSec fun x => { x with slot := s, fallback := fb.isSome, fbStatus := fst, fbCheck := fch, fbSvn := fsv,
                                        debugActive := dbg, imageSvn := imageSvn img, manSvn := imageKeySvn img, rate := u 8200 2 }
    let stateRec := s + b2n fb.isSome * 2 ^ 8 + keySvn b * 2 ^ 16 + fwSvn b * 2 ^ 24 + ownerSlot b * 2 ^ 32 + b2n dbg * 2 ^ 40 + b2n debugDisable * 2 ^ 48
    let b := extendMeas (extendMeas (extendMeas (extendMeas b 0 (Config.digest 0)) 1 (sha3 4032 (u 0 4032))) 2 (sha3 64 (u 8192 64))) 3 (sha3 8 stateRec)
    .ok (newNonce b)
/-- What firmware posts and erases when a boot reaches READY (R492, R504). -/
def secureReady (b : Block) : Block :=
  let x := b.sec
  let b := if x.fallback then
      eventPlat b 0 0x0D01 (Status.ofCode x.fbStatus) 0 chipLoc (detail [(16, 1, x.slot), (17, 1, x.fbCheck), (18, 1, x.fbSvn)]) else b
  if x.debugActive then
    eventPlat (b.modKept fun k => { k with debugRec := none }) 0 0x0D05 .done 0 chipLoc
      (detail [(16, 1, debugSessions b), (17, 1, 32 - debugSessions b)])
  else b

/-! Partition measurements and attestation (R495, R499, R500). -/
def Block.attest (b : Block) (n : Nat) : Attest := mget {} b.sec.attest n
def Block.modAttest (b : Block) (n : Nat) (f : Attest → Attest) : Block := b.modSec fun s => { s with attest := mmod {} s.attest n f }
def partExtend (b : Block) (n : Nat) (d : BitVec 384) : Block :=
  (b.modSec fun s => { s with partMeas := mmod 0 s.partMeas n (measExtend · d) }).modAttest n fun a => { a with extends_ := (a.extends_ + 1) % 2 ^ 32 }
/-- ASSIGN sets the measurement and its count to zero (R495). -/
def partMeasClear (b : Block) (n : Nat) : Block :=
  (b.modSec fun s => { s with partMeas := mset 0 s.partMeas n 0 }).modAttest n fun a => { a with extends_ := 0 }
def measInAddr (n : Nat) : Nat := 0xC7FB0800 + 0x40 * n
def nonceAddr (n : Nat) : Nat := 0xC7FB0C00 + 0x40 * n
def attestDest (b : Block) (n : Nat) : Nat := b.reg (0xC7FB1000 + 8 * n)
/-- Six registers of 8 bytes. -/
def regs48 (b : Block) (a : Nat) : Nat := (List.range 6).foldr (fun w x => b.reg (a + 8 * w) + 2 ^ 64 * x) 0
/-- The report (R499). -/
def attestReport (b : Block) (n : Nat) : Nat :=
  let st := (b.part n).st
  let meas := (List.range 5).foldr (fun i x => (b.meas i).toNat + 2 ^ 384 * x) 0
  let part := if st = .free then 0 else (mget 0 b.sec.partMeas n).toNat
  let head := 1 + n * 2 ^ 24 + (b2n b.sec.debugActive + 2 * b2n b.sec.fallback + 4 * b2n (st == .active)) * 2 ^ 32 +
    fwSvn b * 2 ^ 40 + keySvn b * 2 ^ 48 + b.sec.imageSvn * 2 ^ 56 + b.mtime * 2 ^ 64 + moduleId * 2 ^ 128 + deviceId * 2 ^ 192 +
    3776 * 2 ^ 256 + (b.attest n).extends_ * 2 ^ 288 + bits (b.reg 0xC7F60000) 0 13 * 2 ^ 320 + regs48 b (nonceAddr n) * 2 ^ 512 +
    meas * 2 ^ 896 + part * 2 ^ 2816
  let c := asciiNat ctxAttest
  let k := ctxAttest.length
  let seed := aliasSeed b
  head + (Config.signEd (edPriv seed) (k + 400) (c + head * 2 ^ (8 * k)) % 2 ^ 512) * 2 ^ 3200 +
    (Config.signMl (mlXi seed) c 400 head % 2 ^ 26472) * 2 ^ 3712
/-- The four certificates, each after its length, padded to 64 bytes (R500). -/
def certBlob (b : Block) : Nat × Nat :=
  let seed := aliasSeed b
  let meas := (List.range 4).foldr (fun i x => (b.meas i).toNat + 2 ^ 384 * x) 0
  let certs := [Config.deviceCert 0, Config.deviceCert 1, Config.aliasCert 0 (Config.pubEd (edPriv seed)) meas, Config.aliasCert 1 (Config.pubMl (mlXi seed)) meas]
  let (len, v) := certs.foldl (fun (a : Nat × Nat) c => (a.1 + 4 + c.1, a.2 + (c.1 % 2 ^ 32 + (c.2 % 2 ^ (8 * c.1)) * 2 ^ 32) * 2 ^ (8 * a.1))) (0, 0)
  ((len + 63) / 64 * 64, v)
/-- Ends an attestation request: status, event. -/
def attestEnd (b : Block) (n : Nat) (st : Status) : Block :=
  let a := b.attest n
  event (b.modAttest n fun a => { a with busy := false, status := st.code }) n 0x0D03 st 0 chipLoc
    (detail [(16, 1, a.kind), (18, 4, if st = .done then a.total else a.total - a.left)])
/-- Queues DMA writes of at most 512 bytes. -/
def dmaWrites (n func addr : Nat) (use : Nat → DmaUse) (bulk : Bool) : Nat → Nat → Nat → Block → Block
  | 0, _, _, b => b
  | fuel + 1, len, v, b =>
    if len = 0 then b else
    let l := min len 512
    let b := dmaPush b { part := n, write := true, func := func, addr := addr, len := l, data := v % 2 ^ (8 * l), use := use l, bulk := bulk }
    dmaWrites n func (addr + l) use bulk fuel (len - l) (v / 2 ^ (8 * l)) b
/-- A write of ATTEST_CTRL[n]: EXTEND first, then REPORT or CERTS (R499, R500). -/
def attestCtrl (b : Block) (n v : Nat) : Block :=
  if (b.attest n).busy then b
  else if bit v 0 && bit v 1 then b.modAttest n fun a => { a with status := Status.descInvalid.code }
  else
    let b := if bit v 2 then (partExtend b n (BitVec.ofNat 384 (regs48 b (measInAddr n)))).modAttest n (fun a => { a with status := 0 }) else b
    if !bit v 0 && !bit v 1 then b else
    let (len, data) := if bit v 0 then (3776, attestReport b n) else certBlob b
    let dst := attestDest b n
    let b := b.modAttest n fun a => { a with busy := true, kind := b2n (bit v 1), left := len, total := len, bad := none }
    if !inAperture b n dst len then attestEnd (b.modAttest n fun a => { a with total := 0, left := 0 }) n .protection
    else if dst % 64 ≠ 0 then attestEnd (b.modAttest n fun a => { a with total := 0, left := 0 }) n .alignment
    else if !kwUp b then attestEnd (b.modAttest n fun a => { a with total := 0, left := 0 }) n .linkDown
    else dmaWrites n (b.part n).mgrFunc dst (fun l => .sec n l) true (len / 512 + 1) len data b

/-! Firmware staging (R506). -/
def stageAddr (b : Block) : Nat := b.reg 0xC7FB4100
def stageCtrl (b : Block) : Nat := b.reg 0xC7FB4108
/-- Ends a staging. -/
def stageEnd (b : Block) (slot chk fw key : Nat) (st : Status) : Block :=
  let got := b.sec.stage.got
  eventPlat (b.modSec fun s => { s with stage := { status := st.code } }) 0 0x0D04 st 0 chipLoc
    (detail [(16, 1, slot), (17, 1, chk), (18, 1, fw), (19, 1, key), (20, 4, got)])
/-- Checks the image that was read, and writes it to the slot that is not running. -/
def stageCheck (b : Block) : Block :=
  let img := b.sec.stage.img
  let fw := imageSvn img
  let key := imageKeySvn img
  match imageCheck b img false false with
  | some (k, st) => stageEnd b 0xFF k fw key st
  | none =>
    let s := 1 - b.sec.slot
    stageEnd (b.modKept fun k => { k with slots := mset none k.slots s (some img), pref := some (s == 1) }) s 0 fw key .done
/-- The reads of an image of `len` bytes; a DMA_RD asks for a multiple of 64. -/
def stageReads (func : Nat) : Nat → Nat → Nat → Nat → Block → Block
  | 0, _, _, _, b => b
  | fuel + 1, addr, pos, len, b =>
    if len = 0 then b else
    let l := min len 4096
    let b := dmaPush b { part := 16, write := false, func := func, addr := addr, len := (l + 63) / 64 * 64, data := 0, use := .sec 16 pos, bulk := true }
    stageReads func fuel (addr + l) (pos + l) (len - l) b
/-- GO. -/
def stageGo (b : Block) : Block :=
  let len := bits (stageCtrl b) 0 25
  if b.sec.stage.busy then b else
  let b := b.modSec fun s => { s with stage := { busy := true, left := len } }
  if stageAddr b % 64 ≠ 0 then stageEnd b 0xFF 0 0 0 .alignment
  else if len < 16384 ∨ 16777216 < len then stageEnd b 0xFF 0 0 0 .descInvalid
  else if !kwUp b then stageEnd b 0xFF 0 0 0 .linkDown
  else stageReads (bits (stageCtrl b) 25 4) (len / 4096 + 1) (stageAddr b) 0 len b
/-- A DMA transfer of attestation (`what` below 16: partition) or of staging ends: `pos` is its bytes, or its place. -/
def secDma (b : Block) (what pos len data : Nat) (st : Status) : Block :=
  if what < 16 then
    let b := b.modAttest what fun a => { a with left := a.left - pos, bad := if st = .done then a.bad else some (a.bad.getD st) }
    let a := b.attest what
    if !a.busy then b
    else if st ≠ .done then
      attestEnd ((b.modAttest what fun a => { a with left := a.left + pos }).modHub fun h => { h with dmaq := h.dmaq.filter fun w => match w.use with | .sec k _ => k != what | _ => true }) what st
    else if a.left = 0 then attestEnd b what (a.bad.getD .done) else b
  else
    if !b.sec.stage.busy then b
    else if st ≠ .done then
      stageEnd (b.modHub fun h => { h with dmaq := h.dmaq.filter fun w => match w.use with | .sec k _ => k != what | _ => true }) 0xFF 0 0 0 st
    else
      let n := min len (b.sec.stage.left + b.sec.stage.got - pos)
      let b := b.modSec fun s => { s with stage := { s.stage with left := s.stage.left - n, got := s.stage.got + n,
                                                                  img := s.stage.img + data % 2 ^ (8 * n) * 2 ^ (8 * pos) } }
      if b.sec.stage.left = 0 then stageCheck b else b
/-- KILL of partition n: a report of which nothing has been written ends with ABORTED (R500). -/
def attestKill (b : Block) (n : Nat) : Block :=
  let a := b.attest n
  let mine (w : DmaWait) : Bool := match w.use with | .sec k _ => k == n | _ => false
  let queued := (b.hub.dmaq.filter mine).foldl (fun s w => s + w.len) 0
  if a.busy && queued == a.total then attestEnd (b.modHub fun h => { h with dmaq := h.dmaq.filter fun w => !mine w }) n .aborted else b

/-- SEC_STATUS. -/
def secStatus (b : Block) : Nat :=
  let s := b.sec
  s.slot + 2 * b2n s.fallback + 4 * fwSvn b + 512 * keySvn b + 2 ^ 14 * s.imageSvn + 2 ^ 21 * ownerSlot b + 2 ^ 23 * b2n s.debugActive +
  2 ^ 24 * b2n debugDisable + 2 ^ 25 * debugSessions b

end Sys2Proof.Machine
end

