-- ==== Sys2Proof/Machine/State.lean ====
section
/-!
DEFINITION. Machine/State.lean: the machine's state, the reasons a step can stop, and the state after power-on.
-/
namespace Sys2Proof.Machine

/-- The whole state: what the module holds, and the commands that wait, first in, first out. -/
structure State where
  blk : Block := {}
  pending : List Instr := []
  deriving DecidableEq, Repr

/-- Reasons the machine stops. The spec gives every command of its table an effect, so no command raises one; the type
is kept closed and inhabited for the host's interface. -/
inductive Fault where
  /-- Raised by no command (safe: nothing stops). -/
  | unreachable
  deriving DecidableEq, Repr

/-- Reasons a command is refused. -/
inductive Refusal where
  /-- For an arm of `exec` that has no meaning (safe: the machine stops); every command has one, so none is left. -/
  | notModelled (mnemonic : String)
  deriving DecidableEq, Repr

/-- What a command answers. -/
abbrev Out := Host.Outcome State Fault Refusal

/-- The machine at power-on (spec 16, 20): no input power, every register at its reset value, nothing waiting. -/
def State.reset : State := {}

/-- A command's effect is a change of the block; the queue is no command's to change. -/
def act (f : Block → Block) (s : State) : Out := .next { s with blk := f s.blk }

end Sys2Proof.Machine
end

