-- ==== Sys2Proof/Machine/Window.lean ====
section
/-!
DEFINITION. Machine/Window.lean: tallies and deposit windows (spec 12).
-/
namespace Sys2Proof.Machine

/-! Tallies. -/
/-- The tally unit applies the oldest queued update of a tally (R337). -/
def tallyUpdate (n : Fin 16) (h : Fin 4096) (b : Block) : Block :=
  match b.hub.tq.find? fun u => u.part == n.val && u.handle == h.val with
  | some u => tallyApply (b.modHub fun x => { x with tq := x.tq.erase u }) u
  | none => b
def execTallyUpdate (n : Fin 16) (h : Fin 4096) (s : State) : Out := act (tallyUpdate n h) s
/-- The unit signals a released wait (R339): a thread's y.twait completes, an engine's start condition holds. -/
def tallyWaitRelease (k : Fin 800) (unit : Fin 11) (b : Block) : Block :=
  match watchOf b k unit with
  | none => b
  | some w =>
    if !w.released then b
    else if unit.val < 8 then
      let t := (b.cell k).thread unit
      match t.st, t.wait with
      | .wait, .tally _ _ _ => (watchDrop b k unit).modThread k unit fun t => t.wake true
      | _, _ => watchDrop b k unit
    else b.modHub fun h => { h with watches := h.watches.map fun x => if x.cell == w.cell && x.unit == w.unit then { x with told := true } else x }
/-- Applies every queued update of a tally. -/
def tallyFlush (b : Block) (n h : Nat) : Block :=
  let mine := b.hub.tq.filter fun x => x.part == n && x.handle == h
  (b.modHub fun x => { x with tq := x.tq.filter fun y => !(y.part == n && y.handle == h) }).each mine tallyApply
def opTallySet (b : Block) (c : Cmd) : Block :=
  let h := c.desc.u 16 2
  checked b c [(!bodyOk c.desc [(16, 2), (20, 4)] || !tallyOk b c.part h, .descInvalid)] fun b =>
    let b := tallyFlush b c.part h
    let old := (b.tally c.part h).val
    finish (tallyApply b { part := c.part, handle := h, set := true, amount := c.desc.u 20 4, loc := chipLoc }) c.id .done old
def execTallySet (n : Fin 16) (r : Rec) (s : State) : Out := act (ringCmd 0x70 opTallySet n r) s
def opTallyThresh (b : Block) (c : Cmd) : Block :=
  let h := c.desc.u 16 2
  checked b c [(!bodyOk c.desc [(16, 3), (20, 4)] || !decide (c.desc.u 18 1 < 2) || !tallyOk b c.part h, .descInvalid)] fun b =>
    let arm := bit (c.desc.u 18 1) 0
    let b := b.modTally c.part h fun t => { t with armed := arm, thresh := if arm then c.desc.u 20 4 else t.thresh }
    finish (tallyFire b c.part h) c.id .done
def execTallyThresh (n : Fin 16) (r : Rec) (s : State) : Out := act (ringCmd 0x71 opTallyThresh n r) s
/-- Zeroes a partition's tallies with their thresholds and queued updates (R335). -/
def tallyZero (b : Block) (n : Nat) : Block :=
  b.modHub fun h => { h with tallies := mclear h.tallies (4096 * n) (4096 * n + 4096), tq := h.tq.filter fun u => u.part != n }
/-- The sum of a quota over the other partitions. -/
def otherQuota (b : Block) (n : Nat) (q : Part → Nat) : Nat :=
  (List.range 16).foldl (fun a k => if k = n then a else a + q (b.part k)) 0
/-- A write of TALLY_QUOTA[n] (R334, R335). -/
def writeTallyQuota (b : Block) (n v : Nat) : Block :=
  let q := bits v 0 13
  if 4096 < q + otherQuota b n (·.tallyQuota) then b else
  let b := if bit v 13 then b.modPart n fun p => { p with quotaLocked := false } else b
  if (b.part n).image.isSome then b.modPart n fun p => { p with quotaLocked := true }
  else tallyZero (b.modPart n fun p => { p with tallyQuota := q }) n

/-! Deposit windows. -/
def winKey (n i : Nat) : Nat := 2048 * n + i
def Block.win (b : Block) (n i : Nat) : Win := mget {} b.hub.wins (winKey n i)
def Block.modWin (b : Block) (n i : Nat) (f : Win → Win) : Block := b.modHub fun h => { h with wins := mmod {} h.wins (winKey n i) f }
def reuseNs (b : Block) : Nat := bits (b.reg 0xC7F5C200 10) 0 8 * 1000000
def winCount (b : Block) (n k : Nat) : Block := b.count (0xC7F5C800 + 0x80 * n + 8 * k)
def winsOpen (b : Block) (n : Nat) : Nat := (List.range 2048).countP fun i => (b.win n i).opened
/-- Open windows of the whole module, which holds 2,048 (R343). -/
def winsHeld (b : Block) : Nat := b.hub.wins.countP (·.2.opened)
/-- The free index closed least recently, a never closed one first. -/
def winPick (l : List (Nat × Win)) : Option Nat :=
  (l.foldl (fun (a : Option (Nat × Nat)) x =>
    let t := match x.2.closedAt with | none => 0 | some t => t + 1
    match a with
    | none => some (t, x.1)
    | some y => if t < y.1 then some (t, x.1) else a) none).map (·.2)
def winFree (b : Block) (n : Nat) : List (Nat × Win) :=
  ((List.range (b.part n).winQuota).map fun i => (i, b.win n i)).filter fun x => !x.2.opened && x.2.closing.isNone && x.2.flying == 0
def winReady (b : Block) (n : Nat) : List (Nat × Win) :=
  (winFree b n).filter fun x => match x.2.closedAt with | none => true | some t => decide (t + reuseNs b ≤ b.now)
/-- Opens index `i` for a WIN_OPEN command. -/
def winOpenAt (b : Block) (c : Cmd) (i : Nat) : Block :=
  let r := c.desc
  let b := b.modWin c.part i fun w =>
    { gen := w.gen, opened := true, space := r.u 16 1, flags := r.u 17 1, tally := r.u 18 2, len := r.u 20 4, addr := r.u 24 8,
      expected := r.u 32 4, srcNode := r.u 36 2, late := w.late, closedAt := w.closedAt }
  finish (winCount b c.part 2) c.id .done (i + 65536 * (b.win c.part i).gen)
/-- The physical cell, buffer and offset of an R163 store address; none where the logical cell is unmapped. -/
def storeAddr (b : Block) (n addr : Nat) : Option (Nat × Nat × Nat) :=
  match mget 0 (b.part n).cellMap (bits addr 32 10) with
  | 0 => none
  | k + 1 => some (k, bits addr 0 8, bits addr 8 23)
/-- Whether `len` bytes of an R163 store address lie within a valid buffer without WEIGHT; its store offset. -/
def storePlace (b : Block) (n addr len : Nat) : Option (Nat × Nat) :=
  match storeAddr b n addr with
  | none => none
  | some (k, buf, off) => match (b.cell k).bufAddr buf off len true with | some a => some (k, a) | none => none
def opWinOpen (b : Block) (c : Cmd) : Block :=
  let r := c.desc
  let sp := r.u 16 1
  let fl := r.u 17 1
  let len := r.u 20 4
  let addr := r.u 24 8
  let tal := r.u 18 2
  let place : Bool := if sp = 1 then (storePlace b c.part addr len).isSome else pvaOk b c.part .hubWrite0 addr len
  let enc : Bool := if sp = 1 then bit addr 31 == false && addr / 2 ^ 42 == 0 else decide (addr < 2 ^ 40)
  let off : Nat := match storeAddr b c.part addr with | some (k, buf, off) => ((b.cell k).buf buf).base + off | none => 0
  let aligned : Bool := if sp = 1 then bits addr 8 23 % 64 == 0 else addr % 64 == 0
  let q := decide ((b.part c.part).winQuota ≤ winsOpen b c.part ∨ 2048 ≤ winsHeld b) || (winFree b c.part).isEmpty
  let bad := refuse [(decide (sp = 1 ∨ sp = 2) && enc && !place, .protection),
    (len == 0 || len % 64 != 0 || !decide (len ≤ 2 ^ 30) || !aligned, .alignment),
    (!bodyOk r [(16, 22)] || !(sp == 1 || sp == 2) || !decide (fl < 8) || !enc || (tal != 0xFFFF && !tallyOk b c.part tal) ||
      (!decide (r.u 36 2 < 8192)) || (bit fl 1 && (sp != 1 || len % 1024 != 0 || off % 1024 != 0)), .descInvalid),
    (q, .quota)]
  match bad with
  | some st => finish (if st = .quota then winCount b c.part 3 else b) c.id st
  | none => match winPick (winReady b c.part) with
    | some i => winOpenAt b c i
    | none => b.modHub fun h => { h with winOpens := h.winOpens ++ [(c.part, c.id)] }
def execWinOpen (n : Fin 16) (r : Rec) (s : State) : Out := act (ringCmd 0x72 opWinOpen n r) s
/-- The reuse delay of an index ends: the oldest waiting WIN_OPEN of the partition takes it (R345). -/
def winReuseExpiry (n : Fin 16) (b : Block) : Block :=
  match b.hub.winOpens.find? fun x => x.1 == n.val with
  | none => b
  | some x =>
    match winPick (winReady b n), cmdOf b x.2 with
    | some i, some c => winOpenAt (b.modHub fun h => { h with winOpens := h.winOpens.erase x }) c i
    | _, _ => b
def execWinReuseExpiry (n : Fin 16) (s : State) : Out := act (winReuseExpiry n) s
/-- Completes a WIN_CLOSE once every accepted write has landed (R349). -/
def winClosed (b : Block) (n i : Nat) : Block :=
  let w := b.win n i
  match w.closing with
  | some id => if w.flying = 0 then finish (b.modWin n i fun w => { w with closing := none }) id .done w.arrivals else b
  | none => b
def opWinClose (b : Block) (c : Cmd) : Block :=
  let h := c.desc.u 16 4
  let i := h % 65536
  let w := b.win c.part i
  checked b c [(!bodyOk c.desc [(16, 4)] || !decide (i < 2048) || !w.opened || w.gen != h / 65536, .descInvalid)] fun b =>
    let b := b.modWin c.part i fun w => { w with gen := (w.gen + 1) % 65536, opened := false, closedAt := some b.now, closing := some c.id }
    winClosed b c.part i
def execWinClose (n : Fin 16) (r : Rec) (s : State) : Out := act (ringCmd 0x73 opWinClose n r) s

/-- Answers the sender of a window write. -/
def answerWin (b : Block) (w : WinWrite) (st : Status) : Block := match w.from_ with
  | .fabric token node cseq => answerPkt b node cseq st token
  | o => answerLocal b o st { h := 0 }
/-- Granules that a write of window `w` touches, with their cell. -/
def winGrans (b : Block) (n : Nat) (w : Win) (off len : Nat) : Option (Nat × List Nat) :=
  match storeAddr b n w.addr with
  | some (k, buf, o) => some (k, granules (((b.cell k).buf buf).base + o + off) len)
  | none => none
/-- WINDOW_LATE, at most once per partition per millisecond (R352). -/
def winLate (b : Block) (x : WinWrite) : Block :=
  let p := b.part x.part
  let due : Bool := match p.winLateAt with | none => true | some t => decide (t + 1000000 ≤ b.now)
  if due then
    event (b.modPart x.part fun p => { p with winLateAt := some b.now, winLateSup := 0 }) x.part 0x0702 .windowClosed 0 chipLoc
      (detail [(16, 4, x.index + 65536 * x.gen), (20, 2, x.node), (22, 2, (b.win x.part x.index).gen), (24, 4, p.winLateSup)])
  else b.modPart x.part fun p => { p with winLateSup := p.winLateSup + 1 }
/-- The first write on its way is checked against the window table, and accepted or refused (R346 to R348). -/
def windowWriteArrival (b : Block) : Block :=
  match b.hub.winq with
  | [] => b
  | x :: rest =>
    let b := b.modHub fun h => { h with winq := rest }
    let w := b.win x.part x.index
    let cnt := if bit w.flags 0 then x.len / 64 else 1
    let clash : Bool := bit w.flags 1 && match winGrans b x.part w x.off x.len with
      | some (k, gs) => gs.any fun g => (b.cell k).tag g != 0
      | none => false
    let refused (b : Block) (st : Status) : Block :=
      answerWin (winCount (b.modWin x.part x.index fun w => { w with refused := satAdd 32 w.refused 1 }) x.part 6) x st
    if (b.part x.part).winQuota ≤ x.index then answerWin (winCount b x.part 6) x .protection
    else if w.opened && decide (w.srcNode ≠ 0x1FFF) && decide (w.srcNode ≠ x.node) then refused b .protection
    else if !w.opened || decide (w.gen ≠ x.gen) then
      answerWin (winLate (winCount (b.modWin x.part x.index fun w => { w with late := satAdd 32 w.late 1 }) x.part 5) x) x .windowClosed
    else if w.len < x.off + x.len then refused b .protection
    else if w.expected ≠ 0 ∧ w.expected < w.arrivals + cnt then refused b .countMismatch
    else if clash then refused b .remoteNak
    else
      let claims := if bit w.flags 1 then match winGrans b x.part w x.off x.len with
        | some (k, gs) => gs.map (8192 * k + ·)
        | none => [] else []
      let b := (setKeys b claims 2).modWin x.part x.index fun w => { w with arrivals := (w.arrivals + cnt) % 2 ^ 32, flying := w.flying + 1 }
      (winCount b x.part 4).modHub fun h => { h with winAcc := h.winAcc ++ [{ x with claims := claims }] }
/-- Lands the bytes of an accepted write: those whose place resolves are written; the answer's status (R347). -/
def winLand (b : Block) (w : Win) (x : WinWrite) : Block × Status :=
  if w.space = 1 then
    match storeAddr b x.part w.addr with
    | none => (b, .protection)
    | some (k, buf, o) =>
      let n := min x.len (((b.cell k).buf buf).len - (o + x.off))
      match (b.cell k).bufAddr buf (o + x.off) n true with
      | none => (b, .protection)
      | some a =>
        let (_, b) := accCheck b k a n 4
        let (id, b) := b.newId
        let (c, _, st) := (b.cell k).engineWrite a n x.data id
        (b.setCell k c, if n < x.len then .protection else st.getD .done)
  else
    let pva := w.addr + x.off
    let ok := pvaOk b x.part .tenantWrite pva x.len
    (pvaWrite b x.part .tenantWrite pva (pvaFuel x.len) x.len x.data, if !ok then .protection else .done)
/-- An accepted write lands: the granule it claimed is FULL, or EMPTY where its bytes failed (R147, R348), the tally gains its
count and the sender its answer (R347). -/
def winSettle (b : Block) (x : WinWrite) : Block :=
  let b := b.modHub fun h => { h with winAcc := h.winAcc.erase x }
  let w := b.win x.part x.index
  let (b, st) := winLand b w x
  let b := setKeys b x.claims (if st = .done then 1 else 0)
  let b := if w.tally = 0xFFFF then b else
    tallyNow b { part := x.part, handle := w.tally, set := false, amount := if bit w.flags 0 then x.len / 64 else 1, loc := chipLoc }
  answerWin (b.modWin x.part x.index fun w => { w with flying := w.flying - 1 }) x st
/-- The oldest accepted write lands; WINDOW_FILLED follows the last one, once per opening, also while a WIN_CLOSE waits for it
(R347). -/
def windowWriteLanded (b : Block) : Block :=
  match b.hub.winAcc with
  | [] => b
  | x :: _ =>
    let b := winSettle b x
    let w := b.win x.part x.index
    let b := if bit w.flags 2 && !w.filled && (w.opened || w.closing.isSome) && decide (w.expected ≠ 0) && decide (w.arrivals = w.expected) && decide (w.flying = 0) then
        event (b.modWin x.part x.index fun w => { w with filled := true }) x.part 0x0703 .done 0 chipLoc
          (detail [(16, 4, x.index + 65536 * x.gen), (20, 4, w.arrivals)])
      else b
    winClosed b x.part x.index
/-- A kill lands the writes that its partition's windows have accepted, then closes every window without an event and zeroes the
tallies (R349, R350). -/
def winKill (b : Block) (n : Nat) : Block :=
  let b := b.modHub fun h => { h with winOpens := h.winOpens.filter fun x => x.1 != n }
  let b := b.each (b.hub.winAcc.filter fun x => x.part == n) winSettle
  let b := b.each (List.range 2048) fun b i =>
    let w := b.win n i
    if w.opened then b.modWin n i fun w => { w with gen := (w.gen + 1) % 65536, opened := false, closedAt := some b.now, flying := 0, closing := none }
    else if w.flying ≠ 0 ∨ w.closing.isSome then b.modWin n i fun w => { w with flying := 0, closing := none } else b
  tallyZero b n

end Sys2Proof.Machine
end

