-- ==== Sys2Proof/Machine/Kill.lean ====
section
/-!
DEFINITION. Machine/Kill.lean: the kill of a partition (R404 to R408), the fence of a cell (R523, R524), and recovery
(R521), as shared operations.
-/
namespace Sys2Proof.Machine

/-! Blocks, pages and quotas of a partition (R389, R390, R396). -/
/-- Physical cells of block number `k`. -/
def blockCells (k : Nat) : List Nat := (List.range 8).map (8 * k + ·)
def partBlocks (b : Block) (n : Nat) : List Nat := (List.range 100).filter fun k => bit (b.part n).blocks k
def partCells (b : Block) (n : Nat) : List Nat := (partBlocks b n).flatMap blockCells
/-- The partition that holds a block. -/
def blockOwner (b : Block) (k : Nat) : Option Nat := (List.range 16).find? fun n => (b.part n).st != .free && bit (b.part n).blocks k
/-- The partition that holds a physical page. -/
def pageOwner (b : Block) (key : Nat) : Option Nat := match mget 0 b.hub.pageOwner key with | 0 => none | n + 1 => some n
def partPages (b : Block) (n : Nat) : List Nat := (b.hub.pageOwner.filter fun e => e.2 == n + 1).map (·.1)
/-- The code copies of an image: address and bytes. -/
def codeCopies (p : Part) : List (Nat × Nat) := match p.image with
  | some im => im.code.map fun x => (x.2.1, x.2.2)
  | none => []
/-- What step 3 of a kill zeroes: pages, MTT, table pool, destination table, code copy. -/
def killZero (b : Block) (n : Nat) : List (Nat × Nat) :=
  let p := b.part n
  let (base, cnt) := destTable b n
  (partPages b n).map (fun k => (pageMpa k, 2 ^ 21)) ++ (if p.mttEn then [(p.mttBase, 2 ^ 22)] else []) ++ [(p.poolMpa, p.poolPages * 2 ^ 21), (base, 64 * cnt)] ++ codeCopies p

/-! Ending a partition's work. -/
/-- Marks the DMA of a partition's commands dead: what still waits is dropped, what is outstanding has no user left. -/
def killDma (b : Block) (n : Nat) : Block :=
  let keep (u : DmaUse) : Bool := match u with | .comp _ _ | .event _ | .fetch _ _ | .sec _ _ => true | _ => false
  b.modHub fun h => { h with dmaq := h.dmaq.filter (fun w => w.part != n || keep w.use),
                             dma := h.dma.map fun d => match d.use with
                               | .cmdIn k _ _ | .cmdOut k _ _ | .swapOut k _ _ _ | .swapIn k _ _ _ => if k = n then { d with use := .dead } else d
                               | _ => d }
/-- The flags of the run in progress: what its cells have done (R13). -/
def runFlagsOf (b : Block) (n : Nat) : Flags :=
  let fl := (imageCells b n).foldl (fun a k => Nat.lor a (b.cell k).runFlags) 0
  { nondet := bit fl 0, fallback := bit fl 1, sat := bit fl 2, throttled := bit fl 3 }
/-- The flags of what a command has done so far: a BATCH by its run, a COLL by its collective. -/
def workFlags (b : Block) (c : Cmd) : Flags :=
  let coll := (b.fab.colls.filter (·.cmd == c.id)).foldl (fun (a : Flags) x => a.or x.flags) {}
  if (b.part c.part).running.any (·.cmd == c.id) then coll.or (runFlagsOf b c.part) else coll
/-- Ends one command of a killed partition with ABORTED; a record on its way to the host is written again. The flags stay (R13). -/
def killCmd (b : Block) (c : Cmd) : Block :=
  match c.st with
  | .posting =>
    let dead (u : DmaUse) : Bool := match u with | .comp _ id => id == c.id | _ => false
    let b := b.modHub fun h => { h with dmaq := h.dmaq.filter (fun w => !dead w.use),
                                        dma := h.dma.map fun d => if dead d.use then { d with use := .dead } else d }
    compWrite b c.part { c with status := .aborted, result := 0 } c.slot |> fun b =>
      modCmd b c.id fun c => { c with status := .aborted, result := 0 }
  | .commit => modCmd b c.id fun c => { c with status := .aborted, result := 0 }
  | _ => finish b c.id .aborted
/-- Stops a cell for good: nothing of its threads, engines and coalescer is left. -/
def Cell.quench (c : Cell) : Cell := { c.startZero 0 with zeroing := false, inRun := false }
/-- KILL with KILL_CAUSE `cause` (R404 steps 1 and 2); a partition that is not ACTIVE is left alone. -/
def killPart (b : Block) (n cause : Nat) : Block :=
  let p := b.part n
  if p.st ≠ .active then b else
  let cells := partCells b n
  let zero := killZero b n
  let pages := (partPages b n).length
  let cmds := b.hub.cmds.filter fun c => c.part == n
  let done := cmds.map fun c => (c.id, workFlags b c)
  let b := b.setPart n { p with st := .killing, killCause := cause, killAt := b.now, zeroList := zero, cellsZeroed := false,
                                memZeroed := false, scrubLate := false, ahead := none, running := none }
  let b := b.each done fun b x => modCmd b x.1 fun c => { c with flags := c.flags.or x.2 }
  let b := b.each (b.hub.cmds.filter fun c => c.part == n) killCmd
  let b := b.each cells fun b k => coinReturn (b.modCell k Cell.quench) k
  let b := b.modHub fun h => { h with watches := h.watches.filter fun w => w.part != n }
  let b := b.each (partBlocks b n) fun b k => { b with walkers := mset {} b.walkers k { cnt := (b.walker k).cnt } }
  let b := collKill b n
  let b := killRemit b n
  let b := winKill b n
  let b := killLedger b n
  let b := attestKill (killDma b n) n
  let b := b.modPart n fun p => { p with image := none, cellMap := [], inRecovery := false, recStatus := 0, recEnded := 0 }
  let det := detail [(16, 1, n), (17, 1, cause), (18, 2, cmds.length), (20, 4, pages)]
  let sev := if cause = 2 then 3 else 0
  eventBoth b n 0x0901 .aborted sev chipLoc det

/-! Fences. -/
def fenceLoc (k : Nat) : Nat := k / 8
/-- Stored uncorrectable words of a cell in the window of R523. -/
def fenceWindow (b : Block) : Nat := max 1 (bits (replayCfg b) 16 16) * 1000000000
/-- Fences a cell: it stops, the partition holding its block is aborted, and the fence is recorded and posted. -/
def fenceCell (b : Block) (k cause : Nat) : Block :=
  if (b.cell k).fenced then b else
  let stored := ((b.cell k).uncorr.filter fun t => decide (b.now < t + fenceWindow b)).length
  let owner := blockOwner b (k / 8)
  let b := coinReturn (b.modCell k fun c => { c.quench with fenced := true }) k
  let b := match owner with | some n => killPart b n 2 | none => b
  let b := b.count 0xC7FC1838
  let b := b.modHub fun h =>
    { h with fence := Nat.lor h.fence (2 ^ (k / 8)),
             fenceLog := ({ cell := k, cause := cause, part := owner.getD 0, us := b.mtime / 1000 } :: h.fenceLog).take 8 }
  let det := detail [(16, 2, k), (18, 1, cause), (19, 1, owner.getD 0), (20, 4, stored)]
  match owner with
  | some n => eventBoth b n 0x0E06 .aborted 3 chipLoc det
  | none => eventPlat b 0 0x0E06 .aborted 3 chipLoc det

/-! Recovery (R521). -/
/-- Whether the Clearing unit runs bounded for a partition (R299). -/
def bounded (b : Block) (n : Nat) : Bool := (b.part n).clearMode || (b.part n).inRecovery
/-- CLEARING_MODE_CHANGE, where the mode has changed from `was`. -/
def modeChange (b : Block) (n : Nat) (was : Bool) (cause : Nat) : Block :=
  if bounded b n = was then b else eventBoth b n 0x0506 .done 0 chipLoc (detail [(16, 1, b2n (bounded b n)), (17, 1, cause)])
def recoveryEvent (b : Block) (n : Nat) : Block :=
  let p := b.part n
  eventBoth b n 0x0E07 .done 0 chipLoc (detail [(16, 1, n), (17, 1, b2n p.inRecovery), (18, 1, p.recStatus), (20, 4, p.recEnded)])
/-- A partition enters recovery, or counts one more ended run or command while it is in recovery. -/
def enterRecovery (b : Block) (n : Nat) (st : Status) : Block :=
  let p := b.part n
  let was := bounded b n
  let b := b.modPart n fun p => { p with inRecovery := true, recEnded := (p.recEnded + 1) % 2 ^ 32, recStatus := if p.inRecovery then p.recStatus else st.code }
  if p.inRecovery then b else recoveryEvent (modeChange b n was 1) n

end Sys2Proof.Machine
end

