-- ==== Sys2Proof/Machine/Settle.lean ====
section
/-!
DEFINITION. Machine/Settle.lean: escalations to the chip-level handler (R25) that a command meets while it acts are carried
out when it has acted: partition aborts (R408), fences (R523) and module-fatal stops (R522).
-/
namespace Sys2Proof.Machine

/-- One escalation: kind 0 aborts partition `x`, kind 1 fences cell `x`, any other stops the module. -/
def settleOne (b : Block) (e : Nat × Nat × Nat) : Block := match e.1 with
  | 0 => killPart b e.2.1 2
  | 1 => fenceCell b e.2.1 e.2.2
  | _ => fatalStop b e.2.2 e.2.1
/-- Reports the words that partial-word writes corrected, carries out the escalations in the order they were raised, and lets the
links send what has come to wait on them. -/
def settle (b : Block) : Block :=
  let b := metEvents b
  let l := b.hub.escal
  pumpLinks (if l.isEmpty then b else (b.modHub fun h => { h with escal := [] }).each l settleOne)
/-- A command's effect, with the escalations it raises. -/
def run (f : Block → Block) (s : State) : Out := act (fun b => settle (f b)) s

end Sys2Proof.Machine
end

