-- ==== Sys2Proof/Machine/Scalar.lean ====
section
/-!
DEFINITION. Machine/Scalar.lean: the instructions of class s. (R70), with their loads, stores and CSRs.
-/
namespace Sys2Proof.Machine

/-! The operations of R70 on 64-bit words. -/
def w64 (x : Nat) : Word := BitVec.ofNat 64 x
def sextImm (i : BitVec 32) : Word := i.signExtend 64
def sMin (a b : Word) : Word := if a.slt b then a else b
def sMax (a b : Word) : Word := if a.slt b then b else a
def uMin (a b : Word) : Word := if a.ult b then a else b
def uMax (a b : Word) : Word := if a.ult b then b else a
def ofBool (p : Bool) : Word := if p then 1 else 0
def mulh (a b : Word) : Word := BitVec.ofInt 64 (a.toInt * b.toInt / 2 ^ 64)
def popc (a : Word) : Word := w64 ((List.range 64).foldl (fun n i => n + b2n (bit a.toNat i)) 0)
def clz (a : Word) : Word := w64 (if a = 0 then 64 else 63 - Nat.log2 a.toNat)

/-- A two-operand F-R instruction. -/
def sBin (op : Nat) (g : Word → Word → Word) (f : FR) (b : Block) : Block :=
  issueScalar b f.w (f.word 0 op) fun t => t.setS f.d.toNat (g (t.sr f.a.toNat) (t.sr f.b.toNat))
/-- An F-I instruction with the sign-extended immediate. -/
def sImm (op : Nat) (g : Word → Word → Word) (f : FI) (b : Block) : Block :=
  issueScalar b f.w (f.word 0 op) fun t => t.setS f.d.toNat (g (t.sr f.a.toNat) (sextImm f.imm))

def execSAdd (f : FR) (s : State) : Out := act (sBin 0x00 (· + ·) f) s
def execSSub (f : FR) (s : State) : Out := act (sBin 0x01 (· - ·) f) s
def execSMul (f : FR) (s : State) : Out := act (sBin 0x02 (· * ·) f) s
def execSMulh (f : FR) (s : State) : Out := act (sBin 0x03 mulh f) s
def execSAnd (f : FR) (s : State) : Out := act (sBin 0x04 (· &&& ·) f) s
def execSOr (f : FR) (s : State) : Out := act (sBin 0x05 (· ||| ·) f) s
def execSXor (f : FR) (s : State) : Out := act (sBin 0x06 (· ^^^ ·) f) s
def execSShl (f : FR) (s : State) : Out := act (sBin 0x07 (fun a b => a <<< (b.toNat % 64)) f) s
def execSShr (f : FR) (s : State) : Out := act (sBin 0x08 (fun a b => a >>> (b.toNat % 64)) f) s
def execSSra (f : FR) (s : State) : Out := act (sBin 0x09 (fun a b => a.sshiftRight (b.toNat % 64)) f) s
def execSMin (f : FR) (s : State) : Out := act (sBin 0x0A sMin f) s
def execSMax (f : FR) (s : State) : Out := act (sBin 0x0B sMax f) s
def execSMinu (f : FR) (s : State) : Out := act (sBin 0x0C uMin f) s
def execSMaxu (f : FR) (s : State) : Out := act (sBin 0x0D uMax f) s
def execSSlt (f : FR) (s : State) : Out := act (sBin 0x0E (fun a b => ofBool (a.slt b)) f) s
def execSSltu (f : FR) (s : State) : Out := act (sBin 0x0F (fun a b => ofBool (a.ult b)) f) s
/-- s.sel: a if c is not 0, else b. -/
def sSel (f : FR) (b : Block) : Block :=
  issueScalar b f.w (f.word 0 0x10) fun t =>
    t.setS f.d.toNat (if t.sr f.c.toNat ≠ 0 then t.sr f.a.toNat else t.sr f.b.toNat)
def execSSel (f : FR) (s : State) : Out := act (sSel f) s
def execSPopc (f : FR) (s : State) : Out := act (sBin 0x11 (fun a _ => popc a) f) s
def execSClz (f : FR) (s : State) : Out := act (sBin 0x12 (fun a _ => clz a) f) s
def execSAddi (f : FI) (s : State) : Out := act (sImm 0x20 (· + ·) f) s
def execSAndi (f : FI) (s : State) : Out := act (sImm 0x24 (· &&& ·) f) s
def execSOri (f : FI) (s : State) : Out := act (sImm 0x25 (· ||| ·) f) s
def execSXori (f : FI) (s : State) : Out := act (sImm 0x26 (· ^^^ ·) f) s
def execSShli (f : FI) (s : State) : Out := act (sImm 0x27 (fun a i => a <<< (i.toNat % 64)) f) s
def execSShri (f : FI) (s : State) : Out := act (sImm 0x28 (fun a i => a >>> (i.toNat % 64)) f) s
def execSSrai (f : FI) (s : State) : Out := act (sImm 0x29 (fun a i => a.sshiftRight (i.toNat % 64)) f) s
def execSSlti (f : FI) (s : State) : Out := act (sImm 0x2E (fun a i => ofBool (a.slt i)) f) s
def execSSltiu (f : FI) (s : State) : Out := act (sImm 0x2F (fun a i => ofBool (a.ult i)) f) s
def execSLi (f : FI) (s : State) : Out := act (sImm 0x30 (fun _ i => i) f) s
/-- s.lui: the low half of d stays, the high half is the immediate. -/
def sLui (f : FI) (b : Block) : Block :=
  issueScalar b f.w (f.word 0 0x31) fun t =>
    t.setS f.d.toNat (w64 ((t.sr f.d.toNat).toNat % 2 ^ 32 + f.imm.toNat * 2 ^ 32))
def execSLui (f : FI) (s : State) : Out := act (sLui f) s

/-! Store accesses of threads (R38, R56, R66, R131 to R133, R147, R148). -/
/-- Where an F-M access goes: the checks of a thread's store access in their order (alignment, then R38). -/
def fmAddr (c : Cell) (t : Thread) (f : FM) (write : Bool) : Except Status Nat :=
  let off := ((t.sr f.base.toNat).toNat + f.off.toNat) % 2 ^ 64
  let al := alignBytes f.size.toNat
  let base := (c.buf f.buf.toNat).base
  if (base + off) % al ≠ 0 then .error .alignment
  else match c.bufAddr f.buf.toNat off (sizeBytes f.size.toNat) write with
    | some a => .ok a
    | none => .error .protection
/-- What a tagged thread access needs of its granules (R147): FULL for a load, EMPTY for a store. -/
def tagNeed (k : Nat) (gs : List Nat) (store : Bool) : List (Nat × Nat) := gs.map fun g => (8192 * k + g, if store then 0 else 1)
/-- The name of a thread's tagged access in the order of R149: the one that it waits under, or a fresh one. -/
def tagWho (b : Block) (t : Thread) : Nat := match t.tagSeq with
  | some q => if b.hub.tagq.any fun w => w.who == q && w.pc == t.pc then q else b.hub.nextId
  | none => b.hub.nextId
/-- Whether a tagged thread access may be made now (R147, R149). -/
def tagReady (b : Block) (k : Nat) (t : Thread) (gs : List Nat) (store : Bool) : Bool := tagMay b (tagWho b t) (tagNeed k gs store)
/-- The tags after a tagged access: consume loads leave EMPTY, consume stores leave FULL. -/
def tagAfter (c : Cell) (gs : List Nat) (tag : Nat) (store : Bool) : Cell :=
  if tag = 2 then c.setTags gs (if store then 1 else 0) else c
/-- Blocks a thread on tags, in the order it began to wait (R148, R149). -/
def tagBlock (b : Block) (k t : Nat) (gs : List Nat) (store : Bool) : Block :=
  let x := b.thread k t
  let q := tagWho b x
  let b := (b.modHub fun h => { h with nextId := max h.nextId (q + 1) }).modThread k t fun x => { x.block (.tag q gs store) b.now with tagSeq := some q }
  tagJoin b { who := q, cell := k, pc := x.pc, need := tagNeed k gs store }
/-- A tagged access is made: it leaves the order of the waiting ones. -/
def tagMade (b : Block) (k t : Nat) : Block := match (b.thread k t).tagSeq with
  | some q => (tagLeave b q).modThread k t fun x => { x with tagSeq := none }
  | none => b
/-- Completes a load: the data is handed to `fin`; a stored error is a thread fault with UNCORRECTABLE (R515), and a weight
block in error is refetched while the thread stalls at the instruction (R155). -/
def loadAt (b : Block) (k t word off len : Nat) (fin : Block → Nat → Block) : Block :=
  match storeRead b k off len (3 + 8 * t) with
  | (.ok _, b) => let c := b.cell k; fin b (c.coalOver off len (c.store.read off len))
  | (.bad o s, b) =>
    let c := b.cell k
    if coalHides c (o / 8) then fin b (c.coalOver off len (c.store.read off len))
    else let _ := s; threadFault b k t .uncorrectable word (b.thread k t).pc off
  | (.refetch _, b) => b
/-- A thread load through the memory port. -/
def threadLoad (b : Block) (f : FM) (word : Nat) (fin : Block → Nat → Block) : Block :=
  let k := f.w.cell
  let c := b.cell k
  let t := c.thread f.w.thr
  match fmAddr c t f false with
  | .error st => issueFault b f.w word st ((c.buf f.buf.toNat).base + (t.sr f.base.toNat).toNat + f.off.toNat)
  | .ok a =>
    let gs := granules a (sizeBytes f.size.toNat)
    if f.tag.toNat ≠ 0 && !tagReady b k t gs false then tagBlock b k f.w.thr gs false
    else loadAt b k f.w.thr word a (sizeBytes f.size.toNat) fun b v =>
      fin (if f.tag.toNat = 0 then b else (tagMade b k f.w.thr).modCell k fun c => tagAfter c gs f.tag.toNat false) v
/-- A thread store of the bytes of `v` that `mask` names. -/
def threadStore (b : Block) (f : FM) (word v mask : Nat) : Block :=
  let k := f.w.cell
  let c := b.cell k
  let t := c.thread f.w.thr
  let len := sizeBytes f.size.toNat
  match fmAddr c t f true with
  | .error st => issueFault b f.w word st ((c.buf f.buf.toNat).base + (t.sr f.base.toNat).toNat + f.off.toNat)
  | .ok a =>
    let gs := granules a len
    if f.tag.toNat = 0 then
      (b.modCell k fun c => c.coalesce b.cycles f.w.thr a len v mask).modThread k f.w.thr Thread.advance
    else if !tagReady b k t gs true then tagBlock b k f.w.thr gs true
    else
      let b := (tagMade b k f.w.thr).modCell k fun c =>
        let c := c.drainWhere fun e => decide (a / 64 ≤ e.line / 64) && decide (e.line / 64 ≤ (a + len - 1) / 64)
        tagAfter (c.write a len v mask) gs f.tag.toNat true
      b.modThread k f.w.thr Thread.advance

/-- s.ld and s.lds: `ext` extends the loaded bytes to 64 bits. -/
def sLoad (op : Nat) (ext : Nat → Nat → Nat) (f : FM) (b : Block) : Block :=
  issue b f.w (f.word 0 op) fun b =>
    if !(b.thread f.w.cell f.w.thr).guard0 f.w then b.modThread f.w.cell f.w.thr Thread.advance
    else threadLoad b f (f.word 0 op) fun b v =>
      b.modThread f.w.cell f.w.thr fun t => (t.setS f.data.toNat (w64 (ext (8 * sizeBytes f.size.toNat) v))).advance
def execSLd (f : FM) (s : State) : Out := run (sLoad 0x40 (fun _ v => v) f) s
def execSLds (f : FM) (s : State) : Out := run (sLoad 0x41 (fun w v => wrapN 64 (sx w v)) f) s
/-- s.st (R131). -/
def sStore (f : FM) (b : Block) : Block :=
  issue b f.w (f.word 0 0x42) fun b =>
    let t := b.thread f.w.cell f.w.thr
    if !t.guard0 f.w then b.modThread f.w.cell f.w.thr Thread.advance
    else
      let len := sizeBytes f.size.toNat
      threadStore b f (f.word 0 0x42) ((t.sr f.data.toNat).toNat % 2 ^ (8 * len)) (2 ^ len - 1)
def execSSt (f : FM) (s : State) : Out := run (sStore f) s

/-- The thread CSRs. -/
def csrRead (b : Block) (w : Who) (num : Nat) : Word :=
  let c := b.cell w.cell
  let t := c.thread w.thr
  match num with
  | 0 => w64 w.thr
  | 1 => w64 c.lcell
  | 2 => w64 c.part
  | 3 => w64 (b.cycles - c.loadedAt)
  | 4 => w64 b.mtime
  | 5 => t.accMask.setWidth 64
  | 6 => w64 t.busyMask
  | 7 => t.seed
  | 8 => w64 (match t.loop with | some l => l.left | none => 0)
  | _ => 0
def sCsrr (f : FI) (b : Block) : Block :=
  issueScalar b f.w (f.word 0 0x60) fun t => t.setS f.d.toNat (csrRead b f.w (f.imm.toNat % 4096))
def execSCsrr (f : FI) (s : State) : Out := act (sCsrr f) s
/-- s.csrw: SR_SEED is the one writable CSR. -/
def sCsrw (f : FI) (b : Block) : Block :=
  issueScalar b f.w (f.word 0 0x61) fun t => if f.imm.toNat % 4096 = 7 then { t with seed := t.sr f.a.toNat } else t
def execSCsrw (f : FI) (s : State) : Out := act (sCsrw f) s

end Sys2Proof.Machine
end

