-- ==== Sys2Proof/Machine/Vector.lean ====
section
/-!
DEFINITION. Machine/Vector.lean: the instructions of class v. (R61, R62, R68, R71 to R74, R108 to R113).
-/
namespace Sys2Proof.Machine

/-- A vector instruction that writes the guarded lanes of `d` (R68). -/
def vWrite (op : Nat) (g : Thread → VReg) (f : FR) (b : Block) : Block :=
  issueThread b f.w (f.word 1 op) fun t => t.setV f.d.toNat (blend (t.guard f.w) (g t) (t.vr f.d.toNat))
/-- A lane-wise function of the operands A and B. -/
def vMap2 (g : Nat → Nat → Nat) (f : FR) (t : Thread) : VReg :=
  let a := t.vr f.a.toNat
  let b := t.vr f.b.toNat
  ofLanes fun i => g (lane a i) (lane b i)
def vMap1 (g : Nat → Nat) (f : FR) (t : Thread) : VReg := let a := t.vr f.a.toNat; ofLanes fun i => g (lane a i)
/-- Both 16-bit elements of a lane (R61). -/
def halves (g : Nat → Nat → Nat) (a b : Nat) : Nat := g (a % 65536) (b % 65536) + 65536 * g (a / 65536) (b / 65536)
/-- One lane of an arithmetic operation by TYPE: 0 INT32, 1 UINT32, 2 FP32, 3 BF16x2, 4 FP16x2. -/
def laneOp (typ : Nat) (gi gu : Nat → Nat → Nat) (gf : Fl → Fl → Fl) (a b : Nat) : Nat :=
  let fl (fm : Fmt) (x y : Nat) : Nat := fm.arith (gf (fm.decode x) (fm.decode y))
  match typ with
  | 0 => gi a b % 2 ^ 32
  | 1 => gu a b % 2 ^ 32
  | 2 => fl fp32 a b
  | 3 => halves (fl bf16) a b
  | _ => halves (fl fp16) a b
def vArith (op : Nat) (gi gu : Nat → Nat → Nat) (gf : Fl → Fl → Fl) (f : FR) (b : Block) : Block :=
  vWrite op (vMap2 (laneOp f.typ.toNat gi gu gf) f) f b

def execVAdd (f : FR) (s : State) : Out := act (vArith 0x00 (· + ·) (· + ·) Fl.add f) s
def sub32 (a b : Nat) : Nat := a + 2 ^ 32 - b
def execVSub (f : FR) (s : State) : Out := act (vArith 0x01 sub32 sub32 Fl.sub f) s
def execVMul (f : FR) (s : State) : Out := act (vArith 0x02 (· * ·) (· * ·) Fl.mul f) s
/-- One lane of v.fma: one rounding (R71). -/
def laneFma (typ a b c : Nat) : Nat :=
  let g (fm : Fmt) (x y z : Nat) : Nat := fm.arith (((fm.decode x).mul (fm.decode y)).add (fm.decode z))
  let h (fm : Fmt) : Nat := g fm (a % 65536) (b % 65536) (c % 65536) + 65536 * g fm (a / 65536) (b / 65536) (c / 65536)
  match typ with
  | 2 => g fp32 a b c
  | 3 => h bf16
  | _ => h fp16
def vFma (f : FR) (b : Block) : Block :=
  vWrite 0x03 (fun t =>
    let x := t.vr f.a.toNat; let y := t.vr f.b.toNat; let z := t.vr f.c.toNat
    ofLanes fun i => laneFma f.typ.toNat (lane x i) (lane y i) (lane z i)) f b
def execVFma (f : FR) (s : State) : Out := act (vFma f) s
def iMin (a b : Nat) : Nat := if sx 32 a ≤ sx 32 b then a else b
def iMax (a b : Nat) : Nat := if sx 32 a ≤ sx 32 b then b else a
def execVMin (f : FR) (s : State) : Out := act (vArith 0x04 iMin Nat.min Fl.min f) s
def execVMax (f : FR) (s : State) : Out := act (vArith 0x05 iMax Nat.max Fl.max f) s
/-- One-operand arithmetic, through the two-operand lane with B ignored. -/
def vUn (op : Nat) (gi : Nat → Nat) (gf : Fl → Fl) (f : FR) (b : Block) : Block :=
  vWrite op (vMap1 (fun a => laneOp f.typ.toNat (fun x _ => gi x) (fun x _ => gi x) (fun x _ => gf x) a a) f) f b
def execVAbs (f : FR) (s : State) : Out := act (vUn 0x06 (fun a => if 2 ^ 31 ≤ a then 2 ^ 32 - a else a) Fl.abs f) s
def execVNeg (f : FR) (s : State) : Out := act (vUn 0x07 (fun a => 2 ^ 32 - a) Fl.neg f) s
def execVAnd (f : FR) (s : State) : Out := act (vWrite 0x08 (vMap2 Nat.land f) f) s
def execVOr (f : FR) (s : State) : Out := act (vWrite 0x09 (vMap2 Nat.lor f) f) s
def execVXor (f : FR) (s : State) : Out := act (vWrite 0x0A (vMap2 Nat.xor f) f) s
def execVShl (f : FR) (s : State) : Out := act (vWrite 0x0B (vMap2 (fun a b => a * 2 ^ (b % 32)) f) f) s
def execVShr (f : FR) (s : State) : Out := act (vWrite 0x0C (vMap2 (fun a b => a / 2 ^ (b % 32)) f) f) s
def execVSra (f : FR) (s : State) : Out := act (vWrite 0x0D (vMap2 (fun a b => wrapN 32 (sx 32 a / 2 ^ (b % 32))) f) f) s
def vSel (f : FR) (b : Block) : Block :=
  vWrite 0x0E (fun t => blend (t.pr f.c.toNat) (t.vr f.a.toNat) (t.vr f.b.toNat)) f b
def execVSel (f : FR) (s : State) : Out := act (vSel f) s

/-! Predicates (R68: only the guarded lanes of a predicate are written). -/
def pWrite (op : Nat) (g : Thread → PReg) (f : FR) (b : Block) : Block :=
  issueThread b f.w (f.word 1 op) fun t => t.setP f.d.toNat (blendP (t.guard f.w) (g t) (t.pr f.d.toNat))
/-- The compare codes on an ordering -1, 0, 1; `un` is true when an operand is NaN (R103). -/
def cmpCode (code : Nat) (un : Bool) (o : Int) : Bool :=
  if un then code == 6 else
  match code with
  | 0 => o == 0 | 1 => o != 0 | 2 => decide (o < 0) | 3 => decide (o ≤ 0) | 4 => decide (0 < o) | 5 => decide (0 ≤ o)
  | _ => false
def ord (a b : Int) : Int := if a < b then -1 else if a = b then 0 else 1
/-- One lane of v.cmp; packed types compare element 2i. -/
def laneCmp (typ code a b : Nat) : Bool :=
  let fl (fm : Fmt) (x y : Nat) : Bool :=
    cmpCode code ((fm.decode x).isNan || (fm.decode y).isNan) ((fm.decode x).cmp (fm.decode y))
  match typ with
  | 0 => cmpCode code false (ord (sx 32 a) (sx 32 b))
  | 1 => cmpCode code false (ord a b)
  | 2 => fl fp32 a b
  | 3 => fl bf16 (a % 65536) (b % 65536)
  | _ => fl fp16 (a % 65536) (b % 65536)
def vCmp (f : FR) (b : Block) : Block :=
  pWrite 0x10 (fun t =>
    let x := t.vr f.a.toNat; let y := t.vr f.b.toNat
    ofBits fun i => laneCmp f.typ.toNat (f.mod.toNat % 8) (lane x i) (lane y i)) f b
def execVCmp (f : FR) (s : State) : Out := act (vCmp f) s
def execVPand (f : FR) (s : State) : Out := act (pWrite 0x18 (fun t => t.pr f.a.toNat &&& t.pr f.b.toNat) f) s
def execVPor (f : FR) (s : State) : Out := act (pWrite 0x19 (fun t => t.pr f.a.toNat ||| t.pr f.b.toNat) f) s
def execVPxor (f : FR) (s : State) : Out := act (pWrite 0x1A (fun t => t.pr f.a.toNat ^^^ t.pr f.b.toNat) f) s
def execVPnot (f : FR) (s : State) : Out := act (pWrite 0x1B (fun t => ~~~t.pr f.a.toNat) f) s
def execVPlt (f : FR) (s : State) : Out := act (pWrite 0x1C (fun t => ofBits fun i => decide ((i : Int) < (t.sr f.a.toNat).toInt)) f) s
/-- v.pcnt and v.ext write their scalar only under guard bit 0 (R68). -/
def vToS (op : Nat) (g : Thread → Nat) (f : FR) (b : Block) : Block :=
  issueScalar b f.w (f.word 1 op) fun t => t.setS f.d.toNat (w64 (g t))
def execVPcnt (f : FR) (s : State) : Out :=
  act (vToS 0x1D (fun t => (List.range 256).foldl (fun n i => n + b2n (pbit (t.pr f.a.toNat) i)) 0) f) s
def execVExt (f : FR) (s : State) : Out :=
  act (vToS 0x21 (fun t => lane (t.vr f.a.toNat) ((t.sr f.b.toNat).toNat % 256)) f) s

/-! Data arrangement. -/
def execVBcast (f : FR) (s : State) : Out := act (vWrite 0x20 (fun t => ofLanes fun _ => (t.sr f.a.toNat).toNat % 2 ^ 32) f) s
def vIns (f : FR) (b : Block) : Block :=
  vWrite 0x22 (fun t =>
    let d := t.vr f.d.toNat; let j := (t.sr f.b.toNat).toNat % 256; let x := (t.sr f.a.toNat).toNat % 2 ^ 32
    ofLanes fun i => if i = j then x else lane d i) f b
def execVIns (f : FR) (s : State) : Out := act (vIns f) s
def execVMov (f : FR) (s : State) : Out := act (vWrite 0x23 (fun t => t.vr f.a.toNat) f) s
def execVIota (f : FR) (s : State) : Out := act (vWrite 0x24 (fun _ => ofLanes fun i => i) f) s
def vPerm (f : FR) (b : Block) : Block :=
  vWrite 0x28 (fun t => let a := t.vr f.a.toNat; let x := t.vr f.b.toNat; ofLanes fun i => lane a (lane x i % 256)) f b
def execVPerm (f : FR) (s : State) : Out := act (vPerm f) s
def vRot (f : FR) (b : Block) : Block :=
  vWrite 0x29 (fun t => let a := t.vr f.a.toNat; let k := (t.sr f.b.toNat).toNat; ofLanes fun i => lane a ((i + k) % 256)) f b
def execVRot (f : FR) (s : State) : Out := act (vRot f) s

/-! Reductions (R73): the guard chooses the input lanes, and every lane of the destination is written. -/
def vReduce (op : Nat) (zi zf : Nat) (gi gf : Nat → Nat → Nat) (f : FR) (b : Block) : Block :=
  issueThread b f.w (f.word 1 op) fun t =>
    let g := t.guard f.w
    let a := t.vr f.a.toNat
    let isI := f.typ.toNat = 0
    let l := (List.range 256).map fun i => if pbit g i then lane a i else if isI then zi else zf
    let r := treeFold (if isI then gi else gf) 8 l
    t.setV f.d.toNat (BitVec.ofNat 8192 (r % 2 ^ 32))
def execVRsum (f : FR) (s : State) : Out := act (vReduce 0x30 0 0 (fun a b => (a + b) % 2 ^ 32) f32add f) s
/-- v.rmax (R73). An unguarded lane of an INTEGER v.rmax takes the least INT32 (DESIGN CHOICE, log 96: the spec names only
the values of a floating-point lane). -/
def execVRmax (f : FR) (s : State) : Out := act (vReduce 0x31 (2 ^ 31) f32negInf iMax f32max f) s
/-- v.rmin (R73). An unguarded lane of an INTEGER v.rmin takes the greatest INT32 (DESIGN CHOICE, log 96). -/
def execVRmin (f : FR) (s : State) : Out := act (vReduce 0x32 (2 ^ 31 - 1) f32posInf iMin f32min f) s

/-! Special functions (R74). -/
def vSfu (op : Nat) (g : Nat → Nat) (f : FR) (b : Block) : Block := vWrite op (vMap1 g f) f b
def execVExp2 (f : FR) (s : State) : Out := act (vSfu 0x40 f32exp2 f) s
def execVLog2 (f : FR) (s : State) : Out := act (vSfu 0x41 f32log2 f) s
def execVRsqrt (f : FR) (s : State) : Out := act (vSfu 0x42 f32rsqrt f) s
def execVRcp (f : FR) (s : State) : Out := act (vSfu 0x43 f32rcp f) s
def execVSin (f : FR) (s : State) : Out := act (vSfu 0x44 f32sin f) s
def execVCos (f : FR) (s : State) : Out := act (vSfu 0x45 f32cos f) s

/-! v.cvt (R108 to R113). -/
/-- The floating format of a v.cvt code. -/
def cvtFmt (code : Nat) : Option Fmt := match code with
  | 0 => some fp32 | 1 => some bf16 | 2 => some fp16 | 3 => some e4m3 | 4 => some e5m2
  | 7 => some e2m3 | 8 => some e3m2 | 9 => some e2m1 | _ => none
/-- Element bits of a format code. -/
def cvtBits (code : Nat) : Nat := match code with
  | 0 => 32 | 1 => 16 | 2 => 16 | 3 => 8 | 4 => 8 | 5 => 8 | 6 => 32 | 7 => 6 | 8 => 6 | 9 => 4 | _ => 64
/-- The last PART of a format code. -/
def cvtParts (code : Nat) : Nat := match code with
  | 1 => 1 | 2 => 1 | 3 => 3 | 4 => 3 | 5 => 3 | 6 => 0 | 7 => 4 | 8 => 4 | 9 => 7 | 10 => 1 | _ => 0
/-- The value of an element of a format code. -/
def elemVal (code frac x : Nat) : Fl := match cvtFmt code with
  | some fm => fm.decode x
  | none => if code = 10 then x64Val frac x else flOfInt (sx (cvtBits code) x) 0
/-- One element converted from FP32 into a format code; `sr` gives the seed and element index of R113. -/
def toElem (code frac : Nat) (sr : Option (Nat × Nat)) (x : Fl) : Cvt := match cvtFmt code with
  | some fm => match sr with
    | none => fm.convert x
    | some (seed, j) => fm.convertWith (fun _ m e => srMag fm seed j m e) x
  | none =>
    if code = 10 then toX64 frac x
    else match sr with
      | none => convertInt (cvtBits code) (fun _ m e => intRne m e) x
      | some (seed, j) => convertInt (cvtBits code) (fun _ m e => intSr seed j m e) x
/-- Whether the control word of R110 is legal for a narrow format code. -/
def cvtCtlOk (code ctl : Nat) : Bool :=
  let part := bits ctl 0 3
  let frac := bits ctl 8 6
  decide (ctl = part + frac * 256) && (frac == 0 || code == 10) && decide (part ≤ cvtParts code)
/-- Where element `i` of the 32-bit side lies on the narrow side: bit offset, or none for an element outside the part. -/
def cvtPlace (code part i : Nat) : Option Nat :=
  if code = 10 then (if 128 * part ≤ i ∧ i < 128 * part + 128 then some (64 * (i - 128 * part)) else none)
  else some (256 * cvtBits code * part + cvtBits code * i)
/-- Replaces `n` bits at `lo`. -/
def putBits (x lo n v : Nat) : Nat := x - bits x lo n * 2 ^ lo + (v % 2 ^ n) * 2 ^ lo
/-- The conversion of one register: the new destination and the counts of R108's marks. -/
def cvtReg (src tgt part frac : Nat) (sr : Option Nat) (g : PReg) (a d : Nat) : Nat × Nat × Nat :=
  let narrow := if src = 0 then tgt else src
  (List.range 256).foldl (fun (acc : Nat × Nat × Nat) i =>
    match cvtPlace narrow part i with
    | none => acc
    | some p =>
      if !pbit g i then acc
      else if src = 0 then
        let r := toElem tgt frac (sr.map fun s => (s, i)) (fp32.decode (bits a (32 * i) 32))
        (putBits acc.1 p (cvtBits tgt) r.code, acc.2.1 + b2n r.sat, acc.2.2 + b2n r.nanDropped)
      else (putBits acc.1 (32 * i) 32 (fp32.arith (elemVal src frac (bits a p (cvtBits src)))), acc.2.1, acc.2.2))
    (d, 0, 0)
def vCvt (f : FR) (b : Block) : Block :=
  issue b f.w (f.word 1 0x50) fun b =>
    let t := b.thread f.w.cell f.w.thr
    let src := f.mod.toNat % 16
    let tgt := f.mod.toNat / 16
    let ctl := (t.sr f.c.toNat).toNat
    if !cvtCtlOk (if src = 0 then tgt else src) ctl then issueFault b f.w (f.word 1 0x50) .descInvalid
    else
      let r := cvtReg src tgt (bits ctl 0 3) (bits ctl 8 6) (if f.sr then some t.seed.toNat else none) (t.guard f.w)
        (t.vr f.a.toNat).toNat (t.vr f.d.toNat).toNat
      b.modCell f.w.cell fun c =>
        let c := (c.count 0x10000 r.2.1).count 0x10008 r.2.2
        let c := if f.sr then c.count 0x10010 else c
        c.modThread f.w.thr fun t =>
          let t := t.setV f.d.toNat (BitVec.ofNat 8192 r.1)
          (if f.sr then { t with seed := t.seed + 1 } else t).advance
def execVCvt (f : FR) (s : State) : Out := act (vCvt f) s

/-! Vector memory (R68, R72, R131, R133). -/
def vLd (f : FM) (b : Block) : Block :=
  issue b f.w (f.word 1 0x60) fun b => threadLoad b f (f.word 1 0x60) fun b v =>
    b.modThread f.w.cell f.w.thr fun t =>
      (t.setV f.data.toNat (blend (t.guard f.w) (BitVec.ofNat 8192 v) (t.vr f.data.toNat))).advance
def execVLd (f : FM) (s : State) : Out := run (vLd f) s
/-- The byte mask of the guarded lanes. -/
def laneMask (g : PReg) (n : Nat) : Nat := (List.range n).foldl (fun a i => a + b2n (pbit g i) * 15 * 16 ^ i) 0
def vSt (f : FM) (b : Block) : Block :=
  issue b f.w (f.word 1 0x61) fun b =>
    let t := b.thread f.w.cell f.w.thr
    let len := sizeBytes f.size.toNat
    threadStore b f (f.word 1 0x61) ((t.vr f.data.toNat).toNat % 2 ^ (8 * len)) (laneMask (t.guard f.w) (len / 4))
def execVSt (f : FM) (s : State) : Out := run (vSt f) s

/-- The address of one lane of a gather or scatter. -/
def gsAddr (c : Cell) (t : Thread) (f : FR) (i : Nat) (write : Bool) : Except Status Nat :=
  let off := ((t.sr f.a.toNat).toNat + 4 * lane (t.vr f.b.toNat) i) % 2 ^ 64
  if ((c.buf f.mod.toNat).base + off) % 4 ≠ 0 then .error .alignment
  else match c.bufAddr f.mod.toNat off 4 write with
    | some a => .ok a
    | none => .error .protection
/-- The check of every guarded lane: alignment first, then R38. -/
def gsCheck (c : Cell) (t : Thread) (f : FR) (write : Bool) : Option Status :=
  let l := ((List.range 256).filter (pbit (t.guard f.w))).map fun i => gsAddr c t f i write
  let bad (st : Status) : Bool := l.any fun x => match x with | .error e => e == st | .ok _ => false
  if bad .alignment then some .alignment else if bad .protection then some .protection else none
def vLdg (f : FR) (b : Block) : Block :=
  issue b f.w (f.word 1 0x62) fun b =>
    let k : Nat := f.w.cell
    let c := b.cell k
    let t := c.thread f.w.thr
    match gsCheck c t f false with
    | some st => issueFault b f.w (f.word 1 0x62) st
    | none =>
      let g := t.guard f.w
      let r := ((List.range 256).filter (pbit g)).foldl (fun (acc : Option (List (Nat × Nat)) × Rd × Block) i =>
        match acc.1, gsAddr c t f i false with
        | some l, .ok a => match storeRead acc.2.2 k a 4 (3 + 8 * f.w.thr) with
          | (.ok _, b) => (some ((i, c.coalOver a 4 (c.store.read a 4)) :: l), .ok 0, b)
          | (r, b) => if coalHides c (a / 8) then (some ((i, c.coalOver a 4 (c.store.read a 4)) :: l), .ok 0, b) else (none, r, b)
        | _, _ => acc) (some [], .ok 0, b)
      match r with
      | (some l, _, b) => b.modThread k f.w.thr fun t =>
          let d := t.vr f.d.toNat
          (t.setV f.d.toNat (ofLanes fun i => match l.find? (·.1 == i) with | some x => x.2 | none => lane d i)).advance
      | (none, .refetch _, b) => b
      | (none, _, b) => issueFault b f.w (f.word 1 0x62) .uncorrectable
def execVLdg (f : FR) (s : State) : Out := run (vLdg f) s
/-- v.stg: lanes in ascending order, so the higher-numbered lane of one address stays (R72). -/
def vStg (f : FR) (b : Block) : Block :=
  issue b f.w (f.word 1 0x63) fun b =>
    let c := b.cell f.w.cell
    let t := c.thread f.w.thr
    match gsCheck c t f true with
    | some st => issueFault b f.w (f.word 1 0x63) st
    | none =>
      let v := t.vr f.c.toNat
      let b := b.modCell f.w.cell fun c => ((List.range 256).filter (pbit (t.guard f.w))).foldl (fun c i =>
        match gsAddr c t f i true with
        | .ok a => c.coalesce b.cycles f.w.thr a 4 (lane v i) 15
        | .error _ => c) c
      b.modThread f.w.cell f.w.thr Thread.advance
def execVStg (f : FR) (s : State) : Out := run (vStg f) s

/-! Accumulator tiles (R62, R63, R84). -/
def Cell.tile (c : Cell) (k : Nat) : Tile := mget 0 c.acc k
def Cell.setTile (c : Cell) (k : Nat) (v : Tile) : Cell := { c with acc := mset 0 c.acc k v }
/-- The cycle from which no m.zero runs. -/
def Cell.zeroEnd (c : Cell) : Nat := c.zeroTiles.foldl (fun a z => max a z.2) 0
/-- An m.zero at the head of an idle array: its tiles read zero and are held for 32 cycles, from the end of the one before it; a
queued m.zero takes its turn in the array queue's order (R84, R184). -/
def Cell.arrayNext : Nat → Nat → Cell → Cell
  | 0, _, c => c
  | fuel + 1, cyc, c =>
    match c.run, c.arrq with
    | none, e :: q =>
      if e.kind == .zero && decide (c.zeroEnd ≤ cyc) then
        let from_ := if e.at_ < c.zeroEnd then c.zeroEnd else cyc
        let c := { c with arrq := q, zeroTiles := [(e.mask, from_ + 32)] }
        Cell.arrayNext fuel cyc ((List.range 8).foldl (fun c k => if bit e.mask k then c.setTile k 0 else c) c)
      else c
    | _, _ => c
/-- The array takes the m.zeros whose turn has come. -/
def arrIdle (b : Block) (k : Nat) : Block := match (b.cell k).arrq with
  | e :: _ => if e.kind == .zero then b.modCell k fun c => Cell.arrayNext 5 b.cycles c else b
  | [] => b
/-- Tiles held by the running array command and by m.zero (R84). A command holds its tiles from when it leaves the queue's
head, so also while it still waits for its coins (DESIGN CHOICE, log 99). -/
def Cell.heldTiles (c : Cell) (cyc : Nat) : Nat :=
  let r := match c.run with | some r => if r.phase == .ended then 0 else r.e.mask | none => 0
  (c.zeroTiles.filter fun z => decide (cyc < z.2)).foldl (fun a z => Nat.lor a z.1) r
/-- The access of a tile: outside THREAD_ACC_MASK a fault, held a wait, else `body`. -/
def tileAccess (b : Block) (w : Who) (word tile : Nat) (body : Block → Block) : Block :=
  let b := arrIdle b w.cell
  let c := b.cell w.cell
  let t := c.thread w.thr
  if !bit t.accMask.toNat tile then issueFault b w word .protection
  else if bit (c.heldTiles b.cycles) tile then b.modThread w.cell w.thr fun t => t.block (.tile (2 ^ tile)) b.now
  else body b
def vAccr (f : FR) (b : Block) : Block :=
  issue b f.w (f.word 1 0x70) fun b => tileAccess b f.w (f.word 1 0x70) f.a.toNat fun b =>
    let tl := (b.cell f.w.cell).tile f.a.toNat
    b.modThread f.w.cell f.w.thr fun t =>
      let x : VReg := BitVec.ofNat 8192 (bits tl.toNat (8192 * (f.mod.toNat % 32)) 8192)
      (t.setV f.d.toNat (blend (t.guard f.w) x (t.vr f.d.toNat))).advance
def execVAccr (f : FR) (s : State) : Out := act (vAccr f) s
def vAccw (f : FR) (b : Block) : Block :=
  issue b f.w (f.word 1 0x71) fun b => tileAccess b f.w (f.word 1 0x71) f.d.toNat fun b =>
    b.modCell f.w.cell fun c =>
      let t := c.thread f.w.thr
      let k := 8192 * (f.mod.toNat % 32)
      let old := (c.tile f.d.toNat).toNat
      let new := blend (t.guard f.w) (t.vr f.a.toNat) (BitVec.ofNat 8192 (bits old k 8192))
      (c.setTile f.d.toNat (BitVec.ofNat 262144 (putBits old k 8192 new.toNat))).modThread f.w.thr Thread.advance
def execVAccw (f : FR) (s : State) : Out := act (vAccw f) s

end Sys2Proof.Machine
end

