-- ==== Sys2Proof/Machine/Control.lean ====
section
/-!
DEFINITION. Machine/Control.lean: classes c., y., m., d. and b. as a thread issues them (R75 to R84, R92).
-/
namespace Sys2Proof.Machine

/-! Class c. -/
def execCNop (f : FR) (s : State) : Out := act (fun b => issueThread b f.w (f.word 6 0) id) s
/-- The branch conditions; 7 to 9 test p[A & 7]. -/
def condHolds (t : Thread) (f : FB) : Bool :=
  let a := t.sr f.a.toNat
  let b := t.sr f.b.toNat
  let p := t.pr (f.a.toNat % 8)
  match f.cond.toNat with
  | 0 => true
  | 1 => a == b
  | 2 => a != b
  | 3 => a.slt b
  | 4 => !a.slt b
  | 5 => a.ult b
  | 6 => !a.ult b
  | 7 => p != 0
  | 8 => p == 0
  | 9 => p == BitVec.allOnes 256
  | _ => false
/-- A taken branch or jump: counted, and it ends an active loop (R77). -/
def jumpTo (b : Block) (w : Who) (pc : Nat) (f : Thread → Thread) : Block :=
  b.modCell w.cell fun c => (c.count 0x428).modThread w.thr fun t => { f t with pc := pc, loop := none }
def cBr (f : FB) (b : Block) : Block :=
  issue b f.w (f.word 6 1) fun b =>
    let t := b.thread f.w.cell f.w.thr
    if condHolds t f then jumpTo b f.w ((t.pc : Int) + f.disp.toInt).toNat id
    else b.modThread f.w.cell f.w.thr Thread.advance
def execCBr (f : FB) (s : State) : Out := act (cBr f) s
def cJal (f : FI) (b : Block) : Block :=
  issue b f.w (f.word 6 2) fun b =>
    let t := b.thread f.w.cell f.w.thr
    jumpTo b f.w ((t.pc : Int) + f.imm.toInt).toNat fun t => t.setS f.d.toNat (w64 (t.pc + 1))
def execCJal (f : FI) (s : State) : Out := act (cJal f) s
def cJr (f : FR) (b : Block) : Block :=
  issue b f.w (f.word 6 3) fun b =>
    let c := b.cell f.w.cell
    let pc := ((c.thread f.w.thr).sr f.a.toNat).toNat
    if c.codeCount ≤ pc then issueFault b f.w (f.word 6 3) .protection else jumpTo b f.w pc id
def execCJr (f : FR) (s : State) : Out := act (cJr f) s
def cLoop (f : FI) (b : Block) : Block :=
  issueThread b f.w (f.word 6 4) fun t =>
    let n := (t.sr f.a.toNat).toNat
    let len := f.imm.toNat % 128
    -- `advance` then moves to the body's first instruction
    if n = 0 then { t with pc := t.pc + len } else { t with loop := some { start := t.pc + 1, len := len, left := n } }
def execCLoop (f : FI) (s : State) : Out := act (cLoop f) s
def execCHalt (f : FR) (s : State) : Out :=
  act (fun b => issueThread b f.w (f.word 6 5) fun t => { t with st := .halt, loop := none }) s
/-- c.trap: one event per 64 cycles; a sooner one waits in RUN (R92). -/
def cTrap (f : FI) (b : Block) : Block :=
  let c := b.cell f.w.cell
  let t := c.thread f.w.thr
  let soon : Bool := match t.lastTrap with | some at_ => decide (b.cycles < at_ + 64) | none => false
  if soon && decide (t.pc < c.codeCount) then b else
  issue b f.w (f.word 6 6) fun b =>
    let b := event b c.part 0x0103 .done 0 (cellLoc f.w.cell 0)
      (detail [(16, 1, f.w.thr), (18, 2, t.pc), (20, 4, f.imm.toNat), (24, 8, (t.sr f.a.toNat).toNat)])
    b.modThread f.w.cell f.w.thr fun t => ({ t with lastTrap := some b.cycles } : Thread).advance
def execCTrap (f : FI) (s : State) : Out := act (cTrap f) s
def cTstart (f : FR) (b : Block) : Block :=
  issue b f.w (f.word 6 7) fun b =>
    let c := b.cell f.w.cell
    let t := c.thread f.w.thr
    let k := (t.sr f.a.toNat).toNat % 8
    let pc := (t.sr f.b.toNat).toNat
    if c.codeCount ≤ pc then issueFault b f.w (f.word 6 7) .protection
    else
      let x := c.thread k
      let ok := decide (x.st = .idle ∨ x.st = .halt)
      let arg := t.sr f.c.toNat
      let b := if ok then b.modThread f.w.cell k fun x =>
          ({ x with st := .run, pc := pc, tok := [], wait := .none, loop := none, stalled := none } : Thread).setS 1 arg else b
      b.modThread f.w.cell f.w.thr fun t => (t.setS f.d.toNat (ofBool ok)).advance
def execCTstart (f : FR) (s : State) : Out := act (cTstart f) s

/-! Class y. -/
def yWtok (f : FI) (b : Block) : Block :=
  issue b f.w (f.word 5 0) fun b => b.modThread f.w.cell f.w.thr fun t =>
    let mask := f.imm.toNat % 65536
    let any := bit f.imm.toNat 16
    if t.tokensReady mask any then t.advance else t.block (.tokens mask any) b.now
def execYWtok (f : FI) (s : State) : Out := act (yWtok f) s
def yTokst (f : FI) (b : Block) : Block :=
  issueThread b f.w (f.word 5 1) fun t =>
    let k := t.token (f.imm.toNat % 16)
    t.setS f.d.toNat (w64 (k.status + 256 * k.flags + 65536 * b2n k.busy))
def execYTokst (f : FI) (s : State) : Out := act (yTokst f) s
/-- A tally instruction: the handle is checked at issue (R78). -/
def yTally (b : Block) (w : Who) (word : Nat) (a : BitVec 5) (body : Block → Nat → Nat → Block) : Block :=
  issue b w word fun b =>
    let c := b.cell w.cell
    let h := ((c.thread w.thr).sr a.toNat).toNat
    if tallyOk b c.part h then body b c.part h else issueFault b w word .descInvalid
def yTinc (f : FR) (b : Block) : Block :=
  yTally b f.w (f.word 5 2) f.a fun b n h =>
    let v := ((b.thread f.w.cell f.w.thr).sr f.b.toNat).toNat % 2 ^ 32
    (tallyQueue b { part := n, handle := h, set := false, amount := v, loc := cellLoc f.w.cell 0 }).modThread
      f.w.cell f.w.thr Thread.advance
def execYTinc (f : FR) (s : State) : Out := act (yTinc f) s
def yTwait (f : FR) (b : Block) : Block :=
  yTally b f.w (f.word 5 3) f.a fun b n h =>
    let v := ((b.thread f.w.cell f.w.thr).sr f.b.toNat).toNat % 2 ^ 32
    if holds (b.tally n h).val v then b.modThread f.w.cell f.w.thr Thread.advance
    else
      let b := watchSet b { cell := f.w.cell, unit := f.w.thr, part := n, handle := h, value := v, id := 0, released := false }
      b.modThread f.w.cell f.w.thr fun t => t.block (.tally h v false) b.now
def execYTwait (f : FR) (s : State) : Out := act (yTwait f) s
def yTread (f : FR) (b : Block) : Block :=
  yTally b f.w (f.word 5 4) f.a fun b n h =>
    b.modThread f.w.cell f.w.thr fun t => (t.setS f.d.toNat (w64 (b.tally n h).val)).advance
def execYTread (f : FR) (s : State) : Out := act (yTread f) s
/-- y.bar (R79): the last arrival completes the barrier for every thread of the mask. -/
def yBar (f : FI) (b : Block) : Block :=
  issue b f.w (f.word 5 5) fun b =>
    let c := b.cell f.w.cell
    let mask := f.imm.toNat % 256
    let others := (List.range 8).filter fun k => bit mask k && k != f.w.thr.val
    if !bit mask f.w.thr then issueFault b f.w (f.word 5 5) .descInvalid
    else if others.all fun k => (c.thread k).st == .wait && (c.thread k).wait == .barrier mask then
      b.modCell f.w.cell fun c =>
        (others.foldl (fun c k => c.modThread k fun t => t.wake true) c).modThread f.w.thr Thread.advance
    else b.modThread f.w.cell f.w.thr fun t => t.block (.barrier mask) b.now
def execYBar (f : FI) (s : State) : Out := act (yBar f) s
def yFence (f : FR) (b : Block) : Block :=
  issue b f.w (f.word 5 6) fun b => b.modCell f.w.cell fun c =>
    (c.drainThread f.w.thr).modThread f.w.thr Thread.advance
def execYFence (f : FR) (s : State) : Out := run (yFence f) s

/-! Engine instructions (R81 to R84). -/
/-- The store address of a descriptor of `len` bytes: alignment to 64 B, then R38. -/
def fdAddr (c : Cell) (t : Thread) (f : FD) (len : Nat) : Except Status Nat :=
  let off := ((t.sr f.base.toNat).toNat + f.off.toNat) % 2 ^ 64
  if off % 64 ≠ 0 then .error .alignment
  else match c.bufAddr f.buf.toNat off len false with
    | some a => .ok a
    | none => .error .protection
/-- Whether a stream descriptor belongs to the outbound engine: its destination is not the own store (R159). -/
def isOutbound (r : Rec) : Bool := bits (r.u 1 1) 2 2 != 0
/-- The queue that a thread waits for, by class: 2 array, 4 bank-side; for a stream 8, plus 1 for the inbound and 2 for the
outbound engine (R83). -/
def queueCode (cls : Nat) (r : Rec) : Nat := if cls = 3 then (if isOutbound r then 10 else 9) else cls
/-- An F-D instruction: a busy token or a full queue waits; otherwise the thread's stores drain, the descriptor's bytes are
copied, the token becomes busy and the work enters its queue. `len` gives the bytes from the first 64. -/
def issueFD (b : Block) (f : FD) (cls op : Nat) (len : Rec → Nat) (full : Cell → Rec → Bool)
    (put : Cell → Nat → List Rec → Cell) : Block :=
  let word := f.word cls op
  let k : Nat := f.w.cell
  issue b f.w word fun b =>
    let c := b.cell k
    let t := c.thread f.w.thr
    match fdAddr c t f 64 with
    | .error st => issueFault b f.w word st
    | .ok a =>
      let head : Rec := BitVec.ofNat 512 ((c.drainThread f.w.thr).store.read a 64)
      let n := len head
      match fdAddr c t f n with
      | .error st => issueFault b f.w word st
      | .ok _ =>
        if (t.token f.token.toNat).busy then b.modThread k f.w.thr fun t => t.block (.busyToken f.token.toNat) b.now
        else if full c head then b.modThread k f.w.thr fun t => t.block (.queue (queueCode cls head)) b.now
        else
          let b := b.modCell k fun c => c.drainThread f.w.thr
          match storeRead b k a n (3 + 8 * f.w.thr) with
          | (.ok _, b) =>
            let (id, b) := b.newId
            let c := b.cell k
            let recs := head :: (List.range ((n - 64 + 31) / 32)).map fun i => BitVec.ofNat 512 (c.store.read (a + 64 + 32 * i) 32)
            b.modCell k fun c =>
              let c := c.modThread f.w.thr fun t =>
                (t.setToken f.token.toNat { (t.token f.token.toNat) with busy := true }).advance
              put c id recs
          | (.refetch _, b) => b
          | (.bad _ _, b) =>
            b.modThread k f.w.thr fun t => (t.tokenDone f.token.toNat .uncorrectable {}).advance
def arrPut (f : FD) (kind : ArrKind) (mask : Rec → Nat) (b : Block) (c : Cell) (id : Nat) (recs : List Rec) : Cell :=
  let e : ArrEntry := { id := id, kind := kind, thr := f.w.thr, tok := f.token.toNat, recs := recs,
                        mask := mask (recs.headD 0), at_ := b.cycles }
  Cell.arrayNext 5 b.cycles { c with arrq := c.arrq ++ [e] }
/-- Whether the array queue of 4 is full (R83). The m. instruction that runs keeps its slot, an m.zero for its 32 cycles
(DESIGN CHOICE, log 98). -/
def arrFull (cyc : Nat) (c : Cell) (_ : Rec) : Bool := decide (4 ≤ c.arrq.length + b2n (c.run.isSome || decide (cyc < c.zeroEnd)))
/-- m.chain: the header and its stage records (R191). -/
def mChain (f : FD) (b : Block) : Block :=
  issueFD (arrIdle b f.w.cell) f 2 0 (fun h => 64 + 32 * (if h.u 0 1 ≤ 12 then h.u 0 1 else 0)) (arrFull b.cycles) (arrPut f .chain (fun h => h.u 2 1) b)
def execMChain (f : FD) (s : State) : Out := run (mChain f) s
/-- m.attn: 128 bytes (R216). -/
def mAttn (f : FD) (b : Block) : Block :=
  issueFD (arrIdle b f.w.cell) f 2 1 (fun _ => 128) (arrFull b.cycles) (arrPut f .attn (fun h => h.u 10 1) b)
def execMAttn (f : FD) (s : State) : Out := run (mAttn f) s
def mZero (f : FI) (b : Block) : Block :=
  issue b f.w (f.word 2 2) fun b =>
    let b := arrIdle b f.w.cell
    let c := b.cell f.w.cell
    let mask := f.imm.toNat % 256
    if Nat.land mask (c.thread f.w.thr).accMask.toNat ≠ mask then issueFault b f.w (f.word 2 2) .protection
    else if arrFull b.cycles c 0 then b.modThread f.w.cell f.w.thr fun t => t.block (.queue 2) b.now
    else
      let (id, b) := b.newId
      b.modCell f.w.cell fun c =>
        let e : ArrEntry := { id := id, kind := .zero, thr := f.w.thr, tok := 0, recs := [], mask := mask, at_ := b.cycles }
        (Cell.arrayNext 5 b.cycles { c with arrq := c.arrq ++ [e] }).modThread f.w.thr Thread.advance
def execMZero (f : FI) (s : State) : Out := act (mZero f) s

def dStream (f : FD) (b : Block) : Block :=
  issueFD b f 3 0 (fun _ => 64)
    (fun c r => decide (16 ≤ (if isOutbound r then c.outb else c.inb).q.length))
    (fun c id recs =>
      let r := recs.headD 0
      let e : SEntry := { id := id, thr := f.w.thr, tok := f.token.toNat, desc := r }
      if isOutbound r then { c with outb := { c.outb with q := c.outb.q ++ [e] } } else { c with inb := { c.inb with q := c.inb.q ++ [e] } })
def execDStream (f : FD) (s : State) : Out := run (dStream f) s
/-- d.cancel (R178). -/
def dCancel (f : FI) (b : Block) : Block :=
  issue b f.w (f.word 3 1) fun b =>
    (cancelStreams b f.w.cell fun e => e.thr == f.w.thr.val && bit f.imm.toNat e.tok).modThread f.w.cell f.w.thr Thread.advance
def execDCancel (f : FI) (s : State) : Out := act (dCancel f) s
/-- d.fence (R173): a slot in each named queue; it waits for every descriptor ahead of it in all of them. -/
def dFence (f : FI) (b : Block) : Block :=
  issue b f.w (f.word 3 2) fun b =>
    let c := b.cell f.w.cell
    let i := bit f.imm.toNat 0
    let o := bit f.imm.toNat 1
    if (i && decide (16 ≤ c.inb.q.length)) || (o && decide (16 ≤ c.outb.q.length)) then
      b.modThread f.w.cell f.w.thr fun t => t.block (.queue (8 + b2n i + 2 * b2n o)) b.now
    else
      let (id, b) := b.newId
      let ahead (q : List SEntry) : List Nat := (q.filter (!·.fence)).map (·.id)
      let e : SEntry := { id := id, fence := true,
                          peers := (if i then ahead c.inb.q else []) ++ (if o then ahead c.outb.q else []) }
      b.modCell f.w.cell fun c =>
        let c := if i then { c with inb := { c.inb with q := c.inb.q ++ [e] } } else c
        let c := if o then { c with outb := { c.outb with q := c.outb.q ++ [e] } } else c
        c.sweepFences.modThread f.w.thr Thread.advance
def execDFence (f : FI) (s : State) : Out := act (dFence f) s

/-- A bank-side instruction enters the queue of 8. -/
def bIssue (op : Nat) (f : FD) (b : Block) : Block :=
  issueFD b f 4 op (fun _ => 64) (fun c _ => decide (8 ≤ c.bankq.length))
    (fun c id recs =>
      let e : Bank := { id := id, thr := f.w.thr, tok := f.token.toNat, op := op, desc := recs.headD 0 }
      { c with bankq := c.bankq ++ [e] })
def execBFill (f : FD) (s : State) : Out := run (bIssue 0 f) s
def execBCopy (f : FD) (s : State) : Out := run (bIssue 1 f) s
def execBAccset (f : FD) (s : State) : Out := run (bIssue 2 f) s
def execBAccclr (f : FD) (s : State) : Out := run (bIssue 3 f) s
def execBRstat (f : FD) (s : State) : Out := run (bIssue 4 f) s
def execBTagset (f : FD) (s : State) : Out := run (bIssue 5 f) s

end Sys2Proof.Machine
end

