-- ==== Sys2Proof/Machine/CellEvents.lean ====
section
/-!
DEFINITION. Machine/CellEvents.lean: the events of a cell that no instruction makes: ends of waits, fetch and code
reload, coalescer drains, bank-side work, tag releases, weight refetch, patrol scrub and zeroing (spec 03, 05).
-/
namespace Sys2Proof.Machine

/-! Ends of waits. -/
/-- A thread that waits on a full queue issues again once a slot of that queue is free (R83). -/
def queueSlotFree (k : Fin 800) (t : Fin 8) (b : Block) : Block :=
  let b := arrIdle b k
  let c := b.cell k
  let x := c.thread t
  let room (w : Nat) : Bool :=
    if w = 2 then !arrFull b.cycles c 0 else if w = 4 then decide (c.bankq.length < 8)
    else (!bit w 0 || decide (c.inb.q.length < 16)) && (!bit w 1 || decide (c.outb.q.length < 16))
  match x.st, x.wait with
  | .wait, .queue w => if room w then b.modThread k t fun x => x.wake false else b
  | _, _ => b
def execQueueSlotFree (k : Fin 800) (t : Fin 8) (s : State) : Out := act (queueSlotFree k t) s
/-- A thread that waits on a held tile issues again once the tile is released (R84). -/
def tileRelease (k : Fin 800) (t : Fin 8) (b : Block) : Block :=
  let b := arrIdle b k
  let c := b.cell k
  let x := c.thread t
  match x.st, x.wait with
  | .wait, .tile mask => if Nat.land (c.heldTiles b.cycles) mask = 0 then b.modThread k t fun x => x.wake false else b
  | _, _ => b
def execTileRelease (k : Fin 800) (t : Fin 8) (s : State) : Out := act (tileRelease k t) s
/-- The WAIT_ON code of a wait. -/
def Wait.code : Wait → Nat
  | .none => 0 | .tokens _ _ => 2 | .busyToken _ => 2 | .tally _ _ _ => 3 | .tag _ _ _ => 4 | .barrier _ => 5
  | .queue _ => 6 | .tile _ => 8
/-- The instruction word at position `pc` of a cell's code area. -/
def Cell.codeWord (c : Cell) (pc : Nat) : Nat := c.store.read (c.codeBase + 8 * pc) 8
/-- A wait beyond CELL_WAIT_LIMIT_US faults with TIMEOUT (R90). -/
def waitLimit (k : Fin 800) (t : Fin 8) (b : Block) : Block :=
  let c := b.cell k
  let x := c.thread t
  if x.st = .wait ∧ c.waitLimit ≠ 0 ∧ x.since + 1000 * c.waitLimit < b.now then
    let b := cellEvent b k 0x0102 .timeout 0 (cellLoc k 0) (detail [(16, 1, t), (17, 1, x.wait.code), (18, 2, x.pc)])
    threadFault b k t .timeout (c.codeWord x.pc) x.pc 0
  else b
def execWaitLimit (k : Fin 800) (t : Fin 8) (s : State) : Out := act (waitLimit k t) s

/-! Code fetch and reload (R67, R96, R97). -/
/-- A line of eight instructions arrives in a thread's fetch buffer, which holds two lines: issue empties neither half,
and a line that arrives with both halves full takes the place of the older (DESIGN CHOICE, log 100). A corrected word is
written through; an uncorrectable word stalls the thread on the line and starts its reload. -/
def fetchLineArrival (k : Fin 800) (t : Fin 8) (line : Fin 4096) (b : Block) : Block :=
  let c := b.cell k
  let off := c.codeBase + 64 * line
  if !cellLive c || decide ((c.thread t).st ≠ .run) || decide (c.codeCount ≤ 8 * line.val) then b else
  match storeRead b k off 64 (8 * t) with
  | (.ok _, b) => b.modThread k t fun x => { x with fbuf := (x.fbuf.filter (· != line.val) ++ [line.val]).reverse.take 2 |>.reverse }
  | (_, b) =>
    b.modCell k fun c =>
      let c := c.modThread t fun x => { x with stalled := some line.val }
      if c.reload.any (·.1 == line.val) then c else { c with reload := c.reload ++ [(line.val, b.now)] }
def execFetchLineArrival (k : Fin 800) (t : Fin 8) (line : Fin 4096) (s : State) : Out := run (fetchLineArrival k t line) s
/-- The reload of a code line from the partition's code copy (R97). A thread stalled on a line that cannot be reloaded
faults with zeros as CLASS, OP and word, and the line's store offset in the event's bytes 28 to 31 (DESIGN CHOICE,
log 101). A failed reload on which no thread is stalled, as one the scrub started, leaves the run going on and only marks
the image damaged (DESIGN CHOICE, log 102); the code area kept by a cell that the image does not load is no part of it. -/
def codeReload (k : Fin 800) (line : Fin 4096) (b : Block) : Block :=
  let c := b.cell k
  let n := c.part
  match c.reload.find? (·.1 == line.val), (b.part n).image with
  | some (_, at_), some im =>
    let off := c.codeBase + 64 * line
    let blk := line.val / 64
    let ns := b.now - at_
    let src := (im.code.find? (·.1 == k.val)).map (fun x => x.2.1 + 4096 * blk)
    let b := b.modCell k fun c => { c with reload := c.reload.filter (·.1 != line.val) }
    let (bad, b) := match src with
      | none => (true, b)
      | some a => memCheck b n a 4096
    let good : Bool := decide (ns ≤ 20000) && !bad && (match src with
      | none => false
      | some a => im.crc.any fun x => x.1 == a && x.2 == crc64 4096 (b.memRead a 4096))
    let stalled := (List.range 8).filter fun t => (c.thread t).stalled == some line.val
    let det := detail [(16, 4, off), (20, 4, ns)]
    if good then
      let a := src.getD 0 + 64 * (line.val % 64)
      let b := b.modCell k fun c => stalled.foldl (fun c t => c.modThread t fun x => { x with stalled := none }) (c.put off 64 (b.memRead a 64))
      cellEvent b k 0x0105 .done 2 (cellLoc k 3) det
    else
      let b := b.each stalled fun b t =>
        let x := c.thread t
        (threadFault b k t .uncorrectable 0 x.pc off).modThread k t fun x => { x with stalled := none }
      let b := cellEvent b k 0x0105 .uncorrectable 3 (cellLoc k 3) det
      b.modPart n fun p => { p with image := p.image.map fun i => { i with damaged := i.damaged || i.code.any (·.1 == k.val) } }
  | _, _ => b
def execCodeReload (k : Fin 800) (line : Fin 4096) (s : State) : Out := act (codeReload k line) s

/-- An entry drains after 32 cycles with no store into it (R132). -/
def coalescerIdleDrain (k : Fin 800) (line : Fin 98304) (b : Block) : Block :=
  b.modCell k fun c => match c.coal.find? (fun e => e.line == 64 * line.val) with
    | some e => if e.last + 32 ≤ b.cycles then c.drain e else c
    | none => c
def execCoalescerIdleDrain (k : Fin 800) (line : Fin 98304) (s : State) : Out := run (coalescerIdleDrain k line) s

/-! Bank-side work (R135 to R143). -/
/-- The store address of a bank-side range; in a WEIGHT buffer, or outside the extent, a PROTECTION (R135). -/
def bankAddr (c : Cell) (buf off len : Nat) : Option Nat := c.bufAddr buf off len true
def overlaps (a la c lc : Nat) : Bool := decide (a < c + lc) && decide (c < a + la)
/-- Element size of a b.rstat or b.accset format. -/
def Bank.rows (e : Bank) : Nat := let sz := if e.desc.u 25 1 = 0 then 4 else 2; e.desc.u 8 4 / (max 1 (e.desc.u 28 4) * sz)
/-- The byte ranges that a bank-side operation touches. -/
def Bank.ranges (c : Cell) (e : Bank) : List (Nat × Nat) :=
  let d := e.desc
  let dst := (bankAddr c (d.u 2 1) (d.u 4 4) (d.u 8 4)).toList.map fun a => (a, d.u 8 4)
  let src := if e.op = 1 then (bankAddr c (d.u 3 1) (d.u 12 4) (d.u 8 4)).toList.map fun a => (a, d.u 8 4)
    else if e.op = 4 then (bankAddr c (d.u 3 1) (d.u 12 4) (8 * e.rows)).toList.map fun a => (a, 8 * e.rows) else []
  dst ++ src
/-- Whether every byte of a descriptor that its kind does not use is zero. -/
def Bank.reserved (e : Bank) : Bool :=
  let d := e.desc
  let used (l : List (Nat × Nat)) : Bool := (List.range 64).all fun k => (l.any fun x => decide (x.1 ≤ k) && decide (k < x.1 + x.2)) || d.u k 1 == 0
  used ([(0, 3), (4, 8)] ++ match e.op with
    | 0 => [(16, 8)] | 1 => [(3, 1), (12, 4)] | 2 => [(24, 3)] | 3 => [(26, 2)]
    | 4 => [(3, 1), (12, 4), (25, 1), (28, 9)] | _ => [(37, 1)])
/-- Validation of a bank-side descriptor, in the order of R11 (R135, R137, R138, R142, R143). -/
def bankCheck (b : Block) (c : Cell) (e : Bank) : Option Status :=
  let d := e.desc
  let len := d.u 8 4
  let fl := d.u 1 1
  let dst := bankAddr c (d.u 2 1) (d.u 4 4) len
  let base := (c.buf (d.u 2 1)).base + d.u 4 4
  let src := bankAddr c (d.u 3 1) (d.u 12 4) len
  let recs := bankAddr c (d.u 3 1) (d.u 12 4) (8 * e.rows)
  let fmt := d.u 25 1
  let frac := d.u 26 1
  let inUse := c.ranges.any fun r => overlaps r.base r.len base len
  let range := c.ranges.find? fun r => r.base == base && r.len == len
  let flags := match e.op with | 0 | 1 => 1 | 2 | 4 => 2 | _ => 0
  let sz := if fmt = 0 then 4 else 2
  refuse [
    (decide ((b.part c.part).st = .scrubbing ∨ (b.part c.part).st = .killing), .scrubbing),
    (d.u 0 1 != e.op || fl - Nat.land fl flags != 0 || !e.reserved || len == 0, .descInvalid),
    (dst.isNone, .protection),
    (len % 64 != 0 || base % 64 != 0 || (e.op == 5 && (len % 1024 != 0 || base % 1024 != 0)), .alignment),
    ((e.op == 1 && src.isNone) || (e.op == 4 && recs.isNone), .protection),
    (e.op == 1 && ((c.buf (d.u 3 1)).base + d.u 12 4) % 64 != 0, .alignment),
    (e.op == 1 && overlaps base len (src.getD 0) len, .descInvalid),
    (e.op == 2 && !(match d.u 24 1 with
      | 0 => [0, 1, 2, 10].contains fmt && decide (frac < 64)
      | 1 => decide (fmt < 3) && frac == 0
      | _ => false), .descInvalid),
    ((e.op == 2 || e.op == 4) && inUse, .descInvalid),
    ((e.op == 2 || e.op == 4) && decide (16 ≤ c.ranges.length), .quota),
    (e.op == 3 && !decide (frac < 64), .descInvalid),
    (e.op == 3 && (match range with
      | none => true
      | some r => !r.stat && ((d.u 27 1 != 15 && !decide (d.u 27 1 < 3)) || (!r.fast && d.u 27 1 != 15 && frac != r.frac))), .descInvalid),
    (e.op == 4 && (!decide (fmt < 2) || !decide (16 ≤ d.u 28 4) || !decide (d.u 28 4 ≤ 65536) || (d.u 28 4 * sz) % 64 != 0 ||
      len % (max 1 (d.u 28 4) * sz) != 0 || !decide (d.u 36 1 < 2)), .descInvalid),
    (e.op == 4 && overlaps base len (recs.getD 0) (8 * e.rows), .descInvalid),
    (e.op == 5 && !decide (d.u 37 1 < 2), .descInvalid)]
/-- The largest number of a range's lines that fall in one bank (R137). -/
def bankLines (off len : Nat) : Nat :=
  let per := (List.range (len / 64)).foldl (fun (m : Map Nat) i => mmod 0 m (bankOf (off + 64 * i)) (· + 1)) []
  per.foldl (fun a e => max a e.2) 0
/-- The unit takes the entry at a place of its queue once no earlier overlapping work remains, validates it and starts it. -/
def banksideStart (k : Fin 800) (i : Fin 8) (b : Block) : Block :=
  let c := b.cell k
  match c.bankq[i.val]? with
  | none => b
  | some e =>
    let earlier := (c.bankq.take i.val).flatMap (·.ranges c)
    let clash := (e.ranges c).any fun r => earlier.any fun q => overlaps r.1 r.2 q.1 q.2
    if e.started || clash || !cellLive c then b else
    match bankCheck b c e with
    | some st => b.modCell k fun c => ({ c with bankq := c.bankq.filter (·.id != e.id) } : Cell).tokenDone e.thr e.tok st {}
    | none =>
      let base := (c.buf (e.desc.u 2 1)).base + e.desc.u 4 4
      let n := bankLines base (e.desc.u 8 4)
      let due := b.cycles + 12 + (if e.op = 1 then 2 * n else n)
      b.modCell k fun c => { c with bankq := c.bankq.map fun x => if x.id = e.id then { x with started := true, due := due, run := b.cycles } else x }
def execBanksideStart (k : Fin 800) (i : Fin 8) (s : State) : Out := act (banksideStart k i) s
/-- b.copy, line by line; a line that reads an uncorrectable word is not written. -/
def bankCopy (b : Block) (k id src dst : Nat) : Nat → Block × Status
  | 0 => (b, .done)
  | n + 1 =>
    let (b, st) := bankCopy b k id src dst n
    match storeRead b k (src + 64 * n) 64 (5 + 8 * id) with
    | (.ok v, b) =>
      -- the words as corrected: a corrected word's data is the stored word
      (b.modCell k fun c => c.put (dst + 64 * n) 64 v, st)
    | (_, b) => (b, .uncorrectable)
/-- The conversion of b.accclr (R121, R142), in ascending order of the element. -/
def accOut (c : Cell) (r : Range) (fmt : Nat) : Cell :=
  let f := if fmt = 0 then fp32 else if fmt = 1 then bf16 else fp16
  let sz := if fmt = 0 then 4 else 2
  (List.range r.elems).foldl (fun c k =>
    let x := if r.fast then f32 (c.store.read (r.base + 4 * k) 4) else x64Val r.frac (c.store.read (r.base + 8 * k) 8)
    c.put (r.base + sz * k) sz (f.convert x).code) c
/-- The effect of bank-side work at its completion. -/
def bankEffect (b : Block) (k : Nat) (e : Bank) : Block × Status × Flags :=
  let d := e.desc
  let c := b.cell k
  let len := d.u 8 4
  let base := (c.buf (d.u 2 1)).base + d.u 4 4
  let src := (c.buf (d.u 3 1)).base + d.u 12 4
  let init := bit (d.u 1 1) 1
  let full (b : Block) : Block := if bit (d.u 1 1) 0 then b.modCell k fun c => c.setTags (granules base len) 1 else b
  match e.op with
  | 0 => (full (b.modCell k fun c => (List.range (len / 8)).foldl (fun c i => c.put (base + 8 * i) 8 (d.u 16 8)) c), .done, {})
  | 1 => let (b, st) := bankCopy b k e.id src base (len / 64); (full b, st, {})
  | 2 =>
    let r : Range := { base := base, len := len, stat := false, fast := d.u 24 1 == 1, fmt := d.u 25 1, frac := d.u 26 1 }
    (b.modCell k fun c => let c := if init then c.put base len 0 else c; { c with ranges := c.ranges ++ [r] }, .done, {})
  | 3 =>
    match c.ranges.find? fun r => r.base == base && r.len == len with
    | none => (b, .descInvalid, {})
    | some r =>
      let fl : Flags := if r.stat then {} else { sat := r.sat, nondet := r.fast && r.wrote }
      (b.modCell k fun c =>
        let c := { c with ranges := c.ranges.filter (·.base != base) }
        if r.stat || d.u 27 1 == 15 then c else accOut c r (d.u 27 1), .done, fl)
  | 4 =>
    let r : Range := { base := base, len := len, stat := true, fmt := d.u 25 1, recBase := src, statKind := d.u 36 1,
                       rowElems := d.u 28 4, scale := d.u 32 4 }
    (b.modCell k fun c =>
      let c := { c with ranges := c.ranges ++ [r] }
      if init then (List.range e.rows).foldl (fun c i => c.put (src + 8 * i) 8 f32negInf) c else c, .done, {})
  | _ => (b.modCell k fun c => c.setTags (granules base len) (d.u 37 1), .done, {})
/-- Completes bank-side work whose cycles have passed; a fill or copy with TAGFULL and a b.tagset wait while a granule is
FILLING (R147). The arming checks of R138 hold again at completion. The token of a cancelled run's work shows CANCELLED (R91). -/
def banksideComplete (k : Fin 800) (i : Fin 8) (b : Block) : Block :=
  let c := b.cell k
  match c.bankq[i.val]? with
  | none => b
  | some e =>
    let base := (c.buf (e.desc.u 2 1)).base + e.desc.u 4 4
    let len := e.desc.u 8 4
    let tagged := e.op == 5 || (decide (e.op < 2) && bit (e.desc.u 1 1) 0)
    let arm := e.op == 2 || e.op == 4
    if !e.started || decide (b.cycles < e.due) then b else
    let (free, b) := if tagged then tagTake b k e.id ((granules base len).map fun g => (8192 * k + g, 2)) else (true, b)
    if !free then b else
    let (b, st, fl) :=
      if arm && (c.ranges.any fun r => overlaps r.base r.len base len) then (b, .descInvalid, {})
      else if arm && decide (16 ≤ c.ranges.length) then (b, .quota, {})
      else bankEffect b k e
    let b := if e.replays = 0 then b else cellEvent b k 0x0E03 .done 2 (cellLoc k 3)
      (detail [(16, 1, e.thr), (17, 1, e.tok), (18, 1, e.replays), (19, 1, e.trigger)])
    b.modCell k fun c => ({ c with bankq := c.bankq.filter (·.id != e.id) } : Cell).tokenDone e.thr e.tok (if e.cancelled then .cancelled else st) fl
def execBanksideComplete (k : Fin 800) (i : Fin 8) (s : State) : Out := run (banksideComplete k i) s

/-! Tags, refetch, scrub and zeroing. -/
/-- The thread of a cell that waits on a granule and whose access may be made now: the tags allow it and no access that began to
wait on one of its granules before it could be made (R149). -/
def tagWaiter (b : Block) (k g : Nat) : Option Nat := (List.range 8).find? fun t =>
  match (b.thread k t).st, (b.thread k t).wait with
  | .wait, .tag q gs st => gs.contains g && tagMay b q (tagNeed k gs st)
  | _, _ => false
/-- The thread issues its access again, which keeps its place in the order until it is made. -/
def tagWaitRelease (k : Fin 800) (g : Fin 6144) (b : Block) : Block :=
  match tagWaiter b k g with
  | some t => b.modThread k t fun x => x.wake false
  | none => b
/-- WEIGHT_REFETCH, and STORE_UNCORRECTABLE for the words that the refetch was started for or met (R155, R544). -/
def refetchEvents (b : Block) (k : Nat) (r : Refetching) (st : Status) (pva : Nat) : Block :=
  let b := cellEvent b k 0x0203 st 2 (cellLoc k 3) (detail [(16, 4, 4096 * r.blk), (20, 5, pva), (25, 2, min 65535 ((b.now - r.at_) / 16))])
  b.each r.words fun b w => uncorrEvent b k (if st ≠ .done ∧ r.readers = [] then 1 else 2) w.1 w.2.1 w.2.2
/-- The end of a refetch that failed: the stalled reads receive UNCORRECTABLE (R155). -/
def refetchFail (b : Block) (k : Nat) (r : Refetching) : Block :=
  let pva := (mget {} (b.cell k).refetch r.blk).pva
  let b := b.modCell k fun c => { c with refetching := c.refetching.filter (·.blk != r.blk),
                                         refetchFailed := c.refetchFailed.filter (·.1 != r.blk) ++ r.readers.map fun x => (r.blk, x) }
  refetchEvents b k r .uncorrectable pva
def weightRefetch (k : Fin 800) (blk : Fin 1536) (b : Block) : Block :=
  let c := b.cell k
  match c.refetching.find? (·.blk == blk.val) with
  | none => b
  | some r =>
    if r.at_ + 4000 < b.now then b else
    let m := mget {} c.refetch blk
    if m.valid && pvaOk b c.part .weightRead m.pva 4096 && !pvaBad b c.part .weightRead m.pva 4096 &&
        crc64 4096 (pvaRead b c.part .weightRead m.pva 2 4096) == m.digest then
      let v := pvaRead b c.part .weightRead m.pva 2 4096
      let b := b.modCell k fun c => ({ c with refetching := c.refetching.filter (·.blk != blk.val) }.put (4096 * blk) 4096 v).count 0x30888
      refetchEvents b k r .done m.pva
    else refetchFail b k r
def weightRefetchTimeout (k : Fin 800) (blk : Fin 1536) (b : Block) : Block :=
  match (b.cell k).refetching.find? (·.blk == blk.val) with
  | some r => if r.at_ + 4000 < b.now then refetchFail b k r else b
  | none => b
/-- STORE_SCRUB of a cell. -/
def scrubCfg (b : Block) (k : Nat) : Nat := b.reg (cellBase k + 0x30008) (50000 + 2 ^ 20)
/-- One row of all banks is read (R156): a 4 KiB block, whose read stalls while it is under refetch (R155). No read is served
between a kill and the end of zeroing (R157). -/
def scrubRow (k : Fin 800) (b : Block) : Block :=
  let c := b.cell k
  let cfg := scrubCfg b k
  let dead := c.zeroing || c.fenced || (c.assigned && decide ((b.part c.part).st = .killing))
  if !bit cfg 20 || dead || (c.refetching.any (·.blk == c.scrubRow)) || decide (b.now < c.scrubAt + bits cfg 0 20) then b else
  let b := b.each (c.errsIn (4096 * c.scrubRow) 4096) fun b e =>
    let off := 8 * e.1
    match readWord (c.store.read off 8) e.2 with
    | .clean _ => b
    | .corrected _ s =>
      (storeCorrected b k off s).modCell k fun c => { c with serr := mset 0 c.serr e.1 0 }
    | .bad s =>
      if c.isCode off then
        let line := (off - c.codeBase) / 64
        (storeUncorr b k off s 3).modCell k fun c =>
          if c.reload.any (·.1 == line) then c else { c with reload := c.reload ++ [(line, b.now)] }
      else if c.isWeight off then weightUncorr b k off s 6
      else cellEvent (storeUncorr b k off s 1) k 0x0205 .uncorrectable 0 (cellLoc k 3) (detail [(16, 4, off), (20, 1, c.wordBank off), (21, 1, s)])
  b.modCell k fun c =>
    let last := decide (1536 ≤ c.scrubRow + 1)
    let c := { c with scrubRow := if last then 0 else c.scrubRow + 1, scrubAt := b.now }
    if last then c.count 0x30898 else c
def execScrubRow (k : Fin 800) (s : State) : Out := run (scrubRow k) s
/-- Zeroing ends, unless the cell's clock has stopped: every line is zero, the range table and refetch map are clear and every tag is EMPTY (R157). The
buffer table stays: only a program load writes it (R37). -/
def storeZeroed (k : Fin 800) (b : Block) : Block :=
  let c := b.cell k
  if !c.zeroing || c.stopped || decide (b.cycles < c.zeroAt + 1536) then b else
  let b := b.modCell k fun c => { c with store := [], serr := [], tags := [], ranges := [], refetch := [], zeroing := false }
  eventPlat b c.part 0x0206 .done 0 (cellLoc k 3) (detail [(16, 1, c.part), (20, 4, b.cycles - c.zeroAt)])
def execStoreZeroed (k : Fin 800) (s : State) : Out := act (storeZeroed k) s

/-! Writes to deposit windows (spec 12); their answers may go to another node. -/
def execWindowWriteArrival (s : State) : Out := run windowWriteArrival s
def execWindowWriteLanded (s : State) : Out := run windowWriteLanded s

end Sys2Proof.Machine
end

