-- ==== Sys2Proof/Machine/PartCmds.lean ====
section
/-!
DEFINITION. Machine/PartCmds.lean: the partition commands, the partition table, kill and scrub, and the host copies
(R393 to R408, R479).
-/
namespace Sys2Proof.Machine

/-! NOP and undefined opcodes (R393). -/
def opNop (b : Block) (c : Cmd) : Block :=
  checked b c [(!definedOps.contains c.op || !bodyOk c.desc [], .descInvalid)] fun b => finish b c.id .done
/-- A NOP, or a record of an undefined opcode, which is refused with DESCRIPTOR_INVALID. -/
def nopCmd (n : Fin 16) (r : Rec) (b : Block) : Block :=
  let op := r.u 0 1
  if op = 0 ∨ !definedOps.contains op then ringCmd op opNop n r b else b
def execNop (n : Fin 16) (r : Rec) (s : State) : Out := act (nopCmd n r) s

/-! MAP, UNMAP and SYNC (R396, R397, R402). -/
def usedPages (b : Block) (n : Nat) : Nat := b.hub.pageOwner.countP fun e => e.2 == n + 1
/-- A page that can be taken: in range, without owner, not being zeroed. -/
def pageFree (b : Block) (key : Nat) : Bool :=
  let p := key % 131072
  decide (512 ≤ p) && decide (p < Config.pagesPerEdie) && (pageOwner b key).isNone && !(b.hub.zeroing.any fun z => z.1 == key)
/-- The lowest `k` free pages of an E-die. -/
def freePages (b : Block) (e k : Nat) : List Nat :=
  (((List.range Config.pagesPerEdie).map (pageKey e)).filter (pageFree b)).take k
/-- Writes an MTT entry and takes its page. -/
def mapPage (b : Block) (n vpn acc key : Nat) : Block :=
  (b.memWrite ((b.part n).mttBase + 8 * vpn) 8 (mttMake (acc % 4) (bit acc 2) (bit acc 3) key)).modHub fun h =>
    { h with pageOwner := mset 0 h.pageOwner key (n + 1) }
/-- The frame pool that holds a VPN: its model. -/
def poolOf (b : Block) (n vpn : Nat) : Option Nat :=
  (List.range 8).find? fun m => let x := b.model n m; decide (x.poolVpn ≤ vpn) && decide (vpn < x.poolVpn + x.poolPages)
/-- Whether a VPN lies in a frame pool of which a frame is in use (R246). -/
def poolInUse (b : Block) (n vpn : Nat) : Bool := match poolOf b n vpn with | some m => (b.model n m).inUse != 0 | none => false
def opMap (b : Block) (c : Cmd) : Block :=
  let r := c.desc
  let n := c.part
  let pva := r.u 16 8
  let e := r.u 24 1
  let acc := r.u 25 1
  let page := r.u 28 4
  let k := r.u 32 4
  let vpn := pva / 2 ^ 21
  let any := page == 0xFFFFFFFF
  let vpns := (List.range (min k (524288 - vpn))).map (vpn + ·)
  let keys := if any then freePages b e k else (List.range (min k 131072)).map fun i => pageKey e (page + i)
  let form := bodyOk r [(16, 10), (28, 8)] && decide (e < 4) && decide (acc % 4 < 3) && decide (acc < 16) && decide (1 ≤ k) && decide (vpn + k ≤ 524288)
  let p := b.part n
  let named := !any && decide (e < 4)
  checked b c [(!p.mttEn, .protection),
    (named && (decide (page < 512) || decide (Config.pagesPerEdie < page + k)), .protection),
    (named && keys.any (fun q => match pageOwner b q with | some o => o != n | none => b.hub.zeroing.any fun z => z.1 == q), .protection),
    (p.mttEn && vpns.any (fun v => mttV (mttEntry b n v) && poolInUse b n v), .protection),
    (pva % 2 ^ 21 != 0, .alignment),
    (!form || (p.mttEn && vpns.any (fun v => mttV (mttEntry b n v))) || (named && keys.any fun q => pageOwner b q == some n), .descInvalid),
    ((any && decide (keys.length < k)) || decide (p.pageQuota < usedPages b n + k), .quota)] fun b =>
    finish (b.each (vpns.zip keys) fun b x => mapPage b n x.1 acc x.2) c.id .done k
def execMap (n : Fin 16) (r : Rec) (s : State) : Out := act (ringCmd 0x01 opMap n r) s

/-- Whether a transfer in flight reads or writes one of the pages. -/
def xferUses (keys : List Nat) (x : Xfer) : Bool :=
  let on (s : Side) : Bool := match s with | .mem a => keys.contains (a / 2 ^ 21) | _ => false
  x.st == .flight && (on x.src || on x.dst)
/-- The place in LPDDR6 that a host transfer reads or writes, as translated when it was made. -/
def DmaUse.mpa : DmaUse → Option Nat
  | .cmdIn _ _ a => some a
  | .cmdOut _ _ a => some a
  | _ => none
/-- Whether a page's transfers, of streams or with the host, have not all finished (R43); keys are MPA[39:21]. -/
def pagesBusy (b : Block) (n : Nat) (keys : List Nat) : Bool :=
  let host (u : DmaUse) : Bool := match u.mpa with | some a => keys.contains (a / 2 ^ 21) | none => false
  ((partCells b n).any fun k =>
    let c := b.cell k
    let l := (c.inb.q ++ c.outb.q).flatMap (·.win) ++ c.inb.zombies ++ c.outb.zombies
    l.any (xferUses keys)) || (b.hub.dma.any fun d => host d.use) || b.hub.dmaq.any fun w => host w.use
/-- Every translation cache of the partition drops its entries of some VPNs. -/
def dropXlate (b : Block) (n : Nat) (f : Nat → Bool) : Block :=
  b.each (partCells b n) fun b k => b.modCell k fun c => { c with xlate := c.xlate.filter fun x => !f x.vpn }
/-- Completes UNMAPs and a SYNC whose transfers have finished; freed pages begin to be zero-filled (R397, R402). -/
def unmapPump (b : Block) : Block :=
  let ready := b.hub.cmds.filter fun c => c.op == 0x02 && c.st == .running && c.left == 1 && !pagesBusy b c.part c.wait
  let b := b.each ready fun b c =>
    let b := b.each c.wait fun b k => b.modHub fun h => { h with pageOwner := mset 0 h.pageOwner k 0, zeroing := h.zeroing ++ [(k, c.part, b.now)] }
    finish b c.id .done c.wait.length
  match b.hub.syncing with
  | some n => if pagesBusy b n (partPages b n) then b else b.modHub fun h => { h with syncing := none }
  | none => b
/-- Removes a model's frame pool (R246). -/
def dropPool (b : Block) (n m : Nat) : Block :=
  let x := b.model n m
  let b := if x.recBlocks = 0 then b else freeBlocks b n x.recBlock
  b.modModel n m fun y => { y with poolVpn := 0, poolPages := 0, recBlock := 0, recBlocks := 0, frames := [] }
/-- Removes the valid entries of some VPNs, with any frame pool they lie in; the pages freed. -/
def unmapVpns (b : Block) (n : Nat) (vpns : List Nat) : List Nat × Block :=
  let pools := (List.range 8).filter fun m => vpns.any fun v => poolOf b n v == some m
  let b := b.each pools fun b m => dropPool b n m
  let live := vpns.filter fun v => mttV (mttEntry b n v)
  let keys := live.map fun v => mttKey (mttEntry b n v)
  (keys, dropXlate (b.each live fun b v => b.memWrite ((b.part n).mttBase + 8 * v) 8 0) n fun v => live.contains v)
def opUnmap (b : Block) (c : Cmd) : Block :=
  let r := c.desc
  let n := c.part
  let pva := r.u 16 8
  let k := r.u 32 4
  let vpn := pva / 2 ^ 21
  let vpns := (List.range (min k (524288 - vpn))).map (vpn + ·)
  checked b c [(!(b.part n).mttEn || vpns.any (poolInUse b n), .protection), (pva % 2 ^ 21 != 0, .alignment),
    (!bodyOk r [(16, 8), (32, 4)] || !decide (vpn + k ≤ 524288), .descInvalid)] fun b =>
    let (keys, b) := unmapVpns b n vpns
    unmapPump (modCmd b c.id fun c => { c with wait := keys, left := 1 })
def execUnmap (n : Fin 16) (r : Rec) (s : State) : Out := act (ringCmd 0x02 opUnmap n r) s
/-- The zero-fill of a freed page ends (R397). -/
def pageZeroed (e : Fin 4) (p : Fin 131072) (b : Block) : Block :=
  let k := pageKey e p
  if b.hub.zeroing.any fun z => z.1 == k then
    (b.memZero (pageMpa k) (2 ^ 21)).modHub fun h => { h with zeroing := h.zeroing.filter fun z => z.1 != k }
  else b
def execPageZeroed (e : Fin 4) (p : Fin 131072) (s : State) : Out := act (pageZeroed e p) s

/-! Copies between host memory and PVA (R398, R479). -/
/-- Queues the DMA reads of `len` bytes from host address `h` into PVA `pva`, at most 4,096 bytes each and each within one
destination page. -/
def hostReads (b : Block) (c : Cmd) (acc : Access) (h pva : Nat) : Nat → Nat → Block
  | 0, _ => b
  | fuel + 1, len =>
    if len = 0 then b else
    let l := min (min len 4096) (2 ^ 21 - pva % 2 ^ 21)
    let b := dmaPush b { part := c.part, write := false, func := (b.part c.part).mgrFunc, addr := h, len := l, data := 0,
                         use := .cmdIn c.part c.id ((translate b c.part acc pva).getD 0), bulk := true }
    hostReads b c acc (h + l) (pva + l) fuel (len - l)
/-- Queues the DMA writes of a PVA range to host memory, at most 512 bytes each. -/
def hostWrites (b : Block) (c : Cmd) (acc : Access) (h pva : Nat) : Nat → Nat → Block
  | 0, _ => b
  | fuel + 1, len =>
    if len = 0 then b else
    let l := min (min len 512) (2 ^ 21 - pva % 2 ^ 21)
    let b := dmaPush b { part := c.part, write := true, func := (b.part c.part).mgrFunc, addr := h, len := l,
                         data := b.memRead ((translate b c.part acc pva).getD 0) l, use := .cmdOut c.part c.id ((translate b c.part acc pva).getD 0), bulk := true }
    hostWrites b c acc (h + l) (pva + l) fuel (len - l)
/-- A host transfer of a copy command ends: its bytes land, the first failure is kept, and the command completes when
nothing of it is outstanding. -/
def copyDma (b : Block) (id mpa len data : Nat) (inbound : Bool) (st : Status) : Block :=
  match cmdOf b id with
  | none => b
  | some c =>
    if c.st ≠ .running then b else
    let b := if inbound && st == .done then b.memWrite mpa len data else b
    let b := modCmd b id fun c => { c with left := c.left - len, result := if st = .done then c.result + len else c.result,
                                           bad := if st = .done then c.bad else some (c.bad.getD st) }
    match cmdOf b id with
    | some c => if c.left = 0 then finish b id (c.bad.getD .done) c.result else b
    | none => b
/-- Copies 4 KiB pieces between PVA ranges; the first piece with an uncorrectable word ends the copy. -/
def pvaCopy (b : Block) (n src dst : Nat) : Nat → Nat → Nat × Status × Block
  | 0, got => (got, .done, b)
  | k + 1, got =>
    match pvaCheck b n .hubRead0 src 4096 with
    | (true, b) => (got, .uncorrectable, b)
    | (false, b) => pvaCopy (pvaWrite b n .weightWrite dst 2 4096 (pvaRead b n .hubRead0 src 3 4096)) n (src + 4096) (dst + 4096) k (got + 4096)
def opWeightLoad (b : Block) (c : Cmd) : Block :=
  let r := c.desc
  let n := c.part
  let src := r.u 16 8
  let dst := r.u 24 8
  let len := r.u 32 4
  let host := bit (r.u 36 1) 0
  let srcOk := if host then inAperture b n src len else pvaOk b n .hubRead0 src len
  checked b c [(!srcOk || !pvaOk b n .weightWrite dst len, .protection), (src % 64 != 0 || dst % 4096 != 0 || len % 4096 != 0, .alignment),
    (!bodyOk r [(16, 21)] || !decide (r.u 36 1 < 2), .descInvalid)] fun b =>
    if len = 0 then finish b c.id .done
    else if host then
      if !kwUp b then finish b c.id .linkDown
      else hostReads (modCmd b c.id fun c => { c with left := len }) c .weightWrite src dst (len / 4096 + 2) len
    else
      let (got, st, b) := pvaCopy b n src dst (len / 4096) 0
      finish b c.id st got
def execWeightLoad (n : Fin 16) (r : Rec) (s : State) : Out := act (ringCmd 0x03 opWeightLoad n r) s
def opHostCopy (b : Block) (c : Cmd) : Block :=
  let r := c.desc
  let n := c.part
  let h := r.u 16 8
  let pva := r.u 24 8
  let len := r.u 32 4
  let out := bit (r.u 36 1) 0
  let acc : Access := if out then .hubRead0 else .hubWrite0
  checked b c [(!inAperture b n h len || !pvaOk b n acc pva len, .protection), (h % 64 != 0 || pva % 64 != 0, .alignment),
    (!bodyOk r [(16, 21)] || !decide (r.u 36 1 < 2) || len % 64 != 0 || !decide (len ≤ 2 ^ 30), .descInvalid)] fun b =>
    if len = 0 then finish b c.id .done
    else if !kwUp b then finish b c.id .linkDown
    else
      let (bad, b) := if out then pvaCheck b n acc pva len else (false, b)
      if bad then finish b c.id .uncorrectable else
      let b := modCmd b c.id fun c => { c with left := len }
      if out then hostWrites b c acc h pva (len / 512 + len / 2 ^ 21 + 2) len else hostReads b c acc h pva (len / 4096 + len / 2 ^ 21 + 2) len
def execHostCopy (n : Fin 16) (r : Rec) (s : State) : Out := act (ringCmd 0x10 opHostCopy n r) s
/-- HOST_NOTIFY commits when every earlier command has, and then sends NOTIFY (R479). -/
def opHostNotify (b : Block) (c : Cmd) : Block :=
  checked b c [(!bodyOk c.desc [(16, 1)], .descInvalid)] fun b =>
    finish (modCmd b c.id fun c => { c with notes := [(1, c.desc.u 16 1)] }) c.id .done
def execHostNotify (n : Fin 16) (r : Rec) (s : State) : Out := act (ringCmd 0x11 opHostNotify n r) s

/-! The partition table (R400 to R406). -/
/-- PART_OP_STATUS after a write of PART_OP. -/
def opStatus (b : Block) (op n res : Nat) : Block := b.modHub fun h => { h with opStatus := op * 2 + n * 8 + res * 128 }
/-- Clears every counter of a partition that is cleared when the partition is assigned. -/
def clearCounters (b : Block) (n : Nat) : Block :=
  let ranges := [(0xC7F52000 + 0x100 * n, 0x100), (0xC7F54800 + 0x80 * n, 0x80), (0xC7F58800 + 0x80 * n, 0x80), (0xC7F5C800 + 0x80 * n, 0x80),
                 (0xC7F60800 + 0x80 * n, 0x80), (0xC7F71000 + 0x100 * n, 0x100)]
  { b with cnts := ranges.foldl (fun m r => mclear m r.1 (r.1 + r.2)) b.cnts }
/-- ASSIGN: every named block is free and not fenced (R400). -/
def assign (b : Block) (n : Nat) : Block :=
  let p := b.part n
  let blks := partBlocks b n
  if p.st ≠ .free then opStatus b 1 n 1
  else if blks.any fun k => (blockOwner b k).isSome || bit b.hub.fence k then opStatus b 1 n 2
  else
    let b := opStatus (b.modPart n fun p => { p with st := .active, killCause := 0, cellsZeroed := false, memZeroed := false }) 1 n 0
    let b := partMeasClear (clearCounters (tallyZero b n) n) n
    let b := b.each (partCells b n) fun b k => b.modCell k fun c => { c with part := n, assigned := true }
    let b := b.each (List.range 2048) fun b i => if (b.win n i).late = 0 then b else b.modWin n i fun w => { w with late := 0 }
    eventPlat b n 0x0903 .done 0 chipLoc (detail [(16, 1, n), (17, 1, blks.length)])
/-- PART_OP KILL. -/
def killOp (b : Block) (n : Nat) : Block :=
  match (b.part n).st with
  | .active => killPart (opStatus b 2 n 0) n 1
  | .free => opStatus b 2 n 1
  | _ => opStatus b 2 n 3
/-- PART_OP SYNC: every cache drops its entries; the write completes when every transfer already translated has finished. -/
def syncOp (b : Block) (n : Nat) : Block :=
  let b := opStatus (dropXlate b n fun _ => true) 3 n 0
  unmapPump (b.modHub fun h => { h with syncing := some n })
/-- The stop step of a kill ends; zeroing starts (R404 step 3). -/
def killStopDone (n : Fin 16) (b : Block) : Block :=
  if (b.part n).st ≠ .killing then b else
  let b := b.modPart n fun p => { p with st := .scrubbing, stopAt := b.now, scrubBytes := p.zeroList.foldl (fun a z => a + z.2) 0 }
  b.each (partCells b n) fun b k => b.modCell k fun c => { (c.startZero b.cycles) with fenced := c.fenced }
def execKillStopDone (n : Fin 16) (s : State) : Out := act (killStopDone n) s
/-- Both zeroings have ended: the partition is FREE (R404 step 4). -/
def partScrubbed (n : Fin 16) (b : Block) : Block :=
  let p := b.part n
  let cells := partCells b n
  if p.st ≠ .scrubbing || cells.any (fun k => (b.cell k).zeroing) then b else
  let b := b.each p.zeroList fun b z => b.memZero z.1 z.2
  let b := b.modHub fun h => { h with pageOwner := h.pageOwner.filter fun e => e.2 != n.val + 1 }
  let b := b.modPart n fun p => { p with st := .free, zeroList := [], cellsZeroed := true, memZeroed := true }
  let b := b.each cells fun b k => b.modCell k fun c => { c with assigned := false, part := 0 }
  eventPlat b n 0x0902 .done 0 chipLoc (detail [(16, 1, n), (20, 4, (b.now - p.killAt) / 1000)])
def execPartScrubbed (n : Fin 16) (s : State) : Out := act (partScrubbed n) s
/-- Bytes ÷ 1.6 TB/s in ns. -/
def zeroNs (bytes : Nat) : Nat := bytes / 1600
def scrubBoundExpiry (n : Fin 16) (b : Block) : Block :=
  let p := b.part n
  if p.st = .scrubbing ∧ !p.scrubLate ∧ p.stopAt + 10000000 + zeroNs p.scrubBytes < b.now then
    eventPlat (b.modPart n fun p => { p with scrubLate := true }) n 0x0902 .timeout 0 chipLoc
      (detail [(16, 1, n), (20, 4, (b.now - p.killAt) / 1000)])
  else b
def execScrubBoundExpiry (n : Fin 16) (s : State) : Out := act (scrubBoundExpiry n) s

end Sys2Proof.Machine
end

