-- ==== Sys2Proof/Machine/Stream.lean ====
section
/-!
DEFINITION. Machine/Stream.lean: the stream engines of a cell (spec 06).
-/
namespace Sys2Proof.Machine

/-! The descriptor (R162, R163). -/
def sdKind (d : Rec) : Nat := d.u 0 1
def sdSrcSpace (d : Rec) : Nat := d.u 1 1 % 4
def sdDstSpace (d : Rec) : Nat := bits (d.u 1 1) 2 2
def sdSrcTag (d : Rec) : Nat := d.u 2 1 % 4
def sdDstFull (d : Rec) : Bool := bit (d.u 2 1) 2
def sdIdxTag (d : Rec) : Nat := bits (d.u 2 1) 3 2
def sdLook (d : Rec) : Bool := bit (d.u 3 1) 0
def sdWeight (d : Rec) : Bool := bit (d.u 3 1) 1
def sdIdxSize (d : Rec) : Nat := if bit (d.u 3 1) 2 then 4 else 2
def sdRepeat (d : Rec) : Nat := bits (d.u 3 1) 4 4
def sdRowBytes (d : Rec) : Nat := d.u 20 4
def sdRows (d : Rec) : Nat := d.u 24 4
def sdSrcStride (d : Rec) : Nat := d.u 28 4
def sdDstStride (d : Rec) : Nat := d.u 32 4
def sdExt (d : Rec) : Nat := d.u 56 8
/-- An encoded address of a space (R163). -/
def addrOf (space v : Nat) : Addr :=
  if space ≤ 1 then { space := space, lcell := if space = 1 then bits v 32 10 else 0, buf := bits v 0 8, off := bits v 8 23 }
  else { space := space, off := v }
def Addr.move (a : Addr) (d : Nat) : Addr := { a with off := a.off + d }
/-- An address in the encoding of its space. -/
def Addr.encode (a : Addr) : Nat := if a.space ≤ 1 then a.buf + a.off * 256 + a.lcell * 2 ^ 32 else a.off
/-- Whether the reserved bits of an encoded address are zero. -/
def addrForm (space v : Nat) : Bool := match space with
  | 0 => decide (v < 2 ^ 31) | 1 => !bit v 31 && decide (v < 2 ^ 42) | 2 => decide (v < 2 ^ 40) | _ => decide (v < 2 ^ 32)
def sdSrc (d : Rec) : Addr := addrOf (sdSrcSpace d) (d.u 4 8)
def sdDst (d : Rec) : Addr := addrOf (sdDstSpace d) (d.u 12 8)
/-- Source and destination of entry `i` with index value `x` (R170; a move takes `x = i`). -/
def sdRow (d : Rec) (i x : Nat) : Addr × Addr :=
  let s := sdSrc d
  let t := sdDst d
  match sdKind d with
  | 0 => (s.move (i * sdSrcStride d), t.move (i * sdDstStride d))
  | 1 => (s.move (x * sdSrcStride d), t.move (i * sdDstStride d))
  | _ =>
    let per := d.u 44 2
    (s.move (i / 2 ^ sdRepeat d * sdSrcStride d),
     if per = 0 then t.move (x * sdDstStride d) else { t with lcell := t.lcell + x / per, off := t.off + x % per * sdDstStride d })
/-- Whether a tally field names no tally or one below the quota. -/
def tallyField (b : Block) (n h : Nat) : Bool := h == 0xFFFF || tallyOk b n h
/-- Validation of a descriptor (R161 to R163, R551). A move has no index values, so IDX_LIMIT bounds gathers and scatters only; the
alignment rules are those of SRC, DST, ROW_BYTES and the strides, the digests and index entries being read outside any transfer
(DEDUCED, log entry 85). -/
def streamCheck (b : Block) (k : Nat) (d : Rec) : Option Status :=
  let c := b.cell k
  let p := b.part c.part
  let kind := sdKind d
  let ss := sdSrcSpace d
  let ds := sdDstSpace d
  let fl := d.u 3 1
  let w := sdWeight d
  let rb := sdRowBytes d
  let rows := sdRows d
  let s := sdSrc d
  let t := sdDst d
  let al := if w then 4096 else 64
  let own : Bool := kind != 0 ||
    ((ds != 0 || (c.bufAddr t.buf t.off ((rows - 1) * sdDstStride d + rb) (!w)).isSome) &&
     (ss != 0 || (c.bufAddr s.buf s.off ((rows - 1) * sdSrcStride d + rb) false).isSome))
  let idx := d.u 36 4
  let idxOk : Bool := kind == 0 || (c.bufAddr (bits idx 0 8) (bits idx 8 23) (rows * sdIdxSize d) false).isSome
  let toWeight : Bool := ds == 0 && !w && (c.buf t.buf).valid && (c.buf t.buf).weight
  let ext := sdExt d
  refuse [
    (decide (p.st = .scrubbing ∨ p.st = .killing), .scrubbing),
    (!own || !idxOk || toWeight, .protection),
    (s.off % al != 0 || t.off % al != 0 || rb % al != 0 || sdSrcStride d % al != 0 || sdDstStride d % al != 0, .alignment),
    (!decide (kind < 3) || !decide (d.u 1 1 < 16) || sdSrcTag d == 3 || sdIdxTag d == 3 || !decide (d.u 2 1 < 32) || bit fl 3 ||
      !decide (sdRepeat d ≤ 4) || !decide (64 ≤ rb) || !decide (rb ≤ 8388608) || !decide (1 ≤ rows) || !decide (rows ≤ 16777216) ||
      bit idx 31 || (kind != 0 && d.u 40 4 == 0) || (ss == 0) == (ds == 0) || ss == 3 || !addrForm ss (d.u 4 8) || !addrForm ds (d.u 12 8) ||
      !tallyField b c.part (d.u 46 2) || !tallyField b c.part (d.u 52 2) || (d.u 52 2 != 0xFFFF && d.u 54 2 == 0) ||
      (sdRepeat d != 0 && kind != 2) || (d.u 44 2 != 0 && (kind != 2 || ds != 1)) || (w && (kind != 0 || ss != 2 || ds != 0)) ||
      (if ds = 3 then decide (2 ^ 44 ≤ ext) else if w then decide (2 ^ 40 ≤ ext) else ext != 0), .descInvalid)]

/-! Making transfers (R164, R169, R170). -/
/-- Bytes up to the next boundary that a transfer must not cross. -/
def Addr.cut (a : Addr) : Nat := if a.space = 2 then 2 ^ 21 - a.off % 2 ^ 21 else 1024 - a.off % 1024
/-- What the index reader finds at entry `i`. -/
inductive IdxRd where
  | wait | skip | bad (st : Status) | row (x : Nat)
  deriving DecidableEq, Repr
def idxAddr (d : Rec) (i : Nat) : Addr := let v := d.u 36 4; { buf := bits v 0 8, off := bits v 8 23 + i * sdIdxSize d }
def readIdx (b : Block) (k id : Nat) (d : Rec) (i : Nat) : IdxRd × Block :=
  if sdKind d = 0 then (.row i, b) else
  let c := b.cell k
  let sz := sdIdxSize d
  let a := idxAddr d i
  match c.bufAddr a.buf a.off sz false with
  | none => (.bad .protection, b)
  | some p =>
    let (free, b) := if sdIdxTag d = 0 then (true, b) else tagTake b k id [(8192 * k + p / 1024, 1)]
    if !free then (.wait, b) else
    match storeRead b k p sz (4 + 8 * id) with
    | (.ok v, b) => (if v = 2 ^ (8 * sz) - 1 then .skip else if d.u 40 4 ≤ v then .bad .protection else .row v, b)
    | (.bad _ _, b) => (.bad .uncorrectable, b)
    | (.refetch _, b) => (.wait, b)
def modStream (b : Block) (k : Nat) (o : Bool) (f : Stream → Stream) : Block := b.modCell k fun c => c.setStrm o (f (c.strm o))
def modEnt (b : Block) (k : Nat) (o : Bool) (id : Nat) (f : SEntry → SEntry) : Block :=
  modStream b k o fun s => { s with q := s.q.map fun e => if e.id = id then f e else e }
def modXfer (b : Block) (k : Nat) (o : Bool) (id x : Nat) (f : Xfer → Xfer) : Block :=
  modEnt b k o id fun e => { e with win := e.win.map fun y => if y.id = x then f y else y }
def entOf (b : Block) (k : Nat) (o : Bool) (id : Nat) : Option SEntry := ((b.cell k).strm o).q.find? fun e => e.id == id
def SEntry.drained (e : SEntry) : Bool := decide (sdRows e.desc ≤ e.nrow)
/-- The started descriptors that may issue: those older than the oldest that has faulted (R174). -/
def Stream.active (s : Stream) : List SEntry := (s.q.filter fun e => e.started).takeWhile fun e => !e.faulty
def Xfer.holds (x : Xfer) : Bool := x.st == .todo || x.st == .flight
/-- Transfer slots in use. -/
def Stream.slots (s : Stream) : Nat := (s.q.map fun e => e.win.countP Xfer.holds).sum + s.zombies.length
/-- A transfer fails: it does not land, the granules it claimed become EMPTY, and the engine stops (R147, R174). -/
def failXfer (b : Block) (k : Nat) (o : Bool) (id : Nat) (x : Xfer) (st : Status) (a : Addr) : Block :=
  match entOf b k o id with
  | none => b
  | some e =>
    let mine := (x.dst.keys x.len).filter e.claims.contains
    let b := modEnt (setKeys b mine 0) k o id fun e => { e with claims := e.claims.filter fun g => !mine.contains g }
    let b := modXfer b k o id x.id fun y => { y with st := .failed, fault := st, fspace := a.space, faddr := a.encode }
    modStream b k o fun s => { s with stop := true }
/-- The mark that a refused index entry leaves in the window: its descriptor halts there (R170). -/
def Xfer.pseudo (x : Xfer) : Bool := x.len == 0
/-- Makes the next transfer of an entry, or ends its row; false where it can make none now. -/
def genXfer (b : Block) (k : Nat) (o : Bool) (e : SEntry) : Bool × Block :=
  let d := e.desc
  if e.drained || decide (8 ≤ e.win.length) || e.win.any Xfer.pseudo then (false, b) else
  let piece (b : Block) (s t : Addr) : Bool × Block :=
    let s' := s.move e.nbyte
    let t' := t.move e.nbyte
    let l := min (min (min 1024 (sdRowBytes d - e.nbyte)) s'.cut) t'.cut
    let (id, b) := b.newId
    let x : Xfer := { id := id, row := e.nrow, byte := e.nbyte, len := l, sa := s', da := t', cmd := e.id }
    let ends := decide (sdRowBytes d ≤ e.nbyte + l)
    (true, modEnt b k o e.id fun e => { e with win := e.win ++ [x], nrow := if ends then e.nrow + 1 else e.nrow,
                                               nbyte := if ends then 0 else e.nbyte + l, cur := if ends then none else some (s, t) })
  match e.cur with
  | some (s, t) => piece b s t
  | none =>
    let i := e.nrow
    -- the granule of the list whose last entry this is
    let mark (b : Block) : Block :=
      if sdKind d = 0 ∨ sdIdxTag d ≠ 2 then b else
      match (b.cell k).bufAddr (idxAddr d i).buf (idxAddr d i).off (sdIdxSize d) false with
      | none => b
      | some p => if i + 1 = sdRows d ∨ (p + sdIdxSize d) % 1024 = 0 then
          modEnt b k o e.id fun e => { e with idxLeft := e.idxLeft ++ [8192 * i + p / 1024] } else b
    match readIdx b k e.id d i with
    | (.wait, b) => (false, b)
    | (.skip, b) => (true, mark (modEnt (b.countC k (if o then 0x50850 else 0x40850)) k o e.id fun e => { e with nrow := i + 1 }))
    | (.bad st, b) =>
      let (id, b) := b.newId
      let x : Xfer := { id := id, row := i, byte := 0, len := 0, fault := st }
      (true, modEnt b k o e.id fun e => { e with win := e.win ++ [x] })
    | (.row x, b) => let (s, t) := sdRow d i x; piece (mark b) s t

/-! Issuing (R164 to R168, R180). -/
/-- Looks a page up in the translation cache of a cell, filling it round-robin (R165); EN is tested on every access (R57). -/
def xlate (b : Block) (k : Nat) (o : Bool) (acc : Access) (pva : Nat) : Option Nat × Block :=
  let c := b.cell k
  let vpn := pva / 2 ^ 21
  let use (e : Nat) : Option Nat := if mttV e && mttAllows e acc then some (pageMpa (mttKey e) + pva % 2 ^ 21) else none
  if 2 ^ 40 ≤ pva || !(b.part c.part).mttEn then (none, b) else
  match c.xlate.find? fun x => x.vpn == vpn with
  | some x => (use x.entry, b)
  | none =>
    let b := b.countC k (if o then 0x50820 else 0x40820)
    let e := mttEntry b c.part vpn
    let b := if mttV e then b.modCell k fun c =>
        if c.xlate.length < 32 then { c with xlate := c.xlate ++ [{ vpn := vpn, entry := e }] }
        else { c with xlate := c.xlate.set c.xlateNext { vpn := vpn, entry := e }, xlateNext := (c.xlateNext + 1) % 32 } else b
    (use e, b)
/-- The store bytes of an own or remote address (R38 to R40). -/
def storeSide (b : Block) (k : Nat) (a : Addr) (len : Nat) (write : Bool) : Option Side :=
  let cell : Option Nat := if a.space = 0 then some k else
    if a.space ≠ 1 ∨ 1024 ≤ a.lcell then none else match mget 0 (b.part (b.cell k).part).cellMap a.lcell with | 0 => none | q + 1 => some q
  match cell with
  | none => none
  | some q => if 2 ^ 23 ≤ a.off then none else ((b.cell q).bufAddr a.buf a.off len write).map (Side.store q)
/-- Resolves one side of a transfer at issue. -/
def sideOf (b : Block) (k : Nat) (o : Bool) (d : Rec) (a : Addr) (len : Nat) (write : Bool) : Option Side × Block :=
  match a.space with
  | 2 =>
    let acc : Access := if write then .tenantWrite else if sdWeight d then .weightRead else .tenantRead
    let (m, b) := xlate b k o acc a.off
    (m.map Side.mem, b)
  | 3 => (if a.off + len ≤ 2 ^ 32 then some (.window (sdExt d) a.off) else none, b)
  | _ => (storeSide b k a len (write && !sdWeight d), b)
/-- The place of the digest of the block that a weight transfer begins (R168). -/
def digestAt (d : Rec) (x : Xfer) : Nat := sdExt d + 8 * (x.row * (sdRowBytes d / 4096) + x.byte / 4096)
/-- Reads the digest before its block's first transfer. -/
def readDigest (b : Block) (k : Nat) (o : Bool) (d : Rec) (x : Xfer) : Except Status Nat × Block :=
  if !sdWeight d || x.byte % 4096 != 0 then (.ok 0, b) else
  match xlate b k o .tenantRead (digestAt d x) with
  | (none, b) => (.error .protection, b)
  | (some m, b) => match memCheck b (b.cell k).part m 8 with
    | (true, b) => (.error .uncorrectable, b)
    | (false, b) => (.ok (b.memRead m 8), b)
/-- Whether a window write of this transfer is still on its way: the one that a resumed transfer makes again (R176). -/
def windowPending (b : Block) (k : Nat) (o : Bool) (x ext : Nat) : Bool :=
  let me : Origin := .xfer k o x
  let c := b.conn (bits ext 0 13)
  (b.hub.winq.any (·.from_ == me)) || (b.hub.winAcc.any (·.from_ == me)) || (c.out.any (·.from_ == me)) || c.wait.any (·.2 == me)
/-- Sends a window write to its module (R50, R346, R360). -/
def sendWindow (b : Block) (k : Nat) (o : Bool) (x ext off len data : Nat) : Block :=
  let node := bits ext 0 13
  let w : WinWrite := { node := nodeId b, part := bits ext 13 4, index := bits ext 17 11, gen := bits ext 28 16, off := off, len := len, data := data,
                        from_ := .xfer k o x }
  if node = nodeId b then b.modHub fun h => { h with winq := h.winq ++ [w] }
  else connSend b (mkPkt 1 0 node (nodeId b) w.part (b.cell k).part len [(16, 2, w.index), (18, 2, w.gen), (20, 4, off), (24, 4, x % 2 ^ 32)] data) (.xfer k o x)
/-- Tries to issue a transfer; it keeps its slot while a tag, a cancelled transfer or a refetch holds it up. A refused index
entry halts the descriptor once every transfer before it has issued (R170). -/
def issueXfer (b : Block) (k : Nat) (o : Bool) (e : SEntry) (x : Xfer) : Block :=
  let d := e.desc
  if x.pseudo then if e.win.any fun y => y.st == .todo && !y.pseudo then b else failXfer b k o e.id x x.fault (idxAddr d x.row) else
  let s := storeSide b k x.sa x.len false
  let t := storeSide b k x.da x.len (!sdWeight d)
  let sk := if x.sa.space ≤ 1 then (s.map (Side.keys x.len)).getD [] else []
  let tk := if x.da.space ≤ 1 then (t.map (Side.keys x.len)).getD [] else []
  let claim := if sdDstFull d then tk.filter fun g => !e.claims.contains g else []
  let held := ((b.cell k).strm o).zombies.any fun z => (z.dst.keys z.len).any tk.contains
  let (free, b) := tagTake b k x.id ((if sdSrcTag d = 0 then [] else sk.map (·, 1)) ++ claim.map (·, 0))
  if !free || held then b else
  match readDigest b k o d x with
  | (.error st, b) => failXfer b k o e.id x st { space := 2, off := digestAt d x }
  | (.ok dig, b) =>
    match sideOf b k o d x.sa x.len false with
    | (none, b) => failXfer b k o e.id x .protection x.sa
    | (some s, b) =>
      match sideOf b k o d x.da x.len true with
      | (none, b) => failXfer b k o e.id x .protection x.da
      | (some t, b) =>
        let b := modEnt (setKeys b claim 2) k o e.id fun e => { e with claims := e.claims ++ claim, reads := if sdSrcTag d = 2 then (e.reads ++ sk).eraseDups else e.reads }
        let go (b : Block) : Block := let b := b.newId.2; modXfer b k o e.id x.id fun x => { x with st := .flight, at_ := b.now, src := s, dst := t, dig := dig, sent := b.hub.nextId }
        match t with
        | .window ext off => if x.answer.isSome || windowPending b k o x.id ext then go b else match s with
          | .store q p =>
            -- a window write carries its bytes as it leaves
            match storeRead b q p x.len (4 + 8 * x.id) with
            | (.ok v, b) => sendWindow (go b) k o x.id ext off x.len v
            | (.bad _ _, b) => failXfer b k o e.id x .uncorrectable x.sa
            | (.refetch _, b) => b
          | .mem m =>
            match memCheck b (b.cell k).part m x.len with
            | (true, b) => failXfer b k o e.id x .uncorrectable x.sa
            | (false, b) => sendWindow (go b) k o x.id ext off x.len (b.memRead m x.len)
          | _ => go b
        | _ => go b

/-! Completing (R166, R167, R169). -/
/-- Whether rows `lo` to `hi - 1` of a pitch `s` from `base`, `rb` bytes each, touch the KiB granule `g`. -/
def rowsTouch (base s rb lo hi g : Nat) : Bool :=
  if hi ≤ lo then false
  else if s = 0 then decide (base < 1024 * (g + 1)) && decide (1024 * g < base + rb)
  else
    let first := max lo (if base + rb ≤ 1024 * g then (1024 * g - base - rb) / s + 1 else 0)
    decide (first < hi) && decide (base + first * s < 1024 * (g + 1))
/-- Whether an entry still has bytes to move that touch a granule; the granule's side has fixed addresses. -/
def futureTouch (b : Block) (k : Nat) (e : SEntry) (dst : Bool) (key : Nat) : Bool :=
  let d := e.desc
  let a := if dst then sdDst d else sdSrc d
  let fixed := if dst then decide (sdKind d ≠ 2) else decide (sdKind d ≠ 1)
  let stride := if dst then sdDstStride d else sdSrcStride d
  if e.drained then false
  else if !fixed then true
  else match storeSide b k a 0 false with
    | some (.store q base) =>
      if q ≠ key / 8192 then false else
      let rep := if dst then 1 else 2 ^ (if sdKind d = 2 then sdRepeat d else 0)
      let g := key % 8192
      -- the rest of the row in progress, then the rows after it
      let rest := decide (base + e.nrow / rep * stride + e.nbyte < 1024 * (g + 1)) && decide (1024 * g < base + e.nrow / rep * stride + sdRowBytes d)
      rest || rowsTouch base stride (sdRowBytes d) ((e.nrow + 1) / rep) ((sdRows d + rep - 1) / rep) g
    | _ => true
/-- The transfers of an entry whose bytes are not in place yet: for a weight load, until their whole block has passed its digest
check (R150). -/
def SEntry.unsettled (e : SEntry) : List Xfer :=
  e.win.filter fun x => if sdWeight e.desc
    then decide ((e.win.countP fun y => y.row == x.row && y.byte / 4096 == x.byte / 4096 && y.st == .landed) < 4) else x.st != .landed
/-- Granules that the entry has finished with become FULL where it claimed them and EMPTY where it consumes them. -/
def sweepTags (b : Block) (k : Nat) (o : Bool) (id : Nat) : Block :=
  match entOf b k o id with
  | none => b
  | some e =>
    let left := e.unsettled
    let full := e.claims.filter fun g => !left.any (fun x => ((storeSide b k x.da x.len false).map (Side.keys x.len) |>.getD []).contains g) && !futureTouch b k e true g
    let empty := e.reads.filter fun g => !left.any (fun x => ((storeSide b k x.sa x.len false).map (Side.keys x.len) |>.getD []).contains g) && !futureTouch b k e false g
    let idx := e.idxLeft.filter fun i => decide (i / 8192 < e.nrow) && !e.win.any fun x => x.st == .todo && decide (x.row ≤ i / 8192)
    let b := setKeys (setKeys (setKeys b full 1) empty 0) (idx.map fun i => 8192 * k + i % 8192) 0
    modEnt b k o id fun e => { e with claims := e.claims.filter (fun g => !full.contains g), reads := e.reads.filter (fun g => !empty.contains g),
                                      idxLeft := e.idxLeft.filter fun i => !idx.contains i }
/-- Moves an entry's position past what has landed; the blocks of a weight load pass whole. -/
def landedPrefix (w : Bool) : Nat → List Xfer → List Xfer
  | 0, l => l
  | n + 1, l =>
    let k := if w then 4 else 1
    if (l.take k).length = k ∧ (l.take k).all (fun x => x.st == .landed) then landedPrefix w n (l.drop k) else l
/-- Completes a descriptor of which every transfer has landed (R167). -/
def completeEntry (b : Block) (k : Nat) (o : Bool) (id : Nat) : Block :=
  match entOf b k o id with
  | none => b
  | some e =>
    let e' := { e with win := landedPrefix (sdWeight e.desc) 8 e.win }
    let b := modEnt b k o id fun _ => e'
    if !e'.started || !e'.drained || !e'.win.isEmpty then b else
    let d := e.desc
    let st := e.bad.getD .done
    let b := modStream b k o fun s => { s with q := s.q.filter fun x => x.id != id }
    let b := if st = .done then (doneTally b (b.cell k).part k (d.u 52 2) (d.u 54 2)).countC k (if o then 0x50800 else 0x40800) else b
    b.modCell k fun c => (c.tokenDone e.thr e.tok st e.flags).sweepFences
/-- Where the engine has stopped for a fault, nothing of the faulted descriptor and of younger ones is in flight and the
older ones are complete, the engine enters HALTED (R174, R175). -/
def enterHalt (b : Block) (k : Nat) (o : Bool) : Block :=
  let s := (b.cell k).strm o
  if !s.stop || s.halted then b else
  match (s.q.filter (·.started)) with
  | [] => b
  | e :: rest =>
    if !e.faulty || (e :: rest).any (fun y => y.win.any Xfer.isFlight) then b else
    let pos := (e.win.find? fun x => x.st != .landed).getD { id := 0, row := e.nrow, byte := e.nbyte, len := 0 }
    let bad := (e.win.find? Xfer.isBad).getD pos
    let after := (e.win.dropWhile fun x => x.st == .landed).drop 1
    let mask := (List.range 7).foldl (fun a i => match after[i]? with | some x => if x.st == .landed then a + 2 ^ i else a | none => a) 0
    let h : Halt := { status := bad.fault.code, thr := e.thr, tok := e.tok, row := pos.row, byte := pos.byte, addr := bad.faddr, space := bad.fspace,
                      mask := mask, valid := true }
    let b := (modStream b k o fun s => { s with halted := true, halt := h }).countC k (if o then 0x50838 else 0x40838)
    cellEvent b k 0x0301 bad.fault 0 (cellLoc k (if o then 5 else 4))
      (detail [(16, 1, e.thr), (17, 1, e.tok), (18, 3, pos.row), (21, 3, pos.byte / 64), (24, 6, bad.faddr), (30, 1, bad.fspace), (31, 1, mask)])
/-- Sweeps every entry of an engine. -/
def sweepAll (b : Block) (k : Nat) (o : Bool) : Block :=
  let ids := (((b.cell k).strm o).q.filter (·.started)).map (·.id)
  enterHalt (b.each ids fun b id => completeEntry (sweepTags b k o id) k o id) k o
/-- Retries the transfers that hold slots without being in flight, oldest first. -/
def retryTodo (b : Block) (k : Nat) (o : Bool) : Block :=
  b.each (((b.cell k).strm o).active.map (·.id)) fun b id =>
    match entOf b k o id with
    | none => b
    | some e => b.each ((e.win.filter fun x => x.st == .todo).map (·.id)) fun b xid =>
      match entOf b k o id with
      | none => b
      | some e => match e.win.find? fun x => x.id == xid with
        | some x => if e.faulty then b else issueXfer b k o e x
        | none => b
/-- Fills free slots from the oldest started descriptors that have data left. -/
def fillSlots (k : Nat) (o : Bool) : Nat → Block → Block
  | 0, b => b
  | fuel + 1, b =>
    let s := (b.cell k).strm o
    if 8 ≤ s.slots then b else
    let (more, b) := s.active.foldl (fun (a : Bool × Block) e => if a.1 then a else genXfer a.2 k o e) (false, b)
    if more then fillSlots k o fuel b else b
/-- Transfers issue and descriptors complete as far as they can. -/
def streamPump (b : Block) (k : Nat) (o : Bool) : Block :=
  let rows := (((b.cell k).strm o).active.map fun e => sdRows e.desc - e.nrow).sum
  sweepAll (retryTodo (fillSlots k o (rows + 32) (sweepAll b k o)) k o) k o

/-! STREAM_DESCRIPTOR_START (R160, R161, R171). -/
def lookaheadDepth (b : Block) (k : Nat) (o : Bool) : Nat := bits (b.reg (cellBase k + if o then 0x50008 else 0x40008) 4) 0 5
/-- The engine starts the first descriptor of its queue that has not started, if nothing holds it. -/
def streamStart (k : Fin 800) (o : Bool) (b : Block) : Block :=
  let b := b.modCell k Cell.sweepFences
  let s := (b.cell k).strm o
  let b := streamPump b k o
  if !cellLive (b.cell k) || s.stop then b else
  match s.q.find? fun e => !e.started with
  | none => b
  | some e =>
    let d := e.desc
    let older := (s.q.takeWhile fun x => x.id != e.id).filter fun x => !x.fence
    let room := if sdLook d then decide (older.length < max 1 (lookaheadDepth b k o)) else older.isEmpty
    if e.fence || !room then b else
    let n := (b.cell k).part
    let h := d.u 46 2
    let (go, b) := if tallyOk b n h then engineWait b n k (if o then 9 else 8) h (d.u 48 4) e.id else (true, b)
    if !go then b else
    match streamCheck b k d with
    | some st =>
      let b := (modStream b k o fun s => { s with q := s.q.filter fun x => x.id != e.id }).countC k (if o then 0x50808 else 0x40808)
      b.modCell k fun c => (c.tokenDone e.thr e.tok st {}).sweepFences
    | none =>
      let b := if older.isEmpty then b else b.countC k (if o then 0x50828 else 0x40828)
      streamPump (modEnt b k o e.id fun e => { e with started := true }) k o
def execStreamDescriptorStart (k : Fin 800) (o : Bool) (s : State) : Out := run (streamStart k o) s

/-! STREAM_TRANSFER_LAND (R154, R165, R167, R179). -/
/-- What becomes of a transfer's bytes. -/
inductive Landing where
  | wait | ok (f : Flags) (bad : Option Status) | fail (st : Status) (dst : Bool)
  deriving DecidableEq, Repr
/-- Moves the bytes of a transfer whose sides are resolved. -/
def moveBytes (b : Block) (k : Nat) (w : Bool) (x : Xfer) : Landing × Block :=
  let n := (b.cell k).part
  let write (b : Block) (v : Nat) : Landing × Block := match x.dst with
    | .mem m => (.ok {} none, b.memWrite m x.len v)
    | .store q p =>
      let (err, b) := accCheck b q p x.len 4
      if err then (.fail .uncorrectable true, b) else
      let (c, f, bad) := (b.cell q).engineWrite p x.len v x.cmd
      (.ok f bad, b.setCell q c)
    | _ => (.ok {} none, b)
  match x.dst with
  | .window _ _ => (match x.answer with | none => .wait | some .done => .ok {} none | some st => .fail st true, b)
  | _ => match x.src with
    | .store q p => match storeRead b q p x.len (4 + 8 * x.id) with
      | (.ok v, b) => write b v
      | (.bad _ _, b) => (.fail .uncorrectable false, b)
      | (.refetch _, b) => (.wait, b)
    | .mem m =>
      -- an uncorrectable word of a weight page fails its block's digest (R513)
      if w then write b (b.memRead m x.len) else
      match memCheck b n m x.len with
      | (true, b) => (.fail .uncorrectable false, b)
      | (false, b) => write b (b.memRead m x.len)
    | _ => (.ok {} none, b)
/-- Counts a landed transfer. -/
def countLanded (b : Block) (k : Nat) (o : Bool) (len : Nat) : Block :=
  b.modCell k fun c => (c.count (if o then 0x50810 else 0x40810)).count (if o then 0x50818 else 0x40818) len
/-- Checks the digest of the weight block that transfer `x` completes, over the bytes that its lines brought (R154, R168). The
refetch map names the later of the rows whose blocks land at one offset. -/
def weightBlock (b : Block) (k : Nat) (o : Bool) (e : SEntry) (x : Xfer) : Block :=
  let same (y z : Xfer) : Bool := y.row == z.row && y.byte / 4096 == z.byte / 4096
  let mine := e.win.filter fun y => same y x
  if mine.length < 4 || mine.any (fun y => y.st != .landed) then b else
  match mine with
  | [] => b
  | f :: _ =>
    let blkNo := x.row * (sdRowBytes e.desc / 4096) + x.byte / 4096
    match f.dst with
    | .store q p =>
      let data := mine.foldr (fun y a => a * 2 ^ (8 * y.len) + y.data) 0
      if crc64 4096 data = f.dig ∧ !(mine.any (·.dirty)) then
        let later := e.win.any fun y => y.dst == f.dst && (decide (f.row < y.row) || (f.row == y.row && decide (f.byte < y.byte))) &&
          decide (4 ≤ e.win.countP fun z => same z y && z.st == .landed)
        if later then b else
        b.modCell q fun c => { c with refetch := mset {} c.refetch (p / 4096) { pva := f.sa.off, digest := f.dig, valid := true } }
      else
        let again := e.retried.contains blkNo
        let b := b.countC k 0x30890
        let ids := mine.map (·.id)
        let b := modEnt b k o e.id fun e => { e with win := e.win.map (fun y => if ids.contains y.id then { y with st := .todo } else y),
                                                      retried := if again then e.retried else e.retried ++ [blkNo] }
        if !again then b else
        let keys := (Side.store q p).keys 4096
        let b := modEnt (setKeys b (keys.filter e.claims.contains) 0) k o e.id fun e => { e with claims := e.claims.filter fun g => !keys.contains g }
        let b := cellEvent b k 0x0204 .uncorrectable 0 (cellLoc k 3) (detail [(16, 4, p), (20, 5, f.sa.off)])
        failXfer b k o e.id f .uncorrectable f.sa
    | _ => b
/-- A cancelled transfer lands: its data enters its destination, a fault is suppressed, its granules become EMPTY (R179). -/
def landZombie (b : Block) (k : Nat) (o : Bool) (x : Xfer) : Block :=
  let (r, b) := moveBytes b k false x
  let drop (b : Block) : Block :=
    let b := modStream b k o fun s => { s with zombies := s.zombies.filter fun z => z.id != x.id }
    let kept := ((b.cell k).strm o).zombies.flatMap (·.claimed)
    setKeys b (x.claimed.filter fun g => !kept.contains g) 0
  match r with
  | .wait => b
  | .ok _ _ => countLanded (drop b) k o x.len
  | .fail _ _ => (drop b).countC k (if o then 0x50848 else 0x40848)
/-- The transfers of an engine that hold slots: cancelled ones first, then by descriptor. -/
def Stream.outstanding (s : Stream) : List (Option Nat × Xfer) :=
  s.zombies.map (fun x => (none, x)) ++ s.q.flatMap fun e => (e.win.filter Xfer.holds).map fun x => (some e.id, x)
/-- The unit that a transfer's data is sent to: a cell's store, or the memory of an E-die; none for the own store and for windows,
which keep an order of their own. -/
def Xfer.unit (x : Xfer) : Option (Bool × Nat) :=
  if x.da.space = 0 then none else match x.dst with
    | .store q _ => some (false, q)
    | .mem m => some (true, mpaEdie m)
    | _ => none
/-- Whether a write that the engine sent earlier to the same unit has not landed: packets between two units arrive in the order
they were sent (R19, R165). -/
def Stream.behind (s : Stream) (x : Xfer) : Bool := x.unit.isSome && s.outstanding.any fun y =>
  y.2.st == .flight && decide (y.2.sent < x.sent) && y.2.unit == x.unit
/-- The `j`-th outstanding transfer of an engine lands, or is answered. -/
def streamLand (k : Fin 800) (o : Bool) (j : Fin 8) (b : Block) : Block :=
  if !cellLive (b.cell k) then b else
  let b := streamPump b k o
  match ((b.cell k).strm o).outstanding[j.val]? with
  | none => b
  | some (none, x) => if ((b.cell k).strm o).behind x then b else unmapPump (landZombie b k o x)
  | some (some id, x) =>
    if x.st ≠ .flight || ((b.cell k).strm o).behind x then b else
    match entOf b k o id with
    | none => b
    | some e =>
      let w := sdWeight e.desc
      let (r, b) := moveBytes b k w x
      let b := match r with
        | .wait => b
        | .fail st dst => failXfer b k o id x st (if dst then x.da else x.sa)
        | .ok f bad =>
          let (v, bad4, b) := match w, x.src with
            | true, .mem m => let (bad, b) := memCheck b (b.cell k).part m x.len; (b.memRead m x.len, bad, b)
            | _, _ => (0, false, b)
          let b := countLanded (modXfer b k o id x.id fun x => { x with st := .landed, data := v, dirty := bad4 }) k o x.len
          let b := modEnt b k o id fun e => { e with flags := e.flags.or f, bad := match e.bad with | some s => some s | none => bad }
          if w then match entOf b k o id with | some e => weightBlock b k o e x | none => b else b
      unmapPump (streamPump b k o)
def execStreamTransferLand (k : Fin 800) (o : Bool) (j : Fin 8) (s : State) : Out := run (streamLand k o j) s

/-! STREAM_TIMEOUT, STREAM_RESUME, STREAM_ABANDON (R174, R176, R367). -/
def streamTimeoutUs (b : Block) (k : Nat) (o : Bool) : Nat := bits (b.reg (cellBase k + if o then 0x50010 else 0x40010) 1000) 0 16
/-- The `j`-th outstanding transfer has had no answer within STREAM_TIMEOUT_US. -/
def streamTimeout (k : Fin 800) (o : Bool) (j : Fin 8) (b : Block) : Block :=
  let us := streamTimeoutUs b k o
  let late (x : Xfer) : Bool := x.st == .flight && us != 0 && decide (x.at_ + 1000 * us ≤ b.now)
  match ((b.cell k).strm o).outstanding[j.val]? with
  | none => b
  | some (none, x) =>
    if !late x then b else
    let b := (modStream b k o fun s => { s with zombies := s.zombies.filter fun z => z.id != x.id }).countC k (if o then 0x50848 else 0x40848)
    let kept := ((b.cell k).strm o).zombies.flatMap (·.claimed)
    setKeys b (x.claimed.filter fun g => !kept.contains g) 0
  | some (some id, x) => if late x then streamPump (failXfer b k o id x .timeout (if x.da.space = 3 then x.da else if x.sa.space = 0 then x.da else x.sa)) k o else b
def execStreamTimeout (k : Fin 800) (o : Bool) (j : Fin 8) (s : State) : Out := run (fun b => unmapPump (streamTimeout k o j b)) s
/-- ABANDON of a halted engine. -/
def abandonHalt (b : Block) (k : Nat) (o : Bool) : Block :=
  match (((b.cell k).strm o).q.filter (·.started)).find? SEntry.faulty with
  | none => b
  | some e =>
    let st := Status.ofCode ((b.cell k).strm o).halt.status
    let b := setKeys b e.claims 0
    let b := modStream b k o fun s => ({ s with q := s.q.filter fun x => x.id != e.id } : Stream).goOn
    let b := cellEvent b k 0x0302 st 0 (cellLoc k (if o then 5 else 4)) (detail [(16, 1, e.thr), (17, 1, e.tok)])
    streamPump (b.modCell k fun c => (c.tokenDone e.thr e.tok st e.flags).sweepFences) k o
/-- A write of STREAM_CTRL. -/
def streamCtrl (b : Block) (k : Nat) (o : Bool) (v : Nat) : Block :=
  let s := (b.cell k).strm o
  if !s.halted then modStream b k o fun s => { s with ctrlIgnored := true }
  else if bit v 1 || (bit v 0 && s.halt.status == Status.linkDown.code) then abandonHalt b k o
  else if bit v 0 then streamPump (modStream b k o Stream.goOn) k o
  else b

end Sys2Proof.Machine
end

