-- ==== Sys2Proof/Machine/Array.lean ====
section
/-!
DEFINITION. Machine/Array.lean: what chains and attention commands share in a cell's matrix array: rows of elements in their
stored formats, products, the feeds, the output port, coins and the end of a command (spec 04, 07, 08).
-/
namespace Sys2Proof.Machine

/-! Format bytes and rows (R104, R105, R191). -/
def fmtElem (f : Nat) : Nat := f % 16
def fmtBlk (f : Nat) : Nat := f / 16
/-- Whether a format byte is legal: X64 and reserved codes are not. -/
def fmtOk (f : Nat) : Bool := match fmtBlk f with
  | 0 => decide (fmtElem f ≤ 9)
  | 1 => [3, 4, 7, 8, 9].contains (fmtElem f)
  | 2 => fmtElem f == 9
  | _ => false
/-- Elements of a block, and of a superblock. -/
def blkLen (f : Nat) : Nat := if fmtBlk f = 2 then 64 else 32
def superLen (f : Nat) : Nat := 64 * blkLen f
/-- Bytes of a superblock's element plane, and of the superblock. -/
def planeBytes (f : Nat) : Nat := superLen f * cvtBits (fmtElem f) / 8
def superBytes (f : Nat) : Nat := planeBytes f + 64 + (if fmtBlk f = 2 then 128 else 0)
/-- Bytes of a row of `n` elements. -/
def rowBytes (f n : Nat) : Nat := if fmtBlk f = 0 then cdiv (n * cvtBits (fmtElem f)) 8 else if fmtOk f then cdiv n (superLen f) * superBytes f else 0
/-- Element `i` of a row whose stored bytes are `raw`. -/
def rowElem (f raw i : Nat) : Fl :=
  let w := cvtBits (fmtElem f)
  if fmtBlk f = 0 then elemVal (fmtElem f) 0 (bits raw (w * i) w) else
    let base := 8 * (i / superLen f * superBytes f)
    let j := i % superLen f
    let q := j / blkLen f
    let x := bits raw (base + 8 * (planeBytes f + q)) 8
    let o := if fmtBlk f = 2 then bits raw (base + 8 * (planeBytes f + 64 + 2 * q) + 2 * (j % 64 / 8)) 2 else 0
    if x = 255 then .nan else (elemVal (fmtElem f) 0 (bits raw (base + w * j) w)).scale ((x : Int) - 127 - o)
def rowDecode (f raw n : Nat) : List Fl := (List.range n).map (rowElem f raw)
/-- A list split into pieces of `k`. -/
def chunks {α : Type} (k : Nat) (l : List α) : List (List α) := (List.range (cdiv l.length k)).map fun i => (l.drop (k * i)).take k
/-- The codes of a list packed in `w` bits each. -/
def packCodes (w : Nat) (l : List Nat) : Nat := l.foldr (fun c a => a * 2 ^ w + c % 2 ^ w) 0
/-- One block encoded by R107; a short block is filled with zeros. -/
def blockOf (f : Nat) (x : List Fl) : Block4 :=
  let fm := (cvtFmt (fmtElem f)).getD e4m3
  encodeBlock (x ++ List.replicate (blkLen f - x.length) (.fin false 0 0)) fm (fmtBlk f == 2)
/-- The pieces of a row that a run of elements from column `col` fills, as (byte offset, bytes, value); with `last` the
padding of the row's last superblock too (R105). A block format's `col` lies on a block boundary. -/
def rowPieces (f col : Nat) (x : List Fl) (last : Bool) : List (Nat × Nat × Nat) :=
  let w := cvtBits (fmtElem f)
  if fmtBlk f = 0 then [(col * w / 8, cdiv (x.length * w) 8, packCodes w (x.map fun v => (toElem (fmtElem f) 0 none v).code))]
  else
    let n := blkLen f
    let at_ (k : Nat) (elems : List Nat) (scale offs : Nat) : List (Nat × Nat × Nat) :=
      let base := k / 64 * superBytes f
      let q := k % 64
      [(base + q * n * w / 8, n * w / 8, packCodes w elems), (base + planeBytes f + q, 1, scale)] ++
      (if fmtBlk f = 2 then [(base + planeBytes f + 64 + 2 * q, 2, offs)] else [])
    let k0 := col / n
    let cs := chunks n x
    let body := (cs.zip (List.range cs.length)).flatMap fun c => let e := blockOf f c.1; at_ (k0 + c.2) e.elems e.scale (packCodes 2 e.offs)
    let k1 := k0 + cs.length
    let pad := if last then (List.range (cdiv k1 64 * 64 - k1)).flatMap fun i => at_ (k1 + i) (List.replicate n 0) 0 0xFFFF else []
    body ++ pad
/-- Values rounded to a format byte and read back (R197, R208); FP32 means no rounding. -/
def roundFl (f : Nat) (x : List Fl) : List Fl :=
  if f = 0 then x
  else if fmtBlk f = 0 then x.map fun v => elemVal (fmtElem f) 0 (toElem (fmtElem f) 0 none v).code
  else (chunks (blkLen f) x).flatMap fun c =>
    let e := blockOf f c
    (List.range c.length).map fun i =>
      if e.scale = 255 then .nan
      else (elemVal (fmtElem f) 0 (e.elems.getD i 0)).scale ((e.scale : Int) - 127 - (if fmtBlk f = 2 then e.offs.getD (i / 8) 0 else 0 : Nat))
def roundRow (f : Nat) (x : List Nat) : List Nat := if f = 0 then x else (roundFl f (x.map f32)).map fp32.arith

/-! Products (R114 to R117). -/
/-- The exact sum of a group's products. -/
def groupSum (a b : List Fl) : Fl := match List.zipWith Fl.mul a b with
  | [] => .fin false 0 0
  | x :: l => l.foldl Fl.add x
/-- R114: one rounding per group of 32. -/
def dotFp (acc : Nat) (a b : List Fl) : Nat :=
  (List.zip (chunks 32 a) (chunks 32 b)).foldl (fun acc g => fp32.arith ((f32 acc).add (groupSum g.1 g.2))) acc
/-- The integer of an exact integer value. -/
def flInt : Fl → Int
  | .fin n m e => let v : Int := ((if 0 ≤ e then m <<< e.toNat else m >>> (-e).toNat) : Nat); if n then -v else v
  | _ => 0
/-- R117: the sum wraps modulo 2^32. -/
def dotInt (acc : Nat) (a b : List Fl) : Nat := wrapN 32 ((List.zipWith (fun x y => flInt x * flInt y) a b).foldl (· + ·) (sx 32 acc))

/-! The array's own steps: each is done whole, or leaves the cell as it was and waits, or ends the command. -/
/-- Why an array command cannot go on: something else holds it, granules and what it needs of them, a weight block under refetch, or a fault at a stage with the state that
it leaves. -/
inductive Stop where
  | wait
  | tags (need : List (Nat × Nat))
  | stall (cell off len : Nat)
  | fault (st : Status) (stage space addr : Nat) (b : Block)
/-- A piece of an array command's work. -/
abbrev Arr := StateT Block (Except Stop)
def arrFault {α : Type} (st : Status) (stage space addr : Nat) : Arr α := do throw (.fault st stage space addr (← get))
/-- The running command of a cell. -/
def runOf (b : Block) (k : Nat) : Option Run := (b.cell k).run
def modRun (b : Block) (k : Nat) (f : Run → Run) : Block := b.modCell k fun c => { c with run := c.run.map f }
/-- The name of a cell's running command. -/
def runId (b : Block) (k : Nat) : Nat := ((runOf b k).map (·.e.id)).getD 0
/-- Waits until the running command may access granules (R149). -/
def tagArr (k : Nat) (need : List (Nat × Nat)) : Arr Unit := do
  let b ← get
  if need.isEmpty then pure () else
  if tagMay b (runId b k) need then set (tagLeave b (runId b k)) else throw (.tags need)
/-- Store bytes as the feeds read them: class 2, after the tags of R554 (R187). -/
def feedAt (k stage enc delta n tag off : Nat) : Arr Nat := do
  let keys := (granules off n).map (8192 * k + ·)
  if tag ≠ 0 then tagArr k (keys.map (·, 1))
  let b ← get
  let b := if tag = 2 then modRun b k fun r => { r with consume := r.consume ++ keys.filter fun g => !r.consume.contains g } else b
  match storeRead b k off n (2 + 8 * runId b k) with
  | (.ok v, b) => set b; pure v
  | (.refetch _, _) => throw (.stall k off n)
  | (.bad _ _, b) => throw (.fault .uncorrectable stage 0 (enc + 256 * delta) b)
/-- Reads `n` bytes at an own-store address moved by `delta`. -/
def feed (k stage enc delta n tag : Nat) : Arr Nat := do
  let a := addrOf 0 enc
  match ((← get).cell k).bufAddr a.buf (a.off + delta) n false with
  | none => arrFault .protection stage 0 (enc + 256 * delta)
  | some off => feedAt k stage enc delta n tag off
/-- A row of `n` elements of a format at an own-store address. -/
def feedRow (k stage f n enc delta tag : Nat) : Arr (List Fl) := do return rowDecode f (← feed k stage enc delta (rowBytes f n) tag) n
/-- A source of format code 0 to 4 converted to FP32. -/
def feedVals (k stage code n enc delta tag : Nat) : Arr (List Nat) := do
  return (← feedRow k stage code n enc delta tag).map fp32.arith
/-- A write of the epilogue: to a store, checked at its cell (R38, R40), or to a PVA (R41, R43); with `claim` it claims its
granules first (R554). The address is where the bytes begin, `shown` the address that a fault reports. -/
def outWrite (k stage : Nat) (a : Addr) (len data : Nat) (claim : Bool) : Arr Unit := do
  let b ← get
  let n := (b.cell k).part
  let port (b : Block) : Block := modRun b k fun r => { r with port := match r.port with
    | some p => some p | none => some { sent := b.now, stage := stage, space := a.space, addr := a.encode } }
  if a.space = 2 then
    if !pvaOk b n .tenantWrite a.off len then arrFault .protection stage 2 a.encode
    else set (port (pvaWrite b n .tenantWrite a.off (pvaFuel len) len data))
  else match storeSide b k a len true with
    | some (.store q off) =>
      let keys := (granules off len).map (8192 * q + ·)
      let held := (runOf b k).map (·.claims) |>.getD []
      let fresh := if claim then keys.filter fun g => !held.contains g else []
      tagArr k (fresh.map (·, 0))
      let b := modRun (setKeys (← get) fresh 2) k fun r => { r with claims := r.claims ++ fresh }
      let b := (accCheck b q off len 2).2
      let acc := (b.cell q).ranges.any fun r => !r.stat && overlaps r.base r.len off len
      let (c, f, bad) := (b.cell q).engineWrite off len data (runId b k)
      let b := modRun (b.setCell q c) k fun r => { r with flags := r.flags.or f, nonReplay := r.nonReplay || acc }
      let b := if a.space = 1 then port b else b
      match bad with
      | some st => throw (.fault st stage a.space a.encode b)
      | none => set b
    | _ => arrFault .protection stage a.space a.encode

/-- The stored bytes at an address, for a write that changes only some bits of them. -/
def bytesAt (b : Block) (k : Nat) (a : Addr) (len : Nat) : Nat :=
  if a.space = 2 then pvaRead b (b.cell k).part .tenantWrite a.off (pvaFuel len) len
  else match storeSide b k a len true with
    | some (.store q off) => (b.cell q).store.read off len
    | _ => 0
/-- Writes `n` bits at bit `s` from an address: the other bits of the first and of the last byte keep their values (log entry 86). -/
def writeBits (k stage : Nat) (a : Addr) (claim : Bool) (s n data : Nat) : Arr Unit := do
  let a := a.move (s / 8)
  let len := cdiv (s % 8 + n) 8
  let b ← get
  outWrite k stage a len (putBits (bytesAt b k a len) (s % 8) n data) claim

/-! Starting and ending a command (R84, R210, R212, R215, R237). -/
/-- The next entry of the array's queue, if the array is idle and the cell alive. -/
def arrHead (b : Block) (k : Nat) (kind : ArrKind) : Option ArrEntry :=
  let c := b.cell k
  if !cellLive c || c.run.isSome || decide (b.cycles < c.zeroEnd) then none else match c.arrq with
    | e :: _ => if e.kind == kind then some e else none
    | [] => none
/-- Refuses the head of the queue: its token has the status, and nothing else changes. `cnt` counts refusals. -/
def arrRefuse (b : Block) (k cnt : Nat) (e : ArrEntry) (st : Status) : Block :=
  arrIdle (b.modCell k fun c => (({ c with arrq := c.arrq.drop 1 }).tokenDone e.thr e.tok st {}).count cnt) k
/-- The command leaves the queue's head, asks for its coins and waits for them. -/
def arrTake (b : Block) (k : Nat) (e : ArrEntry) (coins : Nat) (r : Run) : Block :=
  coinRequest (b.modCell k fun c => { c with arrq := c.arrq.drop 1, zeroTiles := [], run := some { r with e := e, phase := .coins, coins := coins, since := b.now } }) k coins
/-- The frames a command pins (`model * 2^32 + frame`). -/
def pinKeys (b : Block) (n : Nat) (l : List Nat) : Block := b.each l fun b x => pinFrames b n (x / 2 ^ 32) [x % 2 ^ 32]
def unpinKeys (b : Block) (n : Nat) (l : List Nat) : Block := b.each l fun b x => unpinFrames b n (x / 2 ^ 32) [x % 2 ^ 32]
/-- The running command leaves the array: pins, coins, watch and token; granules it claimed are EMPTY unless it committed. -/
def arrLeave (b : Block) (k : Nat) (r : Run) (st : Status) : Block :=
  let b := if st = .done then b else setKeys b r.claims 0
  let b := coinReturn (unpinKeys (watchDrop b k 10) (b.cell k).part r.pins) k
  arrIdle (b.modCell k fun c => ({ c with run := none } : Cell).tokenDone r.e.thr r.e.tok st r.flags) k
/-- The contents of its tiles after a command that faulted are undefined: free values. -/
def looseTiles (b : Block) (k mask : Nat) : Block :=
  b.each ((List.range 8).filter (bit mask)) fun b t => let (v, b) := b.draw; b.modCell k fun c => c.setTile t (BitVec.ofNat 262144 v)
/-- ARRAY_FAULT. -/
def arrFaultReg (b : Block) (k : Nat) (r : Run) (st : Status) (stage rt ct : Nat) : Block :=
  b.modCell k fun c => { c with arrFault := { status := st.code, thr := r.e.thr, tok := r.e.tok, stage := stage, rt := rt, ct := ct, valid := true } }
/-- Runs one piece of work: done, or held up, or ended by `fail`. -/
def arrTry (b : Block) (k : Nat) (m : Arr Unit) (fail : Block → Status → Nat → Nat → Nat → Block) : Bool × Block :=
  match m.run b with
  | .ok (_, b) => (true, b)
  | .error .wait => (false, b)
  | .error (.tags need) => (false, (tagTake b k (runId b k) need).2)
  | .error (.stall q off n) => (false, (storeRead b q off n (2 + 8 * runId b k)).2)
  | .error (.fault st stage sp ad b) => (false, fail b st stage sp ad)
/-- A coin wait that lasts beyond its bound: THROTTLED, and CHAIN_THROTTLED at most once per cell per millisecond. -/
def arrThrottle (b : Block) (k : Nat) (r : Run) : Block :=
  let b := modRun b k fun r => { r with throttled := true, flags := { r.flags with throttled := true } }
  let c := b.cell k
  let due : Bool := match c.throttleAt with | none => true | some t => decide (t + 1000000 ≤ b.now)
  let b := b.countC k 0x20848
  if due then
    cellEvent (b.modCell k fun c => { c with throttleAt := some b.now, throttleSup := 0 }) k 0x0402 .done 0 (cellLoc k 2)
      (detail [(16, 1, r.e.thr), (17, 1, r.e.tok), (18, 1, r.coins), (20, 4, (b.now - r.since) / 1000), (24, 2, c.throttleSup)])
  else b.modCell k fun c => { c with throttleSup := c.throttleSup + 1 }
/-- The registers that a command checks before R11's other checks: the state of its partition. -/
def partScrubbing (b : Block) (n : Nat) : Bool := decide ((b.part n).st = .scrubbing ∨ (b.part n).st = .killing)

end Sys2Proof.Machine
end

