-- ==== Sys2Proof/Machine/Chain.lean ====
section
/-!
DEFINITION. Machine/Chain.lean: m.chain, its validation, its walk over its tiles and its commit (spec 07).
-/
namespace Sys2Proof.Machine

/-! The descriptor (R191). -/
/-- A stage record and its place in the list. -/
structure Stg where
  i : Nat
  r : Rec
  deriving DecidableEq, Repr
def Stg.typ (s : Stg) : Nat := s.r.u 0 1
def Stg.fmt (s : Stg) : Nat := s.r.u 1 1
def Stg.space (s : Stg) : Nat := s.r.u 2 1 % 4
def Stg.full (s : Stg) : Bool := bit (s.r.u 2 1) 2
def Stg.tag (s : Stg) : Nat := bits (s.r.u 2 1) 3 2
def Stg.sub (s : Stg) : Nat := s.r.u 3 1
def Stg.addr (s : Stg) : Nat := s.r.u 4 8
def Stg.stride (s : Stg) : Nat := s.r.u 12 4
def Stg.p1 (s : Stg) : Nat := s.r.u 16 4
def Stg.p2 (s : Stg) : Nat := s.r.u 20 4
def Stg.p3 (s : Stg) : Nat := s.r.u 24 4
def Stg.p4 (s : Stg) : Nat := s.r.u 28 4
/-- Fields of a heart-note record; side 0 is A, side 1 is B. -/
def Stg.opFmt (s : Stg) (side : Nat) : Nat := s.r.u (1 + side) 1
def Stg.opTag (s : Stg) (side : Nat) : Nat := bits (s.r.u 3 1) (2 * side) 2
def Stg.opAddr (s : Stg) (side : Nat) : Nat := s.r.u (4 + 8 * side) 4
def Stg.opStride (s : Stg) (side : Nat) : Nat := s.r.u (8 + 8 * side) 4
def Stg.n (s : Stg) : Nat := s.r.u 20 4
def Stg.k (s : Stg) : Nat := s.r.u 24 4
def Stg.outFmt (s : Stg) : Nat := s.r.u 28 1
def Stg.isTop (s : Stg) : Bool := decide (1 ≤ s.typ ∧ s.typ ≤ 3)
def Stg.isBase (s : Stg) : Bool := decide (0x20 ≤ s.typ ∧ s.typ ≤ 0x2C)
def Stg.is (s : Stg) (t : Nat) : Bool := s.typ == t

/-- A part of the stage list (R201): its heart note, TILE_LOAD or DRYDOWN, the top notes before it, the base notes after it. -/
structure CPart where
  head : Stg
  tops : List Stg
  bases : List Stg
  deriving DecidableEq, Repr
def CPart.heart (s : CPart) : Bool := s.head.is 0x10
def CPart.dry (s : CPart) : Bool := s.head.is 0x30
def CPart.has (s : CPart) (t : Nat) : Bool := s.bases.any (·.is t)
def CPart.headW (s : CPart) : Nat := if s.heart then s.head.n else s.head.p1
/-- A chain: its header and its parts, the drydown last. -/
structure Chain where
  h : Rec
  secs : List CPart
  deriving DecidableEq, Repr
def Chain.strict (c : Chain) : Bool := bit (c.h.u 1 1) 0
def Chain.cont (c : Chain) : Bool := bit (c.h.u 1 1) 1
def Chain.rowmap (c : Chain) : Bool := bit (c.h.u 1 1) 2
def Chain.mask (c : Chain) : Nat := c.h.u 2 1
def Chain.m (c : Chain) : Nat := c.h.u 4 4
def Chain.hold (c : Chain) : Nat := c.h.u 12 4
def Chain.dryTally (c : Chain) : Nat := c.h.u 22 2
/-- The parts that run in the row-tile loop, and the drydown. -/
def Chain.main (c : Chain) : List CPart := c.secs.filter fun s => !s.dry
def Chain.dryPart (c : Chain) : Option CPart := c.secs.find? CPart.dry
def Chain.hearts (c : Chain) : List CPart := c.secs.filter CPart.heart
/-- Columns after a part's base notes, given those before them (R195). -/
def CPart.outW (s : CPart) (w : Nat) : Nat := if s.has 0x22 then w / 2 else w
/-- Columns that the last part before the drydown leaves: what HOLD holds. -/
def Chain.holdW (c : Chain) : Nat := match c.main.getLast? with | some s => s.outW s.headW | none => 0
def Chain.secW (c : Chain) (s : CPart) : Nat := if s.dry then c.holdW else s.headW
/-- Columns that enter a base note. -/
def Chain.baseW (c : Chain) (s : CPart) (t : Stg) : Nat := if (s.bases.takeWhile fun x => x.i != t.i).any (·.is 0x22) then c.secW s / 2 else c.secW s
/-- Hold rows (R204). -/
def Chain.holdRows (c : Chain) : Nat := if c.dryTally = 0xFFFF then min c.m 256 else c.m
/-- The format of the hold buffer. -/
def Chain.holdFmt (c : Chain) : Nat := match c.main.getLast?.bind fun s => s.bases.find? (·.is 0x2A) with
  | some t => if c.strict then t.fmt else 0
  | none => 0
/-- Every base note with the part it stands in. -/
def Chain.notes (c : Chain) : List (CPart × Stg) := c.secs.flatMap fun s => s.bases.map fun t => (s, t)
def Chain.kv (c : Chain) : List (CPart × Stg) := c.notes.filter fun x => x.2.is 0x2B

/-- One part off the front of a stage list. -/
def takeSec (l : List Stg) : Option (CPart × List Stg) :=
  let tops := l.takeWhile Stg.isTop
  match l.drop tops.length with
  | h :: rest =>
    if h.is 0x10 || (h.is 4 && tops.isEmpty) || (h.is 0x30 && tops.isEmpty) then
      some ({ head := h, tops := tops, bases := rest.takeWhile Stg.isBase }, rest.dropWhile Stg.isBase)
    else none
  | [] => none
def takeSecs : Nat → List Stg → Option (List CPart)
  | 0, _ => none
  | fuel + 1, l => if l.isEmpty then some [] else
    match takeSec l with
    | none => none
    | some (s, rest) => (takeSecs fuel rest).map (s :: ·)
/-- Whether a part's base notes end in a stage that writes (R201). -/
def CPart.ends (s : CPart) : Bool := match (s.bases.filter fun t => !t.is 0x2C).getLast? with
  | some t => [0x28, 0x29, 0x2A, 0x2B].contains t.typ
  | none => false
/-- One base-note section's own rules (R200, R201). -/
def CPart.ok (s : CPart) : Bool :=
  let cnt (t : Nat) : Nat := s.bases.countP (·.is t)
  s.ends && decide (cnt 0x2B ≤ 1) && decide (cnt 0x2C ≤ 1) && decide (cnt 0x22 ≤ 1) && decide (cnt 0x28 ≤ 1) && decide (cnt 0x2A ≤ 1) &&
  (cnt 0x2C == 0 || (s.bases.dropWhile fun t => !t.is 0x2B).any (·.is 0x2C)) &&
  (cnt 0x28 == 0 || (s.bases.getLast?.map (·.is 0x28)) == some true) && (cnt 0x2A == 0 || (s.bases.getLast?.map (·.is 0x2A)) == some true)
/-- The parts of a stage list, where their order is that of R201. -/
def chainParts (l : List Stg) : Option (List CPart) :=
  match takeSecs 14 l with
  | none => none
  | some secs =>
    let ok : Bool := match secs with
      | [a] => !a.dry && !a.has 0x28 && !a.has 0x2A
      | [a, b] =>
        if b.dry then !a.dry && !a.has 0x28 && a.has 0x2A && !b.has 0x28 && !b.has 0x2A
        else a.heart && b.heart && a.has 0x28 && !b.has 0x28 && !b.has 0x2A
      | [a, b, c] => a.heart && b.heart && c.dry && a.has 0x28 && !b.has 0x28 && b.has 0x2A && !c.has 0x28 && !c.has 0x2A
      | _ => false
    if ok && secs.all CPart.ok then some secs else none
/-- The stage list of a command; a reserved count names no stages. -/
def stagesOf (e : ArrEntry) : List Stg :=
  let n := (e.recs.headD 0).u 0 1
  if 12 < n then [] else (List.range n).map fun i => ⟨i, (e.recs.getD (i + 1) 0)⟩
/-- The chain of a command whose stage list stands in the order of R201. -/
def chainOf (e : ArrEntry) : Option Chain := (chainParts (stagesOf e)).map fun s => { h := e.recs.headD 0, secs := s }
/-- The parts of a stage list in whatever order it stands; notes under no head make a part of their own. -/
def looseParts : Nat → List Stg → List CPart
  | 0, _ => []
  | fuel + 1, l =>
    let tops := l.takeWhile Stg.isTop
    let part (h : Stg) (rest : List Stg) : CPart := { head := h, tops := tops, bases := rest.takeWhile Stg.isBase }
    match l.drop tops.length with
    | [] => if tops.isEmpty then [] else [part ⟨0, 0⟩ []]
    | h :: rest =>
      if h.is 0x10 || h.is 4 || h.is 0x30 then part h rest :: looseParts fuel (rest.dropWhile Stg.isBase)
      else part ⟨0, 0⟩ (h :: rest) :: looseParts fuel (if h.isBase then rest.dropWhile Stg.isBase else rest)
/-- What validation looks at before the order of the stages (R11, R210). -/
def chainSeen (e : ArrEntry) : Chain := (chainOf e).getD { h := e.recs.headD 0, secs := looseParts 13 (stagesOf e) }

/-! Validation (R210). -/
/-- Whether a stage's parameters, its SUB and its formats are among those that its row of the table lists. -/
def stageOk (c : Chain) (t : Stg) : Bool :=
  let z (a s p q r u : Bool) : Bool := (a || t.addr == 0) && (s || t.stride == 0) && (p || t.p1 == 0) && (q || t.p2 == 0) && (r || t.p3 == 0) && (u || t.p4 == 0)
  let subMax := match t.typ with | 1 | 2 | 3 | 0x2B => 1 | 0x21 | 0x22 => 3 | 0x30 => 2 | _ => 0
  let common := decide (t.r.u 2 1 < 32) && t.tag != 3 && decide (t.sub ≤ subMax) && (t.is 0x29 || (t.space == 0 && !t.full))
  let rnd := !c.strict || fmtOk t.fmt
  let src := decide (t.p2 ≤ 4)
  if t.is 0x10 then decide (t.r.u 3 1 < 16) && t.opTag 0 != 3 && t.opTag 1 != 3 && t.r.u 29 3 == 0 && (!c.strict || fmtOk t.outFmt) else
  common && match t.typ with
  | 1 => z false false false false false false && rnd
  | 2 => z true false true true false false && rnd && decide (t.p2 < 2)
  | 3 => z true true false false false false && rnd
  | 4 => z true true true true false false && rnd && src && decide (1 ≤ t.p1) && decide (t.p1 ≤ 65536)
  | 0x20 | 0x24 | 0x25 => z true true false true false false && rnd && src
  | 0x21 | 0x22 => z false false false false false false && rnd
  | 0x23 => z true true false false false false && rnd
  | 0x26 => z true true true true true false && rnd && [64, 128].contains t.p1 && t.p2 % 2 == 0 && decide (2 ≤ t.p2) && decide (t.p2 ≤ t.p1) &&
      decide (t.p3 < t.p1) && t.p3 % 2 == 0
  | 0x27 => z false false false false false false && fmtOk t.fmt
  | 0x28 => z true true false false false false && fmtOk t.fmt && !([0, 6].contains (fmtElem t.fmt))
  | 0x29 => z true true true false false false && fmtOk t.fmt && t.space != 3 && addrForm t.space t.addr && (fmtBlk t.fmt == 0 || t.p1 % superLen t.fmt == 0)
  | 0x2A => z false false false false false false && rnd && (!c.strict || decide (t.fmt ≤ 2))
  | 0x2B => z false false true true true false && fmtOk t.fmt && [64, 128].contains t.p2
  | 0x2C => z false false false false false false && rnd
  | 0x30 => rnd && (match t.sub with
      | 0 => z false false true true false false
      | 1 => z false false false false false false
      | _ => z true true false false true false && decide (2 ≤ t.p3) && decide (t.p3 ≤ 64))
  | _ => false
/-- Floating-point operand formats (R184, R185). -/
def isFpOp (e : Nat) : Bool := [1, 2, 3, 4, 7, 8, 9].contains e
/-- The top notes of one side. -/
def CPart.side (s : CPart) (side : Nat) : List Stg := s.tops.filter fun t => t.sub == side
def CPart.top (s : CPart) (side typ : Nat) : Option Stg := (s.side side).find? (·.is typ)
def CPart.deq (s : CPart) (side : Nat) : Bool := (s.top side 3).isSome
/-- Whether both operands enter as INT8. -/
def CPart.int8 (s : CPart) : Bool := s.heart && fmtElem (s.head.opFmt 0) == 5 && fmtElem (s.head.opFmt 1) == 5
/-- Coins of a product's class (R184, R214). -/
def CPart.classCoins (s : CPart) : Nat :=
  if !s.heart then 0 else
  let c (side : Nat) : Nat := let e := fmtElem (s.head.opFmt side); if s.deq side || e ≤ 2 then 28 else if e = 9 then 40 else 36
  min (c 0) (c 1)
def Stg.coins (t : Stg) : Nat := match t.typ with
  | 1 | 2 | 4 | 0x2A | 0x28 => 1
  | 3 | 0x20 | 0x23 | 0x24 | 0x25 | 0x27 => 2
  | 0x21 => if t.sub = 0 then 2 else 3
  | 0x22 | 0x26 | 0x30 | 0x2B => 3
  | 0x29 => if t.space = 0 then 1 else 3
  | _ => 0
/-- R214. -/
def Chain.coins (c : Chain) : Nat :=
  4 + ((c.secs.map CPart.classCoins).foldl max 0) + ((c.secs.flatMap fun s => s.head :: (s.tops ++ s.bases)).map Stg.coins).sum
/-- A heart note's formats and top notes (R185, R193, R202). `j` is the part's number. -/
def heartOk (c : Chain) (j : Nat) (s : CPart) : Bool :=
  if !s.heart then true else
  let h := s.head
  let ea := fmtElem (h.opFmt 0)
  let eb := fmtElem (h.opFmt 1)
  let da := s.deq 0
  let db := s.deq 1
  let pair := (ea == 5 && eb == 5 && !da && !db) || (isFpOp ea && isFpOp eb && !da && !db) || (ea == 5 && da && isFpOp eb && !db) || (eb == 5 && db && isFpOp ea && !da)
  let once := [0, 1].all fun sd => [1, 2, 3].all fun t => decide ((s.side sd).countP (·.is t) ≤ 1)
  let tr := [0, 1].all fun sd => (s.top sd 1).isNone || [1, 2, 3, 4, 5].contains (h.opFmt sd)
  let second : Bool := if j = 0 then true else match c.secs[0]? with
    | none => false
    | some a => h.opAddr 0 == 0 && h.opStride 0 == 0 && h.opTag 0 == 0 && (s.side 0).isEmpty &&
        a.bases.any (fun t => t.is 0x28 && t.fmt == h.opFmt 0) && h.k == a.outW a.headW
  fmtOk (h.opFmt 0) && fmtOk (h.opFmt 1) && pair && once && tr && second && decide (1 ≤ h.n) && decide (h.n ≤ 65536) && decide (1 ≤ h.k) && decide (h.k ≤ 65536)
/-- An own-store extent that a chain reads or writes: encoded address, bytes, whether written, alignment. -/
structure Ext where
  enc : Nat
  len : Nat
  write : Bool := false
  al : Nat := 64
/-- Bytes of a stored row of an operand, and rows. -/
def opRow (c : Chain) (s : CPart) (side : Nat) : Nat × Nat :=
  let rows := match s.top side 2 with | some g => g.p1 | none => if side = 0 then c.m else s.head.n
  if (s.top side 1).isSome then (rows * (cvtBits (fmtElem (s.head.opFmt side)) / 8), s.head.k) else (rowBytes (s.head.opFmt side) s.head.k, rows)
def sideExts (c : Chain) (j : Nat) (s : CPart) (side : Nat) : List Ext :=
  let cnt := if side = 0 then c.m else s.head.n
  let (rb, rows) := opRow c s side
  (if side = 0 ∧ j ≠ 0 then [] else [{ enc := s.head.opAddr side, len := if rows = 0 then 0 else (rows - 1) * s.head.opStride side + rb, al := 32 }]) ++
  ((s.side side).filterMap fun t => match t.typ with
    | 2 => some { enc := t.addr, len := cnt * (if bit t.p2 0 then 4 else 2) }
    | 3 => some { enc := t.addr, len := cnt * cdiv s.head.k 32 * 4 }
    | _ => none)
def baseExts (c : Chain) (s : CPart) (t : Stg) : List Ext :=
  let w := c.baseW s t
  let sz := rowBytes (t.p2 % 16) 1
  match t.typ with
  | 0x20 | 0x24 => [{ enc := t.addr, len := w * sz }]
  | 0x23 => [{ enc := t.addr, len := 4 * c.m }]
  | 0x25 => [{ enc := t.addr, len := (c.m - 1) * t.stride + w * sz }]
  | 0x26 => [{ enc := t.addr, len := 2 * t.p2 }]
  | 0x28 => [{ enc := t.addr, len := 128 * rowBytes t.fmt w, write := true }]
  | 0x29 => if t.space = 0 then [{ enc := t.addr, len := (c.m - 1) * t.stride + rowBytes t.fmt (t.p1 + w), write := true }] else []
  | _ => []
/-- Every own-store extent of a chain. -/
def Chain.exts (c : Chain) : List Ext :=
  (if c.rowmap then [{ enc := c.h.u 8 4, len := 16 * c.m }] else []) ++
  (c.secs.zip (List.range c.secs.length)).flatMap fun x =>
    let s := x.1
    (if s.heart then sideExts c x.2 s 0 ++ sideExts c x.2 s 1
     else if s.dry then [{ enc := c.hold, len := c.h.u 16 4, write := true }] ++
       (if s.head.sub = 2 then [{ enc := s.head.addr, len := (c.m - 1) * s.head.stride + 8 * s.head.p3 }] else [])
     else if s.head.is 4 then [{ enc := s.head.addr, len := (c.m - 1) * s.head.stride + rowBytes (s.head.p2 % 16) s.head.p1 }] else []) ++
    s.bases.flatMap (baseExts c s)
/-- Addresses, strides and lengths that must be multiples of 64 besides the extents' own, and operand strides (R186). -/
def alignBad (c : Chain) : Bool :=
  (c.secs.zip (List.range c.secs.length)).any (fun x =>
    let s := x.1
    (s.heart && [0, 1].any fun sd => !(sd == 0 && x.2 != 0) && (s.head.opStride sd % 32 != 0 || decide (s.head.opStride sd < (opRow c s sd).1))) ||
    ((s.head :: (s.tops ++ s.bases)).any fun t => !t.is 0x10 && t.stride % 64 != 0) ||
    (s.bases.any fun t => t.is 0x29 && (addrOf t.space t.addr).off % 64 != 0)) || c.h.u 16 4 % 64 != 0
def Ext.at_ (x : Ext) (c : Cell) : Option Nat := let a := addrOf 0 x.enc; c.bufAddr a.buf a.off x.len x.write
def Ext.touches (c : Cell) (x y : Ext) : Bool := match x.at_ c, y.at_ c with
  | some a, some d => overlaps a x.len d y.len
  | _, _ => false
/-- The hold buffer and its range (R204, R205). -/
def holdOk (c : Chain) (cl : Cell) : Bool := match c.dryPart with
  | none => c.h.u 16 4 == 0
  | some d =>
    let sz := rowBytes c.holdFmt 1
    decide (c.holdRows * c.holdW * sz ≤ c.h.u 16 4) &&
    (d.head.sub == 2 || match ({ enc := c.hold, len := c.h.u 16 4, write := true } : Ext).at_ cl with
      | none => true
      | some p => match cl.rangeAt p with
        | some r => r.stat && r.base == p && r.rowElems == c.holdW && r.statKind == (if d.head.sub = 0 then 1 else 0) && r.fmt == c.holdFmt &&
            decide (c.h.u 16 4 ≤ r.len)
        | none => false)
def popcount (x : Nat) : Nat := (List.range 8).foldl (fun a i => a + b2n (bit x i)) 0
/-- Parses a row map (R191). -/
def rowSlots (raw m : Nat) : List RowSlot := (List.range m).map fun r =>
  let x := bits raw (128 * r) 128
  { seq := bits x 0 32, pos := bits x 32 32, rot := bits x 64 32, eot := bit x 96, noAppend := bit x 97 }
def rowMapOk (raw m : Nat) : Bool :=
  let rows := rowSlots raw m
  (List.range m).all (fun r => bits raw (128 * r + 98) 30 == 0 && decide (bits raw (128 * r + 32) 32 < 2 ^ 20)) && decide (rows.map (fun x => (x.seq, x.pos))).Nodup
/-- The parts of a page that a chain's KV_APPEND stages write (R192, R260). -/
def kvParts (c : Chain) (x : CPart × Stg) : Nat :=
  (List.range (cdiv (c.baseW x.1 x.2) (max 1 x.2.p2))).foldl (fun a i => Nat.lor a (2 ^ (2 * (x.2.p1 + i) + x.2.sub))) 0
/-- Whether each WRITE stage's FMT is an input format of every armed accumulate range that its rows meet, in its own store or in
another cell's (R198). -/
def writeFmtOk (b : Block) (k : Nat) (c : Chain) : Bool := c.notes.all fun x =>
  let t := x.2
  !t.is 0x29 || t.space == 2 || match storeSide b k (addrOf t.space t.addr) 0 true with
    | some (.store q p) =>
      let rb := rowBytes t.fmt (t.p1 + c.baseW x.1 t)
      let lo := if fmtBlk t.fmt = 0 then t.p1 * cvtBits (fmtElem t.fmt) / 8 else rowBytes t.fmt t.p1
      (b.cell q).ranges.all fun r => r.stat || t.fmt == r.fmt ||
        !(List.range c.m).any fun i => overlaps r.base r.len (p + i * t.stride + lo) (rb - lo)
    | _ => true
/-- The order of validation (R11) over the checks of R210's table. `rm` is the row map's bytes, or none where a word of them is
uncorrectable, which decides only where nothing else refuses. PROTECTION and ALIGNMENT come before the order of the stages. No
field of a stage states a k start, so the check of R115 that the table lists has nothing to test (log entry 89). -/
def chainCheck (b : Block) (k : Nat) (e : ArrEntry) (rm : Option Nat) : Option Status :=
  let cl := b.cell k
  let n := cl.part
  let h := e.recs.headD 0
  let c := chainSeen e
  let tally (o : Nat) : Bool := tallyField b n (h.u o 2)
  let head := h.u 0 1 != 0 && decide (h.u 0 1 ≤ 12) && decide (h.u 1 1 < 8) && h.u 3 1 == 0 && decide (1 ≤ h.u 4 4) && decide (h.u 4 4 ≤ 65536) && h.u 38 26 == 0 &&
    tally 22 && tally 28 && tally 30 && (h.u 30 2 == 0xFFFF || h.u 36 2 != 0)
  let acc := (cl.thread e.thr).accMask.toNat
  let bad (x : Ext) : Bool := (x.at_ cl).isNone || (x.write && ((cl.buf (addrOf 0 x.enc).buf).weight))
  let mask := if c.cont then popcount c.mask == 1 && c.hearts.length == 1 && decide (c.m ≤ 128) && decide ((c.hearts.map (·.head.n)).sum ≤ 64)
    else decide (2 ≤ popcount c.mask)
  let int32 := c.notes.all fun x => !(x.2.is 0x29 && fmtElem x.2.fmt == 6) || fmtBlk x.2.fmt == 0
  let glu := c.notes.all fun x => !x.2.is 0x22 || c.baseW x.1 x.2 % 64 == 0
  let layer := c.kv.all fun x => x.2.p3 == (c.kv.headD (⟨⟨0, 0⟩, [], []⟩, ⟨0, 0⟩)).2.p3 && decide (x.2.p3 < 1024)
  let need := !c.kv.isEmpty || c.notes.any (·.2.is 0x26)
  let form := head && (chainOf e).isSome && (c.secs.all fun s => (s.head :: (s.tops ++ s.bases)).all (stageOk c)) &&
    ((c.secs.zip (List.range c.secs.length)).all fun x => heartOk c x.2 x.1) && !(c.exts.any fun x => decide (2 ^ 31 ≤ x.enc)) && mask && holdOk c cl &&
    writeFmtOk b k c && int32 && glu && layer && (!need || c.rowmap)
  refuse [
    (partScrubbing b n, .scrubbing),
    (Nat.land c.mask acc != c.mask || c.exts.any bad, .protection),
    (c.exts.any (fun x => (addrOf 0 x.enc).off % x.al != 0) || alignBad c, .alignment),
    (!form || (c.rowmap && match rm with | some v => !rowMapOk v c.m | none => false), .descInvalid),
    (rm.isNone, .uncorrectable)]

/-! Row-map resolution (R192). -/
def resolveRow (b : Block) (n layer parts : Nat) (x : RowSlot) : Except Status RowSlot × Block :=
  let i := x.seq % 65536
  match seqCheck b n x.seq with
  | some st => (.error st, b)
  | none =>
    let e := b.entry i
    let m := b.model n e.model
    let page := x.pos / 16
    let l := e.leaf layer page
    if e.st = 6 then (.error .uncorrectable, b)
    else if m.layers ≤ layer then (.error .descInvalid, b)
    else match tablesOk b i layer page with
      | (false, b) => (.error .uncorrectable, b)
      | (true, b) =>
        let out := l.st == 2
        let mask := if out then (match (mget {} e.opens (leafKey layer page)).open_ with | some o => mget 0 o.parts (x.pos % 16) | none => m.parts)
          else (b.frame n e.model l.frame).mask m (x.pos % 16)
        if e.st = 2 || e.reserved ≤ x.pos || (l.st ≠ 1 && !out) || Nat.land mask parts ≠ 0 then (.error .descInvalid, b)
        else if out || e.swapMarks.contains (leafKey layer page) then (.error .pageAbsent, b)
        else (.ok { x with entry := i, pva := m.framePva l.frame, unrot := l.unrot, frame := l.frame + e.model * 2 ^ 32 }, b)
/-- Rows in ascending order, those marked NO_APPEND too, for which no stage writes a part; the first that fails decides. -/
def resolveRows (n layer parts : Nat) : List RowSlot → Block → Except Status (List RowSlot) × Block
  | [], b => (.ok [], b)
  | x :: l, b => match resolveRow b n layer (if x.noAppend then 0 else parts) x with
    | (.error st, b) => (.error st, b)
    | (.ok y, b) => match resolveRows n layer parts l b with
      | (.ok r, b) => (.ok (y :: r), b)
      | (.error st, b) => (.error st, b)
/-- The cache format, head dimension and heads that KV_APPEND must match (R199). -/
def kvOk (b : Block) (n : Nat) (c : Chain) (rows : List RowSlot) : Bool :=
  rows.all fun x => x.noAppend || c.kv.all fun y =>
    let m := b.model n (b.entry x.entry).model
    y.2.fmt == m.fmt && y.2.p2 == m.headDim && decide (y.2.p1 + cdiv (c.baseW y.1 y.2) (max 1 y.2.p2) ≤ m.kvHeads)
/-- Whether a chain is non-replayable from its start (R213, R519). -/
def chainNonReplay (b : Block) (k : Nat) (c : Chain) : Bool :=
  let cl := b.cell k
  let reads := c.exts.filter fun x => !x.write
  let writes := c.notes.filterMap fun x => if !x.2.is 0x29 || x.2.space == 2 then none else
    match storeSide b k (addrOf x.2.space x.2.addr) ((c.m - 1) * x.2.stride + rowBytes x.2.fmt (x.2.p1 + c.baseW x.1 x.2)) true with
    | some (.store q p) => some (q, p, (c.m - 1) * x.2.stride + rowBytes x.2.fmt (x.2.p1 + c.baseW x.1 x.2))
    | _ => none
  let clash := writes.any fun w => w.1 == k && reads.any fun x => match x.at_ cl with | some p => overlaps w.2.1 w.2.2 p x.len | none => false
  let acc := writes.any fun w => (b.cell w.1).ranges.any fun r => !r.stat && overlaps r.base r.len w.2.1 w.2.2
  let recs := match c.dryPart with
    | some d => d.head.sub != 2 && (match ({ enc := c.hold, len := 1, write := true } : Ext).at_ cl with
      | some p => match cl.rangeAt p with
        | some r => (List.range c.holdRows).any fun i => cl.store.read (r.recBase + 8 * i) 8 != f32negInf
        | none => false
      | none => false)
    | none => false
  c.cont || clash || acc || recs

/-! CHAIN_START (R192, R210, R214). -/
/-- Whether a read waits for the refetch of its block (R155). -/
def Rd.stalled : Rd → Bool
  | .refetch _ => true
  | _ => false
def Rd.value : Rd → Option Nat
  | .ok v => some v
  | _ => none
/-- The row map of a chain as its start reads it, once (R192). -/
def rowMap (b : Block) (k : Nat) (e : ArrEntry) : Rd × Block :=
  let h := e.recs.headD 0
  let a := addrOf 0 (h.u 8 4)
  match bit (h.u 1 1) 2, (b.cell k).bufAddr a.buf a.off (16 * h.u 4 4) false with
  | true, some p => storeRead b k p (16 * h.u 4 4) (2 + 8 * e.id)
  | _, _ => (.ok 0, b)
def chainStart (k : Fin 800) (b : Block) : Block :=
  match arrHead b k .chain with
  | none => b
  | some e =>
    let n := (b.cell k).part
    let h := e.recs.headD 0
    let b := arrIdle b k
    let (go, b) := if tallyOk b n (h.u 28 2) then engineWait b n k 10 (h.u 28 2) (h.u 32 4) e.id else (true, b)
    if !go then b else
    let (rd, b) := rowMap b k e
    if rd.stalled then b else
    let rm := rd.value
    match chainCheck b k e rm, chainOf e with
    | some st, _ => arrRefuse b k 0x20808 e st
    | none, none => b
    | none, some c =>
      let slots := if c.rowmap then rowSlots (rm.getD 0) c.m else []
      let parts := (c.kv.map (kvParts c)).foldl Nat.lor 0
      let (res, b) := if c.kv.isEmpty then (.ok slots, b) else resolveRows n ((c.kv.map (·.2.p3)).headD 0) parts slots b
      match res with
      | .error st => arrRefuse b k 0x20808 e st
      | .ok rows =>
        if !c.kv.isEmpty && !kvOk b n c rows then arrRefuse b k 0x20808 e .descInvalid
        else if purseCeil b (k / 40) < c.coins then arrRefuse b k 0x20808 e .quota
        else
          let pins := if c.kv.isEmpty then [] else (rows.map (·.frame)).eraseDups
          arrTake (pinKeys b n pins) k e c.coins { e := e, rows := rows, pins := pins, nonReplay := chainNonReplay b k c }
def execChainStart (k : Fin 800) (s : State) : Out := run (chainStart k) s

/-! Stage arithmetic (R193 to R197). -/
def cNlog2e : Nat := 0xBFB8AA3B
def cGeluA : Nat := 0x3F4C422A
def cGeluB : Nat := 0x3D122279
def f32one : Nat := 0x3F800000
def f32two : Nat := 0x40000000
def f32sigmoid (x : Nat) : Nat := f32rcp (f32add f32one (f32exp2 (f32mul x cNlog2e)))
/-- The gate functions of R195 by SUB. -/
def f32act (sub x : Nat) : Nat := match sub with
  | 0 => f32max x 0
  | 1 => f32mul x (f32sigmoid x)
  | 2 => let z := f32mul x (f32add (f32mul cGeluB (f32mul x x)) cGeluA); f32mul x (f32sigmoid (f32mul f32two z))
  | _ => f32sigmoid x
/-- R196 for one pair. -/
def rotPair (p f x y : Nat) : Nat × Nat :=
  let a : Nat := p * f % 2 ^ 32
  let t := fp32.arith ((f32 (fp32.arith (flOfInt a 0))).scale (-32))
  let c := f32cos t
  let s := f32sin t
  (f32fma x c (Nat.xor (f32mul y s) (2 ^ 31)), f32fma x s (f32mul y c))
/-- Rotates the row's columns from `col`; a pair whose second column lies beyond the row takes a zero. -/
def rotRow (t : Stg) (f : List Nat) (p col : Nat) (v : List Nat) : List Nat :=
  (List.range v.length).map fun j =>
    let d := (t.p3 + col + j) % t.p1
    if t.p2 ≤ d then v.getD j 0
    else if d % 2 = 0 then (rotPair p (f.getD (d / 2) 0) (v.getD j 0) (v.getD (j + 1) 0)).1
    else (rotPair p (f.getD (d / 2) 0) (if j = 0 then 0 else v.getD (j - 1) 0) (v.getD j 0)).2
/-- One operand row or column as the feed gives it (R193). -/
def operand (k : Nat) (c : Chain) (j : Nat) (s : CPart) (side i : Nat) : Arr (List Fl) := do
  let h := s.head
  let fm := h.opFmt side
  if side = 0 ∧ j ≠ 0 then
    let br := ((c.secs.headD s).bases.find? (·.is 0x28)).map (·.addr) |>.getD 0
    feedRow k h.i fm h.k br (i % 128 * rowBytes fm h.k) 0
  else
    let src : Option Nat ← match s.top side 2 with
      | none => pure (some i)
      | some g => do
        let sz := if bit g.p2 0 then 4 else 2
        let x ← feed k g.i g.addr (i * sz) sz g.tag
        if x = 2 ^ (8 * sz) - 1 then pure none
        else if g.p1 ≤ x then arrFault .protection g.i 0 (g.addr + 256 * (i * sz))
        else pure (some x)
    match src with
    | none => pure (List.replicate h.k (.fin false 0 0))
    | some r =>
      let v ← match s.top side 1 with
        | some _ => do
          let sz := cvtBits (fmtElem fm) / 8
          (List.range h.k).mapM fun kk => do return elemVal (fmtElem fm) 0 (← feed k h.i (h.opAddr side) (kk * h.opStride side + r * sz) sz (h.opTag side))
        | none => feedRow k h.i fm h.k (h.opAddr side) (r * h.opStride side) (h.opTag side)
      let v ← match s.top side 3 with
        | some d => do
          let ng := cdiv h.k 32
          let sc ← feedRow k d.i 0 ng d.addr (4 * i * ng) d.tag
          pure ((v.zip (List.range h.k)).map fun x => bf16.decode (bf16.arith (x.1.mul (sc.getD (x.2 / 32) .nan))))
        | none => pure v
      pure (if c.strict then (s.side side).foldl (fun v t => roundFl t.fmt v) v else v)

/-! Tiles and base notes (R194 to R205). -/
/-- A row of a tile: the chain's row, its FP32 values, the product's words, and its values before ROTARY. -/
structure TRow where
  r : Nat
  v : List Nat
  raw : List Nat := []
  pre : Option (List Nat) := none
/-- The tile of TILE_MASK whose turn it is. -/
def Chain.tileOf (c : Chain) (ti : Nat) : Nat :=
  let l := (List.range 8).filter (bit c.mask)
  l.getD (ti % max 1 l.length) 0
def Chain.tilesPer (c : Chain) : Nat := (c.main.map fun s => cdiv s.headW 64).sum
/-- Puts the words of a tile's rows, from row `lr`, into the accumulator tile. -/
def putTile (old : Nat) (rows : List (List Nat)) : Nat :=
  (rows.zip (List.range rows.length)).foldl (fun a x => putBits a (2048 * x.2) (32 * x.1.length) (packCodes 32 x.1)) old
/-- The product or load of one tile of part `j` at row tile `rt` and column tile `ct`. -/
def tileRows (k : Nat) (c : Chain) (j : Nat) (s : CPart) (rt ct ti : Nat) : Arr (List TRow) := do
  let rows := (List.range (min 128 (c.m - 128 * rt))).map (· + 128 * rt)
  let cols := (List.range (min 64 (s.headW - 64 * ct))).map (· + 64 * ct)
  let t := c.tileOf ti
  let old := ((← get).cell k).tile t |>.toNat
  let out ← if s.heart then do
      let bs ← cols.mapM (operand k c j s 1)
      rows.mapM fun r => do
        let a ← operand k c j s 0 r
        let w := (bs.zip (List.range bs.length)).map fun x =>
          let init := if c.cont then bits old (32 * (64 * (r % 128) + x.2)) 32 else 0
          if s.int8 then dotInt init a x.1 else dotFp init a x.1
        let v := if s.int8 then w.map fun x => fp32.arith (flOfInt (sx 32 x) 0) else w
        pure ({ r := r, raw := w, v := if c.strict then roundRow s.head.outFmt v else v } : TRow)
    else rows.mapM fun r => do
        let code := s.head.p2 % 16
        let v ← feedVals k s.head.i code cols.length s.head.addr (r * s.head.stride + rowBytes code (64 * ct)) s.head.tag
        pure ({ r := r, raw := v, v := if c.strict then roundRow s.head.fmt v else v } : TRow)
  modify fun b => b.modCell k fun cl => cl.setTile t (BitVec.ofNat 262144 (putTile old (out.map (·.raw))))
  pure out
/-- Writes the pieces of one row at an address. -/
def writePieces (k stage : Nat) (a : Addr) (claim : Bool) (l : List (Nat × Nat × Nat)) : Arr Unit :=
  l.forM fun p => outWrite k stage (a.move p.1) p.2.1 p.2.2 claim
/-- Writes a row's keys or values into its cache frame, one head at a time (R199, R242). -/
def appendRow (k : Nat) (t : Stg) (x : RowSlot) (col : Nat) (v : List Nat) : Arr Unit := do
  let hd := max 1 t.p2
  let heads := (List.range v.length).map (fun i => (col + i) / hd) |>.eraseDups
  heads.forM fun hh => do
    let part := ((List.range v.length).filter fun i => (col + i) / hd == hh)
    let off := (((t.p1 + hh) * 2 + t.sub) * 16 + x.pos % 16) * hd + (col + part.headD 0) % hd
    let b ← get
    match translate b (b.cell k).part .frame (x.pva + off) with
    | none => arrFault .protection t.i 2 (x.pva + off)
    | some m =>
      let d := packCodes 8 (part.map fun i => (toElem (fmtElem t.fmt) 0 none (f32 (v.getD i 0))).code)
      set (modRun (b.memWrite m part.length d) k fun r => { r with port := match r.port with
        | some p => some p | none => some { sent := b.now, stage := t.i, space := 2, addr := x.pva + off } })
/-- One base note on a tile whose first column is `col`; `first` marks the first base note of an INT8 product. -/
def baseNote (k : Nat) (c : Chain) (s : CPart) (x : Nat × List TRow) (t : Stg) : Arr (Nat × List TRow) := do
  let col := x.1
  let rows := x.2
  let w := (rows.headD { r := 0, v := [] }).v.length
  let keep (rows : List TRow) : Nat × List TRow := (col, if c.strict ∧ t.fmt ≠ 0 then rows.map fun y => { y with v := roundRow t.fmt y.v } else rows)
  let vec (op : Nat → Nat → Nat) : Arr (Nat × List TRow) := do
    let u ← feedVals k t.i (t.p2 % 16) w t.addr (rowBytes (t.p2 % 16) col) t.tag
    pure (keep (rows.map fun y => { y with v := List.zipWith op y.v u }))
  let rm ← do pure ((runOf (← get) k).map (·.rows) |>.getD [])
  match t.typ with
  | 0x20 => vec f32add
  | 0x24 => vec f32mul
  | 0x21 => pure (keep (rows.map fun y => { y with v := y.v.map (f32act t.sub) }))
  | 0x22 =>
    let g (v : List Nat) : List Nat := List.zipWith (fun a d => f32mul (f32act t.sub a) d) (v.take 32) (v.drop 32)
    pure (col / 2, (keep (rows.map fun y => { y with v := g y.v })).2)
  | 0x23 => do
    let r ← rows.mapM fun y => do
      let u ← feedVals k t.i 0 1 t.addr (4 * y.r) t.tag
      pure { y with v := y.v.map fun e => f32mul e (u.headD 0) }
    pure (keep r)
  | 0x25 => do
    let r ← rows.mapM fun y => do
      let u ← feedVals k t.i (t.p2 % 16) w t.addr (y.r * t.stride + rowBytes (t.p2 % 16) col) t.tag
      pure { y with v := List.zipWith f32add y.v u }
    pure (keep r)
  | 0x26 => do
    let raw ← feed k t.i t.addr 0 (2 * t.p2) t.tag
    let f := (List.range (t.p2 / 2)).map fun i => bits raw (32 * i) 32
    pure (keep (rows.map fun y => match rm[y.r]? with
      | some m => { y with pre := some y.v, v := rotRow t f ((m.pos + m.rot) % 2 ^ 32) col y.v }
      | none => y))
  | 0x27 => pure (col, rows.map fun y => { y with v := roundRow t.fmt y.v })
  | 0x28 => do
    rows.forM fun y => writePieces k t.i ((addrOf 0 t.addr).move (y.r % 128 * rowBytes t.fmt (c.baseW s t))) false
      (rowPieces t.fmt col (y.v.map f32) (c.baseW s t ≤ col + w))
    pure x
  | 0x29 => do
    let ints := s.int8 && t.fmt == 6 && (s.bases.head?.map (·.i) == some t.i)
    let bw := cvtBits (fmtElem t.fmt)
    let row (y : TRow) : Arr Unit :=
      if fmtBlk t.fmt = 0 ∧ bw % 8 ≠ 0 then
        writeBits k t.i ((addrOf t.space t.addr).move (y.r * t.stride)) t.full ((t.p1 + col) * bw) (w * bw)
          (packCodes bw (y.v.map fun v => (toElem (fmtElem t.fmt) 0 none (f32 v)).code))
      else writePieces k t.i ((addrOf t.space t.addr).move (y.r * t.stride + (if fmtBlk t.fmt = 0 then 0 else rowBytes t.fmt t.p1))) t.full
        (if ints then [(4 * (t.p1 + col), 4 * w, packCodes 32 y.raw)]
         else rowPieces t.fmt (if fmtBlk t.fmt = 0 then t.p1 + col else col) (y.v.map f32) (c.baseW s t ≤ col + w))
    rows.forM row
    pure (keep rows)
  | 0x2A => do
    let sz := rowBytes c.holdFmt 1
    rows.forM fun y => do
      let hr := y.r % max 1 c.holdRows
      writePieces k t.i ((addrOf 0 c.hold).move (hr * c.holdW * sz)) false (rowPieces c.holdFmt col (y.v.map f32) false)
      modify fun b => modRun b k fun r => { r with heldRows := if r.heldRows.contains hr then r.heldRows else r.heldRows ++ [hr] }
    pure x
  | 0x2B => do
    rows.forM fun y => match rm[y.r]? with
      | none => pure ()
      | some m => if m.noAppend then pure () else do
        appendRow k t m col (if t.sub = 0 ∧ m.unrot then y.pre.getD y.v else y.v)
        modify fun b => modRun b k fun r => { r with appends := mmod 0 r.appends (16 * y.r + t.i) (Nat.lor (kvParts c (s, t))) }
    pure (keep rows)
  | _ => pure (keep rows)
def baseNotes (k : Nat) (c : Chain) (s : CPart) (l : List Stg) (x : Nat × List TRow) : Arr (Nat × List TRow) := l.foldlM (baseNote k c s) x
/-- A part whose GLU halves its tiles before a rounding to Z4S takes two column tiles at a time, so that each 64-column block is
whole (R197, R208). -/
def Chain.pairs (c : Chain) (s : CPart) : Bool :=
  (s.bases.dropWhile fun t => !t.is 0x22).any fun t => fmtBlk t.fmt == 2 && (c.strict || [0x27, 0x28, 0x29].contains t.typ)
/-- A stage without its own rounding. -/
def Stg.plain (t : Stg) : Stg := { t with r := t.r - BitVec.ofNat 512 (256 * t.fmt) }
/-- The base notes of a part over the tiles that `tile` gives from column tile `ct` on. -/
def partTiles (k : Nat) (c : Chain) (s : CPart) (ct : Nat) (tile : Nat → Arr (List TRow)) : Arr Unit := do
  if c.pairs s && decide (ct + 1 < cdiv (c.secW s) 64) then
    let pre := s.bases.takeWhile fun t => !t.is 0x22
    let glu := s.bases.filter fun t => t.is 0x22
    let rest := (s.bases.dropWhile fun t => !t.is 0x22).drop 1
    let x ← baseNotes k c s (pre ++ glu.map Stg.plain) (64 * ct, ← tile ct)
    let y ← baseNotes k c s (pre ++ glu.map Stg.plain) (64 * (ct + 1), ← tile (ct + 1))
    let both := List.zipWith (fun (a b : TRow) => { a with v := a.v ++ b.v }) x.2 y.2
    let both := glu.foldl (fun rows t => if c.strict then rows.map fun y => { y with v := roundRow t.fmt y.v } else rows) both
    let _ ← baseNotes k c s rest (x.1, both)
  else
    let _ ← baseNotes k c s s.bases (64 * ct, ← tile ct)
def CPart.step (c : Chain) (s : CPart) (ct : Nat) : Nat := if c.pairs s && decide (ct + 1 < cdiv (c.secW s) 64) then 2 else 1
def Chain.rowTiles (c : Chain) : Nat := cdiv c.m 128

/-! Claimed granules (R554). -/
/-- Whether a WRITE stage has bytes left to write in a granule, when the walk stands at part `j`, row tile `rt`, column tile
`ct` and `dry` drydowns are done. -/
def writeLeft (b : Block) (k : Nat) (c : Chain) (j : Nat) (r : Run) (key : Nat) (s : CPart) (t : Stg) : Bool :=
  if !t.is 0x29 || !t.full then false else
  match storeSide b k (addrOf t.space t.addr) 0 true with
  | some (.store q base) =>
    if q ≠ key / 8192 then false else
    let w := c.baseW s t
    let rb := rowBytes t.fmt (t.p1 + w)
    let lo := if fmtBlk t.fmt = 0 then t.p1 * cvtBits (fmtElem t.fmt) / 8 else rowBytes t.fmt t.p1
    let rows (from_ n off : Nat) : Bool := decide (off < rb) && rowsTouch (base + off) t.stride (rb - off) from_ n (key % 8192)
    if s.dry then rows (128 * r.dry) c.m lo
    else
      let cur := r.rt
      let at_ := if r.stage < j then lo else if r.stage > j then rb
        else if fmtBlk t.fmt ≠ 0 then lo else (t.p1 + (if w < c.secW s then 32 else 64) * r.ct) * cvtBits (fmtElem t.fmt) / 8
      rows (128 * cur) (min c.m (128 * (cur + 1))) at_ || rows (128 * (cur + 1)) c.m lo
  | _ => false
/-- Granules into which the chain has made its last write become FULL. -/
def chainTags (b : Block) (k : Nat) (c : Chain) : Block :=
  match runOf b k with
  | none => b
  | some r =>
    let left (key : Nat) : Bool := (c.secs.zip (List.range c.secs.length)).any fun x => x.1.bases.any (writeLeft b k c x.2 r key x.1)
    let done := r.claims.filter fun g => !left g
    modRun (setKeys b done 1) k fun r => { r with claims := r.claims.filter fun g => !done.contains g }

/-! The walk (R203, R206, R211). -/
/-- The next tile of the walk, whole; then the walk moves on. -/
def chainTile (k : Nat) (c : Chain) (r : Run) : Arr Unit := do
  match c.main[r.stage]? with
  | none => pure ()
  | some s =>
    if s.has 0x2A && decide (c.holdRows < c.m) && decide (r.dry + 1 < r.rt) then throw .wait
    let before := ((c.main.take r.stage).map fun s => cdiv s.headW 64).sum
    partTiles k c s r.ct fun q => tileRows k c r.stage s r.rt q (r.rt * c.tilesPer + before + q)
    let ct := r.ct + s.step c r.ct
    modify fun b => modRun b k fun r =>
      if ct < cdiv s.headW 64 then { r with ct := ct }
      else if r.stage + 1 < c.main.length then { r with ct := 0, stage := r.stage + 1 }
      else { r with ct := 0, stage := 0, rt := r.rt + 1 }
/-- The stage that a running chain feeds. -/
def chainStage (r : Run) : Nat := match chainOf r.e with | some c => ((c.main[r.stage]?).map (·.head.i)).getD 0 | none => 0
/-- A chain that ends under R211: CHAIN_FAULT, undefined tiles, its token with the status. -/
def chainFail (k : Nat) (b : Block) (st : Status) (stage space addr : Nat) : Block :=
  match runOf b k with
  | none => b
  | some r =>
    let b := arrFaultReg b k r st stage r.rt r.ct
    let b := cellEvent b k 0x0401 st 0 (cellLoc k 2)
      (detail [(16, 1, r.e.thr), (17, 1, r.e.tok), (18, 1, stage), (20, 2, r.rt), (22, 2, r.ct), (24, 6, addr), (30, 1, space)])
    arrLeave (looseTiles b k r.e.mask) k r st
/-- Tiles follow one another until the walk ends or something holds it up. -/
def chainPump (k : Nat) : Nat → Block → Block
  | 0, b => b
  | fuel + 1, b =>
    match runOf b k with
    | none => b
    | some r =>
      if r.e.kind != .chain || r.phase != .running || r.status != .done || r.replayDue.isSome || !cellLive (b.cell k) then b else
      match chainOf r.e with
      | none => b
      | some c =>
        if c.rowTiles ≤ r.rt then b else
        match arrTry b k (chainTile k c r) (chainFail k) with
        | (true, b) => chainPump k fuel (chainTags b k c)
        | (false, b) => b
/-- The tiles a chain has left bound the pump. -/
def chainGo (b : Block) (k : Nat) : Block :=
  match (runOf b k).bind fun r => chainOf r.e with
  | some c => chainPump k (c.rowTiles * c.tilesPer + 1) b
  | none => b

/-! The drydown (R205 to R207). -/
/-- The statistic of one held row: SUB 0 the factor, SUB 1 (M, 1/L), SUB 2 the factor or none for a row that saw nothing. -/
def dryStat (k : Nat) (c : Chain) (d : Stg) (r : Nat) : Arr (Nat × Option Nat) := do
  let hr := r % max 1 c.holdRows
  if d.sub = 2 then
    let raw ← feed k d.i d.addr (r * d.stride) (8 * d.p3) d.tag
    let recs := (List.range d.p3).map fun i => (bits raw (64 * i) 32, bits raw (64 * i + 32) 32)
    let m := (recs.map (·.1)).foldl f32max f32negInf
    if m = f32negInf then pure (m, none) else
      let l := recs.foldl (fun l x => f32fma x.2 (f32exp2 (f32sub x.1 m)) l) 0
      pure (m, some (f32rcp l))
  else
    let b ← get
    match ({ enc := c.hold, len := 1, write := true } : Ext).at_ (b.cell k) |>.bind fun p => (b.cell k).rangeAt p with
    | none => arrFault .protection d.i 0 c.hold
    | some g =>
      let v ← feedAt k d.i c.hold 0 8 0 (g.recBase + 8 * hr)
      modify fun b => modRun (b.modCell k fun cl => cl.rearm g hr) k fun r => { r with heldRows := r.heldRows.filter (· != hr) }
      if d.sub = 0 then pure (0, some (f32rsqrt (f32add (f32mul (bits v 32 32) d.p1) d.p2)))
      else pure (bits v 0 32, some (f32rcp (bits v 32 32)))
def drySca (b : Block) (k : Nat) (c : Chain) : Nat :=
  match ({ enc := c.hold, len := 1, write := true } : Ext).at_ (b.cell k) |>.bind fun p => (b.cell k).rangeAt p with
  | some g => g.scale
  | none => 0
/-- The drydown of one row tile. -/
def dryTile (k : Nat) (c : Chain) (s : CPart) (rt : Nat) : Arr Unit := do
  let d := s.head
  let rows := (List.range (min 128 (c.m - 128 * rt))).map (· + 128 * rt)
  let stats ← rows.mapM fun r => do return (r, ← dryStat k c d r)
  let sz := rowBytes c.holdFmt 1
  let scale := drySca (← get) k c
  let tile (ct : Nat) : Arr (List TRow) := do
    let w := min 64 (c.holdW - 64 * ct)
    stats.mapM fun x => do
      let v ← feedVals k d.i c.holdFmt w c.hold ((x.1 % max 1 c.holdRows * c.holdW + 64 * ct) * sz) 0
      let out := match d.sub, x.2.2 with
        | 1, some l => v.map fun e => f32mul (f32exp2 (f32sub (f32mul e scale) x.2.1)) l
        | _, some f => v.map fun e => f32mul e f
        | _, none => v.map fun _ => 0
      pure ({ r := x.1, v := if c.strict then roundRow d.fmt out else out } : TRow)
  let nct := cdiv c.holdW 64
  let stepW := if c.pairs s then 2 else 1
  (List.range (cdiv nct stepW)).forM fun i => partTiles k c s (stepW * i) tile
  modify fun b => modRun b k fun r => { r with dry := r.dry + 1 }
/-- DRYDOWN_START: the drydown of the next row tile whose hold writes are in the banks, once DRY_TALLY holds. -/
def drydownStart (k : Fin 800) (b : Block) : Block :=
  match runOf b k with
  | none => b
  | some r =>
    if r.e.kind != .chain || r.phase != .running || r.status != .done || r.replayDue.isSome || !cellLive (b.cell k) then b else
    match chainOf r.e with
    | none => b
    | some c =>
      match c.dryPart with
      | none => b
      | some s =>
        if r.rt ≤ r.dry then b else
        let (go, b) := engineWait b (b.cell k).part k 10 c.dryTally (c.h.u 24 4) (r.e.id + 2 ^ 50)
        if !go then b else
        match arrTry b k (dryTile k c s r.dry) (chainFail k) with
        | (true, b) => chainGo (chainTags b k c) k
        | (false, b) => b
def execDrydownStart (k : Fin 800) (s : State) : Out := run (drydownStart k) s

/-! Ends of a chain (R200, R211 to R213, R215). -/
/-- COIN_WAIT_TIMEOUT: the declared bound of the head's coin wait has passed (R215, R236). -/
def coinWaitTimeout (k : Fin 800) (b : Block) : Block :=
  match runOf b k with
  | none => b
  | some r =>
    let h := r.e.recs.headD 0
    let us := if r.e.kind == .chain then h.u 20 2 else (r.e.recs.getD 1 0).u 22 2
    if r.phase != .coins || r.throttled || us == 0 || decide (b.now ≤ r.since + 1000 * us) then b else arrThrottle b k r
def execCoinWaitTimeout (k : Fin 800) (s : State) : Out := act (coinWaitTimeout k) s
/-- CHAIN_WRITE_TIMEOUT: a write that left by the output port has had no answer within the outbound STREAM_TIMEOUT_US; it is a
replay trigger (R211, R516). -/
def chainWriteTimeout (k : Fin 800) (b : Block) : Block :=
  match runOf b k with
  | none => b
  | some r =>
    let us := streamTimeoutUs b k true
    match r.port with
    | some p => if r.e.kind == .chain && r.status == .done && r.replayDue.isNone && us != 0 && decide (p.sent + 1000 * us ≤ b.now) then
        modRun b k fun r => { r with replayDue := some b.now, trigger := 2 } else b
    | none => b
def execChainWriteTimeout (k : Fin 800) (s : State) : Out := act (chainWriteTimeout k) s
/-- CHAIN_STOP: a chain of a cancelled or faulted run ends at its tile boundary, without an event (R212). -/
def chainStop (k : Fin 800) (b : Block) : Block :=
  match runOf b k with
  | none => b
  | some r => if r.e.kind != .chain || r.status == .done then b else arrLeave (looseTiles b k (if r.phase == .coins then 0 else r.e.mask)) k r r.status
def execChainStop (k : Fin 800) (s : State) : Out := run (chainStop k) s
/-- The seal requests of a chain (R200): entry, layer, page and count, for the rows whose handles still hold (R247). -/
def chainSeals (b : Block) (n : Nat) (c : Chain) (r : Run) : List (Nat × Nat × Nat × Nat) :=
  let per := c.kv.filter fun x => x.1.has 0x2C
  let l := per.flatMap fun x => (r.rows.zip (List.range r.rows.length)).filterMap fun y =>
    let m := y.1
    let cnt := if m.pos % 16 = 15 then 16 else if m.eot then m.pos % 16 + 1 else 0
    if m.noAppend || cnt = 0 || (seqCheck b n m.seq).isSome || mget 0 r.appends (16 * y.2 + x.2.i) = 0 then none else some (m.entry, x.2.p3, m.pos / 16, cnt)
  let pages := (l.map fun q => (q.1, q.2.1, q.2.2.1)).eraseDups
  pages.map fun g => (g.1, g.2.1, g.2.2, (l.filter fun q => (q.1, q.2.1, q.2.2.1) == g).foldl (fun a q => max a q.2.2.2) 0)
/-- CHAIN_COMMIT: the walk and every drydown are done and every write has landed (R213). -/
def chainCommit (k : Fin 800) (b : Block) : Block :=
  match runOf b k with
  | none => b
  | some r =>
    match chainOf r.e with
    | none => b
    | some c =>
      if r.e.kind != .chain || r.phase != .running || r.status != .done || r.replayDue.isSome || decide (r.rt < c.rowTiles) ||
        (c.dryPart.isSome && decide (r.dry < c.rowTiles)) then b else
      let n := (b.cell k).part
      let layer := (c.kv.map (·.2.p3)).headD 0
      let attr := ((b.part n).running.map (·.attr)).getD 0
      let rows := (r.appends.map fun x => x.1 / 16).eraseDups
      let b := b.each rows fun b i => match r.rows[i]? with
        | some m => commitAppend b m layer ((r.appends.filter fun x => x.1 / 16 == i).foldl (fun a x => Nat.lor a x.2) 0) attr
        | none => b
      let seals := chainSeals b n c r
      let b := b.each seals fun b q => requestSeal b q.1 q.2.1 q.2.2.1 q.2.2.2 attr
      let b := setKeys (setKeys b r.claims 1) r.consume 0
      let b := doneTally b n k (c.h.u 30 2) (c.h.u 36 2)
      let b := b.modCell k fun cl => ((cl.count 0x20800).count 0x20838 r.appends.length).count 0x20840 seals.length
      let b := if r.replays = 0 then b else cellEvent b k 0x0E03 .done 2 (cellLoc k 2)
        (detail [(16, 1, r.e.thr), (17, 1, r.e.tok), (18, 1, min 255 r.replays), (19, 1, r.trigger), (20, 2, r.rt)])
      arrLeave b k { r with claims := [] } .done
def execChainCommit (k : Fin 800) (s : State) : Out := run (chainCommit k) s

end Sys2Proof.Machine
end

