-- ==== Sys2Proof/Machine/Attention.lean ====
section
/-!
DEFINITION. Machine/Attention.lean: m.attn from its validation to its commit, the walker of a block, and the grant of coins
(spec 08, R421).
-/
namespace Sys2Proof.Machine

/-! The descriptor and the work list (R216, R217, R229). -/
/-- Bytes of the 128-byte descriptor. -/
def ArrEntry.ad (e : ArrEntry) (k n : Nat) : Nat :=
  bits ((e.recs.headD 0).toNat + (e.recs.getD 1 0).toNat * 2 ^ 512 + (e.recs.getD 2 0).toNat * 2 ^ 768) (8 * k) (8 * n)
def ArrEntry.aflag (e : ArrEntry) (i : Nat) : Bool := bit (e.ad 2 1) i
def ArrEntry.fade (e : ArrEntry) : Bool := e.aflag 1
def ArrEntry.norm (e : ArrEntry) : Bool := e.aflag 2
def ArrEntry.keyRot (e : ArrEntry) : Bool := e.aflag 3
def ArrEntry.group (e : ArrEntry) : Nat := e.ad 7 1
def ArrEntry.hd (e : ArrEntry) : Nat := e.ad 8 1
def ArrEntry.qSpace (e : ArrEntry) : Nat := bits (e.ad 11 1) 0 2
def ArrEntry.outSpace (e : ArrEntry) : Nat := bits (e.ad 11 1) 2 2
/-- Bytes of a merge slot (R231) and of a park slot (R227). -/
def ArrEntry.mslot (e : ArrEntry) : Nat := 128 * e.hd * 4 + 1024
def ArrEntry.pslot (e : ArrEntry) : Nat := e.mslot + 64
/-- Bytes of an element of a format without blocks. -/
def fmtBytes (f : Nat) : Nat := cvtBits (fmtElem f) / 8
def AItem.seq (x : AItem) : Nat := x.w.u 0 4
def AItem.qpos (x : AItem) : Nat := x.w.u 4 4
def AItem.qtok (x : AItem) : Nat := x.w.u 8 1
def AItem.valid (x : AItem) : Nat := x.w.u 9 1
def AItem.head (x : AItem) : Nat := x.w.u 10 1
def AItem.splits (x : AItem) : Nat := x.w.u 11 1
def AItem.si (x : AItem) : Nat := x.w.u 12 1
def AItem.qrow (x : AItem) : Nat := x.w.u 16 4
def AItem.kend (x : AItem) : Nat := x.qpos + x.valid
/-- The item's merge slots as an address of another cell's store. -/
def AItem.mergeAddr (x : AItem) : Addr := { space := 1, lcell := x.w.u 14 2, buf := bits (x.w.u 28 4) 0 8, off := bits (x.w.u 28 4) 8 23 }
/-- The item's blocks: the first, and how many (R229). -/
def AItem.range (x : AItem) : Nat × Nat :=
  let nb := cdiv x.kend 64
  let q := cdiv nb (max 1 x.splits)
  (x.si * q, min nb ((x.si + 1) * q) - x.si * q)
/-- The phase that an item is in (R230). -/
def AItem.phase (x : AItem) : Nat := if x.splits < 2 then 1 else if x.si = 0 then 2 else if x.mode = 2 then 3 else 1
/-- A work list as validation reads it (R46, R237): its header, its items where it lies inside its buffer, whether its granules are
FULL and its words readable, or whether it lies in a weight block under refetch, for which the read waits (R155). -/
structure WorkList where
  head : Nat := 0
  items : List AItem := []
  full : Bool := true
  readable : Bool := true
  stalled : Bool := false
def workList (b : Block) (k : Nat) (e : ArrEntry) : WorkList × Block :=
  let a := addrOf 0 (e.ad 12 4)
  match (b.cell k).bufAddr a.buf a.off 64 false with
  | none => ({}, b)
  | some p =>
    match storeRead b k p 64 (2 + 8 * e.id) with
    | (.ok h, b) =>
      let n := bits h 0 16
      match (b.cell k).bufAddr a.buf a.off (64 + 64 * n) false with
      | none => ({ head := h }, b)
      | some _ =>
        let full := (granules p (64 + 64 * n)).all fun g => (b.cell k).tag g == 1
        match storeRead b k (p + 64) (64 * n) (2 + 8 * e.id) with
        | (.ok v, b) => ({ head := h, full := full, items := (List.range n).map fun i => { w := BitVec.ofNat 512 (bits v (512 * i) 512) } }, b)
        | (.refetch _, b) => ({ stalled := true }, b)
        | (.bad _ _, b) => ({ head := h, full := full, readable := false }, b)
    | (.refetch _, b) => ({ stalled := true }, b)
    | (.bad _ _, b) => ({ readable := false }, b)
/-- Checks of one item (R217, R229, R237). -/
def itemOk (b : Block) (n : Nat) (e : ArrEntry) (lenMax : Nat) (x : AItem) : Bool :=
  let w := x.w
  let y := b.entry (x.seq % 65536)
  let m := b.model n y.model
  let nb := cdiv x.kend 64
  decide (1 ≤ x.qtok ∧ x.qtok ≤ 128 ∧ x.qtok * e.group ≤ 128 ∧ 1 ≤ x.valid ∧ x.valid ≤ x.qtok ∧ 1 ≤ x.splits ∧ x.splits ≤ 64 ∧ x.si < x.splits) &&
  decide (x.kend ≤ lenMax ∧ x.kend ≤ 1048576) && w.u 13 1 == 0 && w.u 44 20 == 0 && !bit (w.u 28 4) 31 &&
  (if x.splits = 1 then w.u 28 16 == 0
    else decide ((x.splits - 1) * cdiv nb x.splits < nb) && tallyOk b n (w.u 32 2) && tallyOk b n (w.u 34 2)) &&
  ((seqCheck b n x.seq).isSome || (decide (x.head < m.kvHeads) && [3, 4].contains m.fmt && m.headDim == e.hd))

/-! ATTN_START (R236, R237). -/
/-- The armed statistic range of the score buffer. -/
def scoreRange (c : Cell) (e : ArrEntry) : Option Range :=
  let a := addrOf 0 (e.ad 44 4)
  match c.bufAddr a.buf a.off 32768 true with
  | none => none
  | some p => match c.rangeAt p with
    | some r => if r.base = p ∧ r.stat ∧ r.statKind = 0 ∧ r.rowElems = 64 ∧ r.len = 32768 ∧ r.fmt = 0 then some r else none
    | none => none
def attnCoins (e : ArrEntry) : Nat :=
  let slow : Bool := [1, 2].contains (e.ad 4 1) || [1, 2].contains (e.ad 5 1)
  4 + (if slow then 28 else 36) + 6 + 3 * b2n (e.aflag 0) + 3 * b2n e.keyRot + 3
/-- The order of validation (R11) over the checks of R237's table. A program sizes its merge area for its bucket, so MERGE_LEN may be
larger than the list's merging items need (log entry 28). -/
def attnCheck (b : Block) (k : Nat) (e : ArrEntry) (wl : WorkList) : Option Status :=
  let head := wl.head
  let items := wl.items
  let c := b.cell k
  let n := c.part
  let rot := e.aflag 0 || e.keyRot
  let own : List (Nat × Nat × Nat) := [(e.ad 12 4, 64 + 64 * bits head 0 16, 64), (e.ad 44 4, 32768, 64), (e.ad 48 4, e.ad 52 4, 64), (e.ad 56 4, e.ad 60 4, 64)] ++
    [(e.ad 64 4, e.ad 68 4, 64)] ++ (if rot then [(e.ad 40 4, 2 * e.ad 9 1, 1)] else [])
  let outside (x : Nat × Nat × Nat) : Bool := let a := addrOf 0 x.1; x.2.1 != 0 && ((c.bufAddr a.buf a.off x.2.1 false).isNone || (c.buf a.buf).weight)
  let acc := (c.thread e.thr).accMask.toNat
  let merging := (items.filter fun x => decide (2 ≤ x.splits) && x.si == 0).map fun x => (x.splits - 1) * e.mslot + 1024
  let fields := decide (e.ad 2 1 < 16) && decide (e.ad 3 1 ≤ 2) && [1, 2, 3, 4].contains (e.ad 4 1) && [1, 2, 3, 4].contains (e.ad 5 1) && decide (e.ad 6 1 ≤ 3) &&
    (e.norm || e.ad 6 1 == 0) && decide (1 ≤ e.group ∧ e.group ≤ 16) && [64, 128].contains e.hd && decide (e.ad 0 2 < 1024) &&
    (if rot then e.ad 9 1 % 2 == 0 && decide (2 ≤ e.ad 9 1 ∧ e.ad 9 1 ≤ e.hd) else e.ad 9 1 == 0) &&
    decide (1 + e.hd / 64 ≤ popcount (e.ad 10 1)) && decide (e.ad 11 1 < 16) && [1, 2].contains e.qSpace && [1, 2].contains e.outSpace &&
    (if e.ad 3 1 = 1 then decide (16 ≤ e.ad 80 2) else e.ad 80 4 == 0) && (!e.norm || (e.ad 72 8 == 0 && e.ad 98 4 == 0)) &&
    addrForm e.qSpace (e.ad 16 8) && addrForm e.outSpace (e.ad 32 8) && (e.norm || addrForm e.outSpace (e.ad 72 8)) &&
    (e.ad 90 2 == 0xFFFF || e.ad 96 2 != 0) && e.ad 102 26 == 0 && own.all (fun x => decide (x.1 < 2 ^ 31))
  let head_ := decide (bits head 0 16 ≤ 1024) && bits head 16 16 == 0 && bits head 96 416 == 0
  refuse [
    (partScrubbing b n, .scrubbing),
    (Nat.land (e.ad 10 1) acc != e.ad 10 1 || own.any outside || items.any (fun x => seqCheck b n x.seq == some .protection), .protection),
    (own.any (fun x => (addrOf 0 x.1).off % x.2.2 != 0) || e.ad 24 4 % 64 != 0 || e.ad 28 4 % 64 != 0 || e.ad 98 4 % 64 != 0, .alignment),
    (!fields || !head_ || !wl.full || !tallyField b n (e.ad 88 2) || !tallyField b n (e.ad 90 2) || items.any (fun x => seqCheck b n x.seq == some .descInvalid) ||
      !(items.all (itemOk b n e (bits head 64 32))) || (scoreRange c e).isNone || decide (e.ad 52 4 < 4 * 64 * e.hd * 2) ||
      decide (e.ad 60 4 < e.pslot) || decide (e.ad 68 4 < merging.sum), .descInvalid),
    (!wl.readable, .uncorrectable)]
/-- The bytes of one row of an output, and its place (R219). -/
def outRow (e : ArrEntry) (x : AItem) (t g : Nat) : Addr × Nat :=
  let h := x.head * e.group + g
  let sz := if e.norm then fmtBytes (e.ad 6 1) else 4
  ((addrOf e.outSpace (e.ad 32 8)).move ((x.qrow + t) * e.ad 28 4 + h * e.hd * sz), e.hd * sz)
/-- Whether an output lands in an armed accumulate range (R219, R519). -/
def attnNonReplay (b : Block) (k : Nat) (e : ArrEntry) (items : List AItem) : Bool :=
  decide (e.outSpace = 1) && items.any fun x => (decide (x.splits = 1) || decide (x.si = 0)) &&
    (List.range x.valid).any fun t => (List.range e.group).any fun g =>
      let (a, len) := outRow e x t g
      match storeSide b k a len true with
      | some (.store q p) => (b.cell q).ranges.any fun r => !r.stat && overlaps r.base r.len p len
      | _ => false
def attnStart (k : Fin 800) (b : Block) : Block :=
  match arrHead b k .attn with
  | none => b
  | some e =>
    let n := (b.cell k).part
    let b := arrIdle b k
    let (go, b) := if tallyOk b n (e.ad 88 2) then engineWait b n k 10 (e.ad 88 2) (e.ad 92 4) e.id else (true, b)
    if !go then b else
    let (wl, b) := workList b k e
    if wl.stalled then b else
    let items := wl.items
    match attnCheck b k e wl with
    | some st => arrRefuse b k 0x21808 e st
    | none =>
      if purseCeil b (k / 40) < attnCoins e then arrRefuse b k 0x21808 e .quota
      else arrTake b k e (attnCoins e) { e := e, items := items, aphase := 1, nonReplay := attnNonReplay b k e items }
def execAttnStart (k : Fin 800) (s : State) : Out := run (attnStart k) s

/-! The walker of a block (R223 to R226). -/
/-- The leaf group of a page, or of the extent that it is a piece of. -/
def WalkPage.grp (p : WalkPage) : Nat := if 3 ≤ p.ext then p.page / 2 ^ p.ext * 2 ^ p.ext / 8 else p.page / 8
def Lab.is (l : Lab) (n : Nat) (w : Walk) (g : Nat) : Bool := l.part == n && l.entry == w.entry && l.gen == w.gen && l.layer == w.layer && l.group == g
def Miss.is (l : Miss) (n : Nat) (w : Walk) (g : Nat) : Bool := l.part == n && l.entry == w.entry && l.gen == w.gen && l.layer == w.layer && l.group == g
/-- Live walks of the eight cells of a block. -/
def blockWalks (b : Block) (blk : Nat) : List Walk := (blockCells blk).flatMap fun k => match runOf b k with
  | some r => r.items.filterMap (·.walk)
  | none => []
/-- A walk of a cell ends: pins, latch and slot go, and the LAB drops entries of a generation that no walk latches. -/
def walkEnd (b : Block) (k : Nat) (w : Walk) : Block :=
  let n := (b.cell k).part
  let left := (blockWalks b (k / 8)).filter fun x => x.id != w.id
  let b := endWalk b n w.model w
  b.modWalker (k / 8) fun y => { y with walks := y.walks.filter (· != w.id), slotWait := false, lab := y.lab.filter fun l => !(l.part == n && l.entry == w.entry && l.gen == w.gen) || left.any fun x => x.entry == w.entry && x.gen == w.gen }
def modItem (b : Block) (k i : Nat) (f : AItem → AItem) : Block := modRun b k fun r => { r with items := r.items.mapIdx fun j x => if j = i then f x else x }
/-- The pages of positions 0 to `kend` - 1 as the tables name them now. -/
def walkPages (b : Block) (x layer kend : Nat) : List WalkPage :=
  let e := b.entry x
  (List.range (cdiv kend 16)).filterMap fun p =>
    let l := e.leaf layer p
    if l.st = 0 then none
    else some { page := p, resident := l.st != 2 && !e.swapMarks.contains (leafKey layer p), unrot := l.unrot, frame := leafFrame l p,
                ext := if l.st = 3 then l.ext + 1 else 0 }

/-! Ends of the command (R238, R239). -/
/-- Bytes that a command had begun to write hold undefined values: a free value, in an armed range the stored elements too. -/
def looseOut (b : Block) (k : Nat) (w : Nat × Nat × Nat) : Block :=
  let (v, b) := b.draw
  if w.1 = 0 then pvaWrite b (b.cell k).part .tenantWrite w.2.1 (pvaFuel w.2.2) w.2.2 v
  else b.modCell (w.1 - 1) fun c => match (c.rangeAt w.2.1).map (·.stat) with
    | some false => (c.accWords w.2.1 w.2.2).foldl (fun c x => c.put x.1 x.2 v) c
    | _ => c.put w.2.1 w.2.2 v
/-- The command leaves the array: its walks end; unless it committed, its output rows, its slots and its tiles are undefined. -/
def attnLeave (b : Block) (k : Nat) (r : Run) (st : Status) : Block :=
  let b := if st = .done then b else b.each r.wrote fun b w => looseOut b k w
  let b := b.each (r.items.filterMap (·.walk)) fun b w => walkEnd b k w
  let b := if r.phase = .coins ∧ !r.absent ∧ r.items.all (fun x => x.q.isEmpty) then b else looseTiles b k r.e.mask
  arrLeave (modRun b k fun r => { r with items := r.items.map fun x => { x with walk := none } }) k r st
/-- The command ends under R238 with ATTN_FAULT. -/
def attnFail (k : Nat) (b : Block) (st : Status) (_stage space addr : Nat) : Block :=
  match runOf b k with
  | none => b
  | some r =>
    let blk := (r.items[r.cur]?).map (·.block) |>.getD 0
    attnLeave (cellEvent b k 0x0403 st 0 (cellLoc k 2)
      (detail [(16, 1, r.e.thr), (17, 1, r.e.tok), (18, 2, r.cur), (20, 2, blk), (22, 1, r.aphase), (24, 6, addr), (30, 1, space)])) k r st

/-! One item's work (R218 to R222, R231 to R233). -/
/-- Reads bytes of an operand in another cell's store, or at a PVA. -/
def attnRead (k : Nat) (a : Addr) (n : Nat) : Arr Nat := do
  let b ← get
  let p := (b.cell k).part
  if a.space = 2 then
    if !pvaOk b p .tenantRead a.off n then arrFault .protection 0 2 a.off
    else if pvaBad b p .tenantRead a.off n then arrFault .uncorrectable 0 2 a.off
    else pure (pvaRead b p .tenantRead a.off (pvaFuel n) n)
  else match storeSide b k a n false with
    | some (.store q off) => match storeRead b q off n (2 + 8 * runId b k) with
      | (.ok v, b) => set b; pure v
      | (.refetch _, _) => throw (.stall q off n)
      | (.bad _ _, b) => throw (.fault .uncorrectable 0 a.space a.encode b)
    | _ => arrFault .protection 0 a.space a.encode
/-- Notes bytes of a store, or of a PVA, that the command begins to write. -/
def noteWrote (b : Block) (k : Nat) (w : Nat × Nat × Nat) : Block := modRun b k fun r => if r.wrote.contains w then r else { r with wrote := r.wrote ++ [w] }
/-- A write of an output row, of a record or of a slot. -/
def attnWrite (k : Nat) (a : Addr) (len data : Nat) : Arr Unit := do
  modify fun b => if a.space = 2 then noteWrote b k (0, a.off, len) else match storeSide b k a len true with
    | some (.store q off) => noteWrote b k (q + 1, off, len)
    | _ => b
  outWrite k 0 a len data false
/-- Rotates a row of HEAD_DIM elements at a position (R196, R220, R221). -/
def attnRot (e : ArrEntry) (f : List Nat) (p : Nat) (v : List Nat) : List Nat :=
  (List.range v.length).map fun d =>
    if e.ad 9 1 ≤ d then v.getD d 0
    else let y := rotPair p (f.getD (d / 2) 0) (v.getD (d / 2 * 2) 0) (v.getD (d / 2 * 2 + 1) 0); if d % 2 = 0 then y.1 else y.2
/-- The rotary frequency table. -/
def attnFreq (k : Nat) (e : ArrEntry) : Arr (List Nat) := do
  if !(e.aflag 0 || e.keyRot) then pure [] else
    let n := e.ad 9 1 / 2
    let v ← feed k 0 (e.ad 40 4) 0 (4 * n) 0
    pure ((List.range n).map fun i => bits v (32 * i) 32)
/-- A sum of a position and a signed offset, modulo 2^32. -/
def rotPos (p off : Nat) : Nat := (p + off) % 2 ^ 32
/-- The item's query rows, decoded, rotated and rounded to Q_FMT (R220). -/
def attnQueries (k : Nat) (e : ArrEntry) (x : AItem) : Arr (List (List Nat)) := do
  let f ← attnFreq k e
  let fm := e.ad 4 1
  let sz := fmtBytes fm
  let rows ← (List.range (x.qtok * e.group)).mapM fun r => do
    let t := r / e.group
    let h := x.head * e.group + r % e.group
    let v ← attnRead k ((addrOf e.qSpace (e.ad 16 8)).move ((x.qrow + t) * e.ad 24 4 + h * e.hd * sz)) (e.hd * sz)
    let q := (rowDecode fm v e.hd).map fp32.arith
    pure (if e.aflag 0 then roundRow fm (attnRot e f (rotPos (x.qpos + t) (x.w.u 20 4)) q) else q)
  pure rows
/-- Whether a row sees a key position (R222). -/
def keySeen (e : ArrEntry) (x : AItem) (r j : Nat) : Bool :=
  let t := r / max 1 e.group
  let p := x.qpos + t
  decide (t < x.valid ∧ j < x.kend) && match e.ad 3 1 with
    | 0 => decide (j ≤ p)
    | 1 => decide (j ≤ p) && (decide (p < j + e.ad 80 2) || decide (j < e.ad 82 2))
    | _ => true
def AItem.rows (e : ArrEntry) (x : AItem) : List Nat := List.range (x.qtok * e.group)
/-- First key of the item's current block. -/
def AItem.base (x : AItem) : Nat := 64 * (x.range.1 + x.block)
/-- The pages of the current block that the walk translates. -/
def blockPages (x : AItem) (w : Walk) : List WalkPage := w.pages.filter fun p => decide (x.base ≤ 16 * p.page) && decide (16 * p.page < x.base + 64)
/-- The statistic records of the score range. -/
def recsOf (raw : Nat) : List (Nat × Nat) := (List.range 128).map fun r => (bits raw (64 * r) 32, bits raw (64 * r + 32) 32)
def packRecs (l : List (Nat × Nat)) : Nat := packCodes 64 (l.map fun m => m.1 + m.2 * 2 ^ 32)
def attnRecs (k : Nat) (e : ArrEntry) : Arr (Range × List (Nat × Nat)) := do
  match scoreRange ((← get).cell k) e with
  | none => arrFault .protection 0 0 (e.ad 44 4)
  | some r => return (r, recsOf (← feedAt k 0 (e.ad 44 4) 0 1024 0 r.recBase))
/-- The item's first step: records reset, staging ring in use, queries read, O tiles at +0. -/
def attnInit (k : Nat) (e : ArrEntry) (i : Nat) (x : AItem) : Arr Unit := do
  let (r, _) ← attnRecs k e
  modify fun b => b.each (List.range 128) fun b j => b.modCell k fun c => c.rearm r j
  let a := addrOf 0 (e.ad 48 4)
  modify fun b => match (b.cell k).bufAddr a.buf a.off (e.ad 52 4) true with
    | some p => let (v, b) := b.draw; b.modCell k fun c => c.put p (e.ad 52 4) v
    | none => b
  let q ← attnQueries k e x
  modify fun b => modItem b k i fun x => { x with q := q, o := q.map fun _ => List.replicate e.hd 0, block := 0, incs := [] }
/-- One page's key and value rows (R221, R226, R242): 16 rows each, keys rotated where the page is unrotated. -/
def pageRows (k : Nat) (e : ArrEntry) (x : AItem) (w : Walk) (f : List Nat) (p : WalkPage) : Arr (List (List Fl × List Fl)) := do
  let b ← get
  let n := (b.cell k).part
  let m := b.model n w.model
  let a := frameMpa b n w.model p.frame + x.head * 2 * 16 * e.hd
  if p.unrot && !e.keyRot then arrFault .descInvalid 0 2 (m.framePva p.frame)
  let (bad, b) := memCheck b n a (2 * 16 * e.hd)
  set b
  if bad then arrFault .uncorrectable 0 2 (m.framePva p.frame)
  else
    let ks := rowDecode m.fmt (b.memRead a (16 * e.hd)) (16 * e.hd)
    let vs := rowDecode m.fmt (b.memRead (a + 16 * e.hd) (16 * e.hd)) (16 * e.hd)
    pure ((List.range 16).map fun s =>
      let row := (ks.drop (s * e.hd)).take e.hd
      let row := if p.unrot then roundFl m.fmt ((attnRot e f (rotPos (16 * p.page + s) (x.w.u 24 4)) (row.map fp32.arith)).map f32) else row
      (row, (vs.drop (s * e.hd)).take e.hd))
/-- The current block passes through its place in the staging ring, whose bytes have no layout (free values): a word that an armed
injection makes bad on the way in is met on the way out (R238, R553; log entry 90). -/
def stageBlock (k : Nat) (e : ArrEntry) (x : AItem) : Arr Unit := do
  let a := addrOf 0 (e.ad 48 4)
  let len := 128 * e.hd
  match ((← get).cell k).bufAddr a.buf (a.off + x.block % max 1 (e.ad 52 4 / len) * len) len true with
  | none => pure ()
  | some p => do
    modify fun b => let (v, b) := b.draw; b.modCell k fun c => c.put p len v
    if (((← get).cell k).errsIn p len).isEmpty then pure () else
      let _ ← feedAt k 0 (e.ad 48 4) 0 len 0 p
/-- The keys and values of the current block, with the pages that it has; positions from K_END on are zero. -/
def blockRows (k : Nat) (e : ArrEntry) (x : AItem) (w : Walk) : Arr (List (List Fl × List Fl)) := do
  stageBlock k e x
  let f ← attnFreq k e
  let zero := List.replicate e.hd (Fl.fin false 0 0)
  let pages ← (blockPages x w).mapM fun p => do return (p.page, ← pageRows k e x w f p)
  pure ((List.range 64).map fun j =>
    let pos := x.base + j
    if x.kend ≤ pos then (zero, zero) else
      match pages.find? fun p => p.1 == pos / 16 with
      | some p => p.2.getD (pos % 16) (zero, zero)
      | none => (zero, zero))
/-- Visible keys of a row in the current block: those of a dropped page are hidden (R279). -/
def seenIn (e : ArrEntry) (x : AItem) (w : Walk) (r : Nat) : List Bool :=
  let pages := (blockPages x w).map (·.page)
  (List.range 64).map fun j => keySeen e x r (x.base + j) && pages.contains ((x.base + j) / 16)
/-- Whether some valid row sees a key of the current block (R218). -/
def blockSeen (e : ArrEntry) (x : AItem) (w : Walk) : Bool := (x.rows e).any fun r => (seenIn e x w r).any id
/-- The scores of a row, -inf where hidden. -/
def scoreRow (q : List Nat) (kv : List (List Fl × List Fl)) (seen : List Bool) : List Nat :=
  let qf := q.map f32
  (kv.zip seen).map fun y => if y.2 then dotFp 0 qf y.1.1 else f32negInf
/-- One block of the walk (R218). -/
def attnBlock (k : Nat) (e : ArrEntry) (i : Nat) (x : AItem) (w : Walk) : Arr Unit := do
  let kv ← blockRows k e x w
  let s := (x.rows e).map fun r => let v := seenIn e x w r; (v, scoreRow (x.q.getD r []) kv v)
  let (g, old) ← attnRecs k e
  (s.zip (x.rows e)).forM fun y => (List.range 4).forM fun l =>
    if ((y.1.1.drop (16 * l)).take 16).any id then do
      let p := g.base + 256 * y.2 + 64 * l
      let b := (accCheck (← get) k p 64 2).2
      let (c, fl, bad) := (b.cell k).engineWrite p 64 (packCodes 32 ((y.1.2.drop (16 * l)).take 16)) e.id
      let b := modRun (b.setCell k c) k fun r => { r with flags := r.flags.or fl }
      match bad with
      | some st => throw (.fault st 0 0 (e.ad 44 4) b)
      | none => set b
    else pure ()
  let (_, new) ← attnRecs k e
  let o := (s.zip (x.rows e)).map fun y =>
    let r := y.2
    let m := (new.getD r (0, 0)).1
    let c := if m = f32negInf then f32one else f32exp2 (f32sub (old.getD r (0, 0)).1 m)
    let p := roundFl (e.ad 5 1) (y.1.2.map fun v => if v = f32negInf then .fin false 0 0 else f32 (f32exp2 (f32sub (f32mul v g.scale) m)))
    (List.range e.hd).map fun d => dotFp (f32mul ((x.o.getD r []).getD d 0) c) p (kv.map fun z => z.2.getD d .nan)
  modify fun b => (modItem b k i fun x => { x with o := o, block := x.block + 1 }).countC k 0x21818
/-- Output rows and records of an item whose final records are known (R219, R232). `recs` gives each row's records. -/
def attnOutput (k : Nat) (e : ArrEntry) (x : AItem) (o : List (List Nat)) (merged : List (Nat × Nat)) (recs : Nat → List (Nat × Nat)) : Arr Unit :=
  (List.range (x.valid * e.group)).forM fun r => do
    let (a, len) := outRow e x (r / e.group) (r % e.group)
    let m := merged.getD r (f32negInf, 0)
    let row := o.getD r []
    if e.norm then
      let v := if m.1 = f32negInf then row.map fun _ => 0 else let l := f32rcp m.2; row.map fun y => f32mul y l
      attnWrite k a len (packCodes (8 * fmtBytes (e.ad 6 1)) (v.map fun y => (toElem (fmtElem (e.ad 6 1)) 0 none (f32 y)).code))
    else do
      attnWrite k a len (packCodes 32 row)
      let h := x.head * e.group + r % e.group
      let l := recs r
      attnWrite k ((addrOf e.outSpace (e.ad 72 8)).move ((x.qrow + r / e.group) * e.ad 98 4 + 8 * x.splits * h)) (8 * l.length) (packRecs l)
/-- What follows the item's own walk (R219, R231): its output, or its partial, or the wait for the others' partials. -/
def attnFinish (k : Nat) (e : ArrEntry) (i : Nat) (x : AItem) : Arr Unit := do
  let (_, recs) ← attnRecs k e
  if x.splits = 1 then do
    attnOutput k e x x.o recs fun r => [recs.getD r (0, 0)]
    modify fun b => modItem b k i fun x => if e.fade then { x with mode := 2, block := 0, merged := recs } else { x with st := .delivered }
  else if x.si = 0 then modify fun b => modItem b k i fun x => { x with mode := 1 }
  else do
    let a := x.mergeAddr.move ((x.si - 1) * e.mslot)
    (x.o.zip (List.range x.o.length)).forM fun y => attnWrite k (a.move (y.2 * e.hd * 4)) (4 * e.hd) (packCodes 32 y.1)
    attnWrite k (a.move (128 * e.hd * 4)) 1024 (packRecs recs)
    modify fun b => modItem b k i fun x => { x with st := .delivered }
/-- The merge of R232, once every partial is there. -/
def attnMerge (k : Nat) (e : ArrEntry) (i : Nat) (x : AItem) : Arr Unit := do
  let (_, own) ← attnRecs k e
  let others ← (List.range (x.splits - 1)).mapM fun j => do
    let v ← attnRead k (x.mergeAddr.move (j * e.mslot)) e.mslot
    pure ((List.range (x.o.length)).map fun r => (List.range e.hd).map fun d => bits v (32 * (r * e.hd + d)) 32, recsOf (bits v (8 * 128 * e.hd * 4) 8192))
  let parts := (x.o, own) :: others
  let all := (List.range 128).map fun r =>
    let recs := parts.map fun p => p.2.getD r (0, 0)
    let m := (recs.drop 1).foldl (fun m y => f32max m y.1) (own.getD r (0, 0)).1
    if m = f32negInf then ((f32negInf, 0), List.replicate e.hd 0) else
      let fs := recs.map fun y => f32exp2 (f32sub y.1 m)
      let l := (recs.zip fs).foldl (fun l y => f32fma y.1.2 y.2 l) 0
      let acc := (parts.zip fs).foldl (fun acc y => (List.range e.hd).map fun d => f32fma ((y.1.1.getD r []).getD d 0) y.2 (acc.getD d 0)) (List.replicate e.hd 0)
      ((m, l), acc)
  let merged := all.map (·.1)
  attnOutput k e x (all.map (·.2)) merged fun r => parts.map fun p => p.2.getD r (0, 0)
  attnWrite k (x.mergeAddr.move ((x.splits - 1) * e.mslot)) 1024 (packRecs merged)
  modify fun b => modItem b k i fun x => if e.fade then { x with mode := 2, block := 0, merged := merged } else { x with st := .delivered }
/-- The records of a phase 3 item, from the merging item's region (R233). -/
def attnMerged (k : Nat) (e : ArrEntry) (i : Nat) (x : AItem) : Arr Unit := do
  let a := x.mergeAddr.move ((x.splits - 1) * e.mslot)
  let v ← attnRead k a 1024
  -- unanswered until the item lands
  modify fun b => modRun b k fun r => { r with port := some (r.port.getD { sent := b.now, space := 1, addr := a.encode }) }
  modify fun b => modItem b k i fun x => { x with merged := recsOf v, block := 0 }
/-- One block of the fade walk (R233): an increment for each page that it read. -/
def attnFade (k : Nat) (e : ArrEntry) (i : Nat) (x : AItem) (w : Walk) : Arr Unit := do
  let kv ← blockRows k e x w
  let (g, _) ← attnRecs k e
  let rows := (x.rows e).map fun r =>
    let v := seenIn e x w r
    let m := x.merged.getD r (f32negInf, 0)
    let inv := f32rcp m.2
    (v.zip (scoreRow (x.q.getD r []) kv v)).map fun y => if y.1 then f32mul (f32exp2 (f32sub (f32mul y.2 g.scale) m.1)) inv else 0
  let b ← get
  let incs := (blockPages x w).map fun p =>
    let keys := (List.range 16).map fun s =>
      treeFold f32add 7 ((List.range 128).map fun r => (rows.getD r []).getD (16 * p.page + s - x.base) 0)
    ((b.frame (b.cell k).part w.model p.frame).born * 2 ^ 40 + w.model * 2 ^ 32 + p.frame, treeFold f32add 4 keys)
  modify fun b => modItem b k i fun x => { x with incs := x.incs ++ incs, block := x.block + 1 }

/-! The engine: translations, waits and progress (R225, R227 to R231). -/
/-- What stands before an item's next piece of work: nothing, a leaf read or a tally, or a page that is out. -/
inductive Look where
  | ready | hold | absent (page : Nat)
/-- Issues leaf reads for groups, on demand or ahead, while fewer than 32 are outstanding. -/
def leafReads (b : Block) (k : Nat) (w : Walk) (demand : Bool) (pages : List WalkPage) : Block :=
  let n := (b.cell k).part
  b.each pages fun b p =>
    let y := b.walker (k / 8)
    if y.lab.any (fun l => l.is n w p.grp) then b
    else if y.misses.any (fun l => l.is n w p.grp) then
      if demand then b.modWalker (k / 8) fun y => { y with misses := y.misses.map fun l => if l.is n w p.grp then { l with demand := true } else l } else b
    else if 32 ≤ y.misses.length then b
    else (b.modWalker (k / 8) fun y => { y with misses := y.misses ++ [({ part := n, entry := w.entry, gen := w.gen, layer := w.layer, group := p.grp, page := p.page, demand := demand, at_ := b.now } : Miss)] }).countW (k / 8) (if demand then 0x60810 else 0x60818)
def attnLook (b : Block) (k : Nat) (r : Run) (x : AItem) : Look × Block :=
  let n := (b.cell k).part
  let e := r.e
  match x.walk with
  | none => (.hold, b)
  | some w =>
    if x.mode = 1 then
      let (go, b) := engineWait b n k 10 (x.w.u 32 2) ((x.w.u 36 4 + (e.ad 84 2 + 1) * (x.splits - 1)) % 2 ^ 32) (e.id + 2 ^ 51 + r.cur)
      (if go then .ready else .hold, modRun b k fun r => { r with mergeWait := !go })
    else if x.mode = 2 && x.merged.isEmpty then
      let (go, b) := engineWait b n k 10 (x.w.u 34 2) ((x.w.u 40 4 + e.ad 84 2 + 1) % 2 ^ 32) (e.id + 2 ^ 52 + r.cur)
      (if go then .ready else .hold, modRun b k fun r => { r with recordWait := !go })
    else if x.range.2 ≤ x.block || !blockSeen e x w then (.ready, b)
    else
      let pages := blockPages x w
      let ahead := w.pages.filter fun p => decide (x.base + 64 ≤ 16 * p.page) && decide (16 * p.page < x.base + 64 + 512)
      let b := leafReads (leafReads b k w true pages) k w false ahead
      let y := b.walker (k / 8)
      if !(pages.all fun p => y.lab.any fun l => l.is n w p.grp) then (.hold, b)
      else match pages.find? fun p => !p.resident with
        | some p => (.absent p.page, b)
        | none =>
          let stamp := (y.lab.map (·.used)).foldl max 0 + 1
          (.ready, (b.modWalker (k / 8) fun y => { y with lab := y.lab.map fun l => if pages.any (fun p => l.is n w p.grp) then { l with used := stamp } else l }).countW
            (k / 8) 0x60808 pages.length)
/-- One piece of an item's work. -/
def attnStep (k : Nat) (r : Run) (x : AItem) : Arr Unit :=
  match x.walk with
  | none => pure ()
  | some w =>
    let i := r.cur
    if x.q.isEmpty then attnInit k r.e i x
    else if x.mode = 1 then attnMerge k r.e i x
    else if x.mode = 2 && x.merged.isEmpty then attnMerged k r.e i x
    else if x.range.2 ≤ x.block then
      if x.mode = 0 then attnFinish k r.e i x else modify fun b => modItem b k i fun x => { x with st := .delivered }
    else if !blockSeen r.e x w then modify fun b =>
      let b := modItem b k i fun x => { x with block := x.block + 1 }
      if x.mode = 0 then b.countC k 0x21820 else b
    else if x.mode = 0 then attnBlock k r.e i x w else attnFade k r.e i x w
/-- The phase of the items that are left; 0 when none is. -/
def runPhase (r : Run) : Nat := ((r.items.filter fun x => x.st != .done).map AItem.phase).foldl (fun a p => if a = 0 then p else min a p) 0
/-- The first item of the phase that has not begun its part of it. -/
def nextItem (r : Run) : Option Nat := (List.range r.items.length).find? fun i => match r.items[i]? with
  | some x => x.st == .todo && x.phase == runPhase r
  | none => false
/-- Slots of the park area, and the first free one. -/
def freePark (r : Run) : Option Nat := (List.range (min 16 (r.e.ad 60 4 / max 1 r.e.pslot))).find? fun j => !(r.items.any fun x => x.slot == some j)
/-- Saves an item's O rows, records and position to a slot of the park area; its last 64 bytes have no layout (free value). -/
def parkItem (b : Block) (k i slot : Nat) : Block :=
  match runOf b k with
  | none => b
  | some r =>
    let a := addrOf 0 (r.e.ad 56 4)
    match r.items[i]?, (b.cell k).bufAddr a.buf (a.off + slot * r.e.pslot) r.e.pslot true, scoreRange (b.cell k) r.e with
    | some x, some p, some g =>
      let (v, b) := b.draw
      let b := b.modCell k fun c =>
        let c := (x.o.zip (List.range x.o.length)).foldl (fun c y => c.put (p + y.2 * r.e.hd * 4) (4 * r.e.hd) (packCodes 32 y.1)) c
        (c.put (p + 128 * r.e.hd * 4) 1024 (c.store.read g.recBase 1024)).put (p + r.e.mslot) 64 v
      modItem (noteWrote b k (k + 1, p, r.e.pslot)) k i fun x => { x with st := .parked, slot := some slot }
    | _, _, _ => b
/-- An item meets a page that is out (R227): ATTN_PAGE_ABSENT, and it parks, or waits in place where no slot is free. -/
def attnAbsent (b : Block) (k : Nat) (r : Run) (x : AItem) (page : Nat) : Block :=
  let slot := freePark r
  let b := cellEvent b k 0x0404 .pageAbsent 0 (cellLoc k 2)
    (detail [(16, 1, r.e.thr), (17, 1, r.e.tok), (18, 2, r.cur), (20, 4, x.seq), (24, 4, page), (28, 2, r.e.ad 0 2), (30, 1, b2n slot.isSome)])
  let b := modItem b k r.cur fun x => { x with page := page, parkAt := b.now }
  match slot with
  | some j => (parkItem b k r.cur j).countC k 0x21828
  | none => modItem b k r.cur fun x => { x with st := .waiting }
/-- Every walk slot of the block is in use and held by a parked item (R552). -/
def slotsParked (b : Block) (blk : Nat) : Bool :=
  let parked := (blockCells blk).flatMap fun k => match runOf b k with
    | some r => r.items.filterMap fun x => if x.st == .parked then x.walk.map (·.id) else none
    | none => []
  decide (16 ≤ (b.walker blk).walks.length) && (b.walker blk).walks.all parked.contains
/-- The coins go back while only parked or waiting items of the phase remain, or every walk slot is a parked item's (R228, R552). -/
def attnIdle (b : Block) (k : Nat) : Block :=
  match runOf b k with
  | none => b
  | some r =>
    let left := r.items.filter fun x => x.phase == runPhase r && x.st != .done
    let stuck := decide (left ≠ []) && ((left.any fun x => x.st == .waiting) || (left.all fun x => x.st == .parked)
      || (r.slotWait && slotsParked b (k / 8)))
    if stuck && !r.absent && r.phase == .running then modRun (coinReturn b k) k fun r => { r with absent := true } else b
/-- An idle command reserves its coins again before its next product (R228). -/
def coinsAgain (b : Block) (k : Nat) (r : Run) : Block :=
  if r.absent then coinRequest (modRun b k fun r => { r with absent := false, phase := .coins, since := b.now, throttled := false }) k r.coins else b
/-- Makes the next item that has its walk the current one. -/
def attnPick (b : Block) (k : Nat) : Block :=
  match runOf b k with
  | none => b
  | some r =>
    let cur := (r.items[r.cur]?).map (·.st)
    if cur = some .waiting then attnIdle b k
    else if cur = some .walking ∨ cur = some .delivered then b else
    let b := modRun b k fun r => { r with aphase := runPhase r }
    match nextItem r with
    | some i =>
      if ((r.items[i]?).bind (·.walk)).isSome then coinsAgain (modRun (modItem b k i fun x => { x with st := .walking }) k fun r => { r with cur := i }) k r
      else attnIdle b k
    | none => attnIdle b k
/-- The command is running and nothing stops it. -/
def attnLive (b : Block) (k : Nat) (r : Run) : Bool :=
  r.e.kind == .attn && r.phase == .running && r.status == .done && r.replayDue.isNone && cellLive (b.cell k)
/-- The engine goes on until it waits for a leaf read, a page, a tally, a slot or the answers to an item's writes. -/
def attnPump (k : Nat) : Nat → Block → Block
  | 0, b => b
  | fuel + 1, b =>
    let b := attnPick b k
    match runOf b k with
    | none => b
    | some r =>
      if !attnLive b k r then b else
      match r.items[r.cur]? with
      | none => b
      | some x =>
        if x.st != .walking then b else
        match attnLook b k r x with
        | (.hold, b) => b
        | (.absent p, b) => attnPump k fuel (attnAbsent b k r x p)
        | (.ready, b) =>
          match arrTry b k (attnStep k r x) (attnFail k) with
          | (true, b) => attnPump k fuel b
          | (false, b) => b
/-- Bound on the steps of the items that are left. -/
def attnFuel (r : Run) : Nat := (r.items.map fun x => 2 * x.range.2 + 8).sum + 1
def attnGo (b : Block) (k : Nat) : Block := match runOf b k with
  | some r => if r.e.kind = .attn then attnPump k (attnFuel r) b else b
  | none => b
/-- Either kind of array command of a cell goes on. -/
def arrGo (b : Block) (k : Nat) : Block := attnGo (chainGo b k) k
/-- The writes of a delivered item have landed (R224, R231, R232): its tally is added to, its walk ends, unless a fade walk in
phase 3 follows. -/
def attnLand (b : Block) (k : Nat) : Block :=
  match runOf b k with
  | none => b
  | some r =>
    match r.items[r.cur]? with
    | none => b
    | some x =>
      if !attnLive b k r || x.st != .delivered then b else
      let n := (b.cell k).part
      let b := modRun b k fun r => { r with port := none }
      let tally (b : Block) (h : Nat) : Block := tallyQueue b { part := n, handle := h, set := false, amount := 1, loc := cellLoc k 2 }
      let b := if x.splits < 2 || x.mode = 2 && x.si ≠ 0 then b else tally b (if x.si = 0 then x.w.u 34 2 else x.w.u 32 2)
      if 2 ≤ x.splits && x.si ≠ 0 && x.mode = 0 && r.e.fade then modItem b k r.cur fun x => { x with st := .todo, mode := 2, block := 0 }
      else match x.walk with
        | some w => modItem (walkEnd b k w) k r.cur fun x => { x with st := .done, walk := none }
        | none => modItem b k r.cur fun x => { x with st := .done }

/-! The rows of the command. -/
/-- The cells of a block that wait for a walk slot, in the order in which they began to (R22). -/
def slotWaiters (b : Block) (blk : Nat) : List Nat := (b.walker blk).waitq.filter fun q => match runOf b q with
  | some r => r.slotWait && attnLive b q r
  | none => false
/-- Starts the walk of item `i` (R223), or waits for a slot: a free one goes to the cell that has waited longest. -/
def walkLatch (b : Block) (k i : Nat) (x : AItem) : Block :=
  let n := (b.cell k).part
  let blk := k / 8
  let fail (st : Status) : Block := attnFail k (modRun b k fun r => { r with cur := i }) st 0 0 0
  match runOf b k with
  | none => b
  | some r =>
    let ws := slotWaiters b blk
    if 16 ≤ (b.walker blk).walks.length || (ws.head?.any fun q => q != k) then
      modRun (b.modWalker blk fun y => { y with slotWait := true, waitq := if ws.contains k then ws else ws ++ [k] }) k fun r => { r with slotWait := true } else
    let left := ws.filter (· != k)
    let b := b.modWalker blk fun y => { y with waitq := left, slotWait := !left.isEmpty }
    match seqCheck b n x.seq with
    | some st => fail st
    | none =>
      let y := x.seq % 65536
      let e := b.entry y
      let layer := r.e.ad 0 2
      if e.st = 6 then fail .uncorrectable
      else if e.len layer < x.kend then fail .countMismatch
      else
        let (id, b) := b.newId
        let w : Walk := { id := id, entry := y, handle := e.gen, model := e.model, gen := e.tgen, layer := layer, length := e.len layer, pages := walkPages b y layer x.kend }
        let b := pinFrames b n e.model ((w.pages.filter (·.resident)).map (·.frame))
        let b := b.modEntry y fun e => { e with walks := e.walks ++ [{ id := id, gen := w.gen, layer := layer, length := w.length }] }
        let b := (ledCount b n 12).countW blk 0x60800
        let b := b.modWalker blk fun y => { y with walks := y.walks ++ [id] }
        modItem (modRun b k fun r => { r with slotWait := false }) k i fun x => { x with walk := some w }
/-- WALK_START: the cell's next walk starts: its next item's, while the current one holds the other slot or none does. -/
def walkStart (k : Fin 800) (b : Block) : Block :=
  match runOf b k with
  | none => b
  | some r =>
    if !attnLive b k r then b else
    let b := attnPick (attnLand b k) k
    match runOf b k with
    | none => b
    | some r =>
      let ahead := (r.items.filter fun x => x.st == .todo && x.walk.isSome && x.mode == 0).length
      let waiting := match r.items[r.cur]? with | some x => x.st == .waiting | none => false
      let target := (List.range r.items.length).find? fun i => match r.items[i]? with
        | some x => x.st == .todo && x.walk.isNone && x.phase == runPhase r
        | none => false
      match target.bind fun i => (r.items[i]?).map fun x => (i, x) with
      | some (i, x) => attnGo (if ahead = 0 && !waiting then walkLatch b k i x else b) k
      | none => attnGo b k
def execWalkStart (k : Fin 800) (s : State) : Out := run (walkStart k) s
/-- The cells whose current item waits for a leaf group. -/
def missWaiters (b : Block) (blk : Nat) (m : Miss) : List Nat := (blockCells blk).filter fun k => match runOf b k with
  | some r => attnLive b k r && (match r.items[r.cur]? with
    | some x => x.st == .walking && (match x.walk with
      | some w => m.is (b.cell k).part w m.group && (blockPages x w).any fun p => p.grp == m.group
      | none => false)
    | none => false)
  | none => false
/-- WALKER_ERR_LOG, and WALKER_ERROR for a read that an item waits for. -/
def walkerError (b : Block) (blk : Nat) (m : Miss) (st : Status) (sev : Nat) : Block :=
  let b := b.modWalker blk fun y => { y with errEntry := m.entry, errGroup := m.group, errStatus := st.code, errValid := true }
  if m.demand then event b m.part 0x0406 st sev (walkerLoc blk) (detail [(16, 2, m.entry), (18, 2, m.group), (20, 2, m.layer)]) else b
/-- LEAF_READ_DONE: the group fills an entry of the LAB, least recently used first out; a bad table word fails the walk. -/
def leafReadDone (blk : Fin 100) (j : Fin 32) (b : Block) : Block :=
  match (b.walker blk).misses[j.val]? with
  | none => b
  | some m =>
    let cells := missWaiters b blk m
    let b := b.modWalker blk fun y => { y with misses := y.misses.eraseIdx j }
    let live := (blockWalks b blk).any fun w => m.is m.part w m.group
    let (ok, b) := if live then tablesOk b m.entry m.layer m.page else (true, b)
    if !ok then
      let b := walkerError b blk m .uncorrectable 2
      if m.demand then b.each cells fun b k => attnFail k b .uncorrectable 0 0 0 else b
    else
      let fill (y : Walker) : Walker :=
        let stamp := (y.lab.map (·.used)).foldl max 0 + 1
        let oldest := (y.lab.map (·.used)).foldl min stamp
        let lab := if y.lab.length < 256 then y.lab else match y.lab.find? fun l => l.used == oldest with | some l => y.lab.erase l | none => y.lab
        { y with lab := lab ++ [{ part := m.part, entry := m.entry, gen := m.gen, layer := m.layer, group := m.group, used := stamp }] }
      (if live then b.modWalker blk fill else b).each (blockCells blk) fun b k => attnGo (attnLand b k) k
def execLeafReadDone (blk : Fin 100) (j : Fin 32) (s : State) : Out := run (leafReadDone blk j) s
/-- LEAF_READ_TIMEOUT: a leaf read beyond 1 us is logged and is a replay trigger of the items that wait for it (R516). -/
def leafReadTimeout (blk : Fin 100) (j : Fin 32) (b : Block) : Block :=
  match (b.walker blk).misses[j.val]? with
  | none => b
  | some m =>
    if b.now < m.at_ + 1000 then b else
    let cells := missWaiters b blk m
    let b := b.modWalker blk fun y => { y with misses := y.misses.eraseIdx j }
    let hard := cells.any fun k => match runOf b k with | some r => r.nonReplay | none => false
    let b := walkerError b blk m .timeout (if hard then 3 else 2)
    if m.demand then b.each cells fun b k => modRun b k fun r => { r with replayDue := some b.now, trigger := 2 } else b
def execLeafReadTimeout (blk : Fin 100) (j : Fin 32) (s : State) : Out := run (leafReadTimeout blk j) s
/-- Brings a parked item back from its slot: O rows and records. -/
def unpark (b : Block) (k i : Nat) : Block :=
  match runOf b k with
  | none => b
  | some r =>
    let a := addrOf 0 (r.e.ad 56 4)
    match r.items[i]? with
    | none => b
    | some x =>
      match x.slot, scoreRange (b.cell k) r.e with
      | some j, some g => match (b.cell k).bufAddr a.buf (a.off + j * r.e.pslot) r.e.pslot true with
        | none => b
        | some p => match storeRead b k p r.e.mslot (2 + 8 * r.e.id) with
          | (.ok v, b) =>
            let o := (List.range x.o.length).map fun q => (List.range r.e.hd).map fun d => bits v (32 * (q * r.e.hd + d)) 32
            modItem (b.modCell k fun c => c.put g.recBase 1024 (bits v (8 * 128 * r.e.hd * 4) 8192)) k i fun x => { x with o := o, slot := none, st := .walking }
          | (_, b) => attnFail k (modRun b k fun r => { r with cur := i }) .uncorrectable 0 0 (r.e.ad 56 4)
      | _, _ => b
/-- ATTN_RESUMED: the awaited page of a parked or waiting item is resident (R228, R552). -/
def attnResumed (k : Fin 800) (i : Fin 1024) (b : Block) : Block :=
  match runOf b k with
  | none => b
  | some r =>
    if !attnLive b k r then b else
    let b := attnLand b k
    match runOf b k with
    | none => b
    | some r =>
      match r.items[i.val]? with
      | none => b
      | some x =>
        let here := match x.walk with | some w => w.pages.any fun p => p.page == x.page && p.resident | none => false
        let curSt := (r.items[r.cur]?).map (·.st)
        let free := curSt != some .walking && (curSt == some .waiting || r.slotWait || r.absent || (nextItem r).isNone)
        if !here then b else
        let resumed (b : Block) : Block :=
          let b := cellEvent b k 0x0405 .done 0 (cellLoc k 2)
            (detail [(16, 1, r.e.thr), (17, 1, r.e.tok), (18, 2, i), (20, 4, x.seq), (24, 4, (b.now - x.parkAt) / 1000)])
          let b := modRun b k fun r => { r with cur := i, slotWait := false }
          if r.absent then coinsAgain b k r else attnGo b k
        match x.st with
        | .waiting => resumed (modItem b k i fun x => { x with st := .walking })
        | .parked =>
          if !free then b
          else if curSt = some .waiting then
            -- the waiting item takes the slot that the parked one frees
            match x.slot with
            | some j => resumed (unpark' b k i j r.cur)
            | none => b
          else resumed (unpark b k i)
        | _ => b
where
  /-- The slot's contents and the waiting item's change places. -/
  unpark' (b : Block) (k i j cur : Nat) : Block :=
    match runOf b k with
    | none => b
    | some r =>
      let old := match scoreRange (b.cell k) r.e with | some g => (b.cell k).store.read g.recBase 1024 | none => 0
      let b := unpark b k i
      let mine := match scoreRange (b.cell k) r.e with | some g => (b.cell k).store.read g.recBase 1024 | none => 0
      let put (b : Block) (v : Nat) : Block := match scoreRange (b.cell k) r.e with | some g => b.modCell k fun c => c.put g.recBase 1024 v | none => b
      put (parkItem (put b old) k cur j) mine
def execAttnResumed (k : Fin 800) (i : Fin 1024) (s : State) : Out := run (attnResumed k i) s
/-- ATTN_CTRL.ABANDON: a command with a parked or waiting item ends with PAGE_ABSENT (R228); one that is already stopped keeps its
first status (R12, R239). -/
def attnAbandon (b : Block) (k : Nat) : Block :=
  match runOf b k with
  | none => b
  | some r => if r.e.kind == .attn && r.items.any fun x => x.st == .parked || x.st == .waiting then
      (if r.status = .done then attnFail k b .pageAbsent 0 0 0 else attnLeave b k r r.status) else b
/-- ATTN_STOP: a command of a cancelled or faulted run stops, without an event (R239). -/
def attnStop (k : Fin 800) (b : Block) : Block :=
  match runOf b k with
  | none => b
  | some r => if r.e.kind == .attn && r.status != .done then attnLeave b k r r.status else b
def execAttnStop (k : Fin 800) (s : State) : Out := run (attnStop k) s
/-- A fade increment is added to its page's score, saturating at the top of the X64 range (R234, R277); one for a frame that has been
freed since goes nowhere. The flag is that of R119 and R120. -/
def fadeAdd (n : Nat) (a : Bool × Block) (x : Nat × Nat) : Bool × Block :=
  let m := x.1 / 2 ^ 32 % 256
  let f := x.1 % 2 ^ 32
  let old := a.2.frame n m f
  if old.born ≠ x.1 / 2 ^ 40 then a else
  let c := toX64 32 (f32 x.2)
  let s := sx 64 old.fade + sx 64 c.code
  let beyond := decide (2 ^ 63 ≤ s)
  (a.1 || c.sat || c.nanDropped || beyond, a.2.modFrame n m f fun y => { y with fade := if beyond then 2 ^ 63 - 1 else wrapN 64 s })
/-- The updates that a command has queued for one tally are applied, and those before them (R337). -/
def tallyOwn (b : Block) (n loc h : Nat) : Block :=
  let mine (u : TUpd) : Bool := u.part == n && u.handle == h
  let own := (b.hub.tq.filter mine).reverse.dropWhile (fun u => u.loc != loc) |>.reverse
  b.each own fun b u => tallyApply (b.modHub fun h => { h with tq := h.tq.erase u }) u
/-- ATTN_COMMIT (R240): every item has ended, its writes have landed and its tallies are added. -/
def attnCommit (k : Fin 800) (b : Block) : Block :=
  match runOf b k with
  | none => b
  | some r =>
    if !attnLive b k r then b else
    let b := attnGo (attnLand b k) k
    match runOf b k with
    | none => b
    | some r =>
      if !attnLive b k r || r.items.any (fun x => x.st != .done) then b else
      let n := (b.cell k).part
      let incs := r.items.flatMap (·.incs)
      let b := b.each (r.items.filter fun x => decide (2 ≤ x.splits)) fun b x =>
        b.each [x.w.u 32 2, x.w.u 34 2] fun b h => tallyOwn b n (cellLoc k 2) h
      let (sat, b) := incs.foldl (fadeAdd n) (false, b)
      let r := { r with flags := r.flags.or { sat := sat } }
      let b := doneTally b n k (r.e.ad 90 2) (r.e.ad 96 2)
      let b := b.modCell k fun c => ((c.count 0x21800).count 0x21810 r.items.length).count 0x21838 incs.length
      let b := if r.replays = 0 then b else cellEvent b k 0x0E03 .done 2 (cellLoc k 2)
        (detail [(16, 1, r.e.thr), (17, 1, r.e.tok), (18, 1, min 255 r.replays), (19, 1, r.trigger), (20, 2, r.cur)])
      attnLeave b k r .done
def execAttnCommit (k : Fin 800) (s : State) : Out := run (attnCommit k) s
/-- ATTN_WRITE_TIMEOUT: an access by the output port is unanswered for the outbound STREAM_TIMEOUT_US: a replay trigger (R516). -/
def attnWriteTimeout (k : Fin 800) (b : Block) : Block :=
  match runOf b k with
  | none => b
  | some r =>
    let us := streamTimeoutUs b k true
    match r.port with
    | some p => if r.e.kind == .attn && r.status == .done && r.replayDue.isNone && us != 0 && decide (p.sent + 1000 * us ≤ b.now) then
        modRun b k fun r => { r with replayDue := some b.now, trigger := 2 } else b
    | none => b
def execAttnWriteTimeout (k : Fin 800) (s : State) : Out := run (attnWriteTimeout k) s
/-- The item that met a trigger starts again at its walk's first block (R517). -/
def attnRestart (r : Run) : Run :=
  { r with port := none, items := r.items.mapIdx fun i x => if i ≠ r.cur then x
      else { x with st := if x.st = .delivered then .walking else x.st, mode := if x.phase = 3 then 2 else 0, block := 0,
                    q := if x.phase = 3 then x.q else [], o := if x.phase = 3 then x.o else [], merged := [], incs := [] } }

/-! Rows that let an array command go on. -/
/-- COIN_GRANT: the purse of a region grants its oldest waiter, whose first product issues (R421). -/
def coinGranted (r : Fin 20) (b : Block) : Block :=
  match (b.purse r).waiters with
  | [] => b
  | (cell, _, _) :: _ =>
    if !coinReady b r then b else
    arrGo (modRun (coinGrant b r) cell fun x => if x.phase = .coins then { x with phase := .running } else x) cell
def execCoinGrant (r : Fin 20) (s : State) : Out := run (coinGranted r) s
def execTagWaitRelease (k : Fin 800) (g : Fin 6144) (s : State) : Out := run (fun b =>
  let b := tagWaitRelease k g b
  b.each ((b.cells.map (·.1)).filter fun q => (runOf b q).isSome && (b.cell q).part == (b.cell k).part) arrGo) s
def execWeightRefetch (k : Fin 800) (blk : Fin 1536) (s : State) : Out := run (fun b => arrGo (weightRefetch k blk b) k) s
def execWeightRefetchTimeout (k : Fin 800) (blk : Fin 1536) (s : State) : Out := run (fun b => arrGo (weightRefetchTimeout k blk b) k) s
def execTallyWaitRelease (k : Fin 800) (unit : Fin 11) (s : State) : Out := run (fun b =>
  let b := tallyWaitRelease k unit b
  if unit = 10 then attnGo b k else b) s

end Sys2Proof.Machine
end

