-- ==== Sys2Proof/Machine/Fabric.lean ====
section
/-!
DEFINITION. Machine/Fabric.lean: the links, packets and connections of the Sniedor fabric (spec 13, R353 to R366, R386 to
R388) and the TIME flits of R459.
-/
namespace Sys2Proof.Machine

/-! Link states (R354, R357). -/
/-- A write of LINK_CTRL: EN and RETRAIN. -/
def linkCtrl (b : Block) (p v : Nat) : Block :=
  let en := bit v 0
  let was := bit (b.reg (linkCtrlAddr p)) 0
  let b := b.setReg (linkCtrlAddr p) 0 (b2n en)
  let quiet (b : Block) : Block := b.modLink p fun l => { l with identFault := false }
  if !en then (if was then quiet (linkDrop (linkTo b p 0 0) p) else b)
  else if !was || bit v 1 then quiet (linkDrop (linkTo b p 1 0) p)
  else b
/-- Whether a port has been in its state for `ns`. -/
def linkOld (b : Block) (p st ns : Nat) : Bool := let l := b.link p; l.st == st && decide (l.since + ns ≤ b.now)
/-- TRAIN again after 50 ms without IDENT both ways. -/
def linkTrainTimeout (p : Fin 24) (b : Block) : Block :=
  if linkOld b p 1 50000000 && !(b.link p).identFault then linkTo b p 1 4 else b
def execLinkTrainTimeout (p : Fin 24) (s : State) : Out := act (linkTrainTimeout p) s
/-- No flit has passed its CRC for 10 µs. -/
def linkSilence (p : Fin 24) (b : Block) : Block :=
  if (b.link p).st = 2 ∧ (b.link p).goodAt + 10000 ≤ b.now then linkTo b p 3 2 else b
def execLinkSilence (p : Fin 24) (s : State) : Out := act (linkSilence p) s
/-- A RECOVER that is not UP within 1 ms goes DOWN; the cause is training that timed out. -/
def recoverTimeout (p : Fin 24) (b : Block) : Block := if linkOld b p 3 1000000 then linkDown b p 4 else b
def execRecoverTimeout (p : Fin 24) (s : State) : Out := act (recoverTimeout p) s
/-- 100 µs after DOWN the port enters TRAIN. -/
def downRetrain (p : Fin 24) (b : Block) : Block := if linkOld b p 4 100000 && !domHeld b (20 + p.val / 6) 4 then linkTo b p 1 4 else b
def execDownRetrain (p : Fin 24) (s : State) : Out := act (downRetrain p) s
/-- Returns credits of a virtual channel: at once while the port is UP, else when it is UP again (R354, R358). -/
def giveCredits (b : Block) (p vc n : Nat) : Block :=
  if (b.link p).st ≠ 2 then b.modLink p fun l => { l with owed := mmod 0 l.owed vc (· + n) }
  else if n ≤ 1023 then sendCtl b p 0 vc n 0 else sendCtl (sendCtl b p 0 vc 1023 0) p 0 vc (n - 1023) 0
/-- Returns the credits that a recovery has held back. -/
def giveOwed (b : Block) (p : Nat) : Block :=
  let l := (b.link p).owed
  (b.modLink p fun l => { l with owed := [] }).each l fun b x => giveCredits b p x.1 x.2
/-- Training or recovery ends: IDENT has named the peer's node and port. A peer with this module's own node holds the port in
TRAIN; a recovery goes on from the first flit that is not acknowledged. -/
def retrainDone (p : Fin 24) (node : Fin 8192) (port : Fin 24) (b : Block) : Block :=
  let l := b.link p
  if domHeld b (20 + p.val / 6) 4 then b
  else if l.st = 1 then
    let b := b.modLink p fun l => { l with peerNode := node, peerPort := port }
    if nodeValid b && node.val == nodeId b then
      (if l.identFault then b else linkEvent (b.modLink p fun l => { l with identFault := true }) p 1 5)
    else pumpLink (linkTo (b.modLink p fun l => { l with identFault := false }) p 2 0) p
  else if l.st = 3 then
    let b := giveOwed (linkTo b p 2 0) p
    pumpLink (resendFlits (b.modLink p fun l => { l with replay := l.replay.map fun f => { f with sends := 1 } }) p l.replay) p
  else b
def execRetrainDone (p : Fin 24) (node : Fin 8192) (port : Fin 24) (s : State) : Out := act (retrainDone p node port) s

/-! Flits received (R356, R359, R386). -/
/-- A NAK of the flits after the last good one; later data flits are discarded until the one that is expected arrives (R356). -/
def nakFlit (b : Block) (p : Nat) : Block := sendCtl b p 2 0 0 0
/-- Takes the acknowledged flits out of the replay buffer. -/
def Link.acked (l : Link) (fack : Nat) : Link :=
  match l.replay.findIdx? fun f => f.seq == fack with
  | some i => { l with replay := l.replay.drop (i + 1) }
  | none => l
/-- A complete packet enters the receive buffer of its virtual channel, or breaks the credits (R359). -/
def rxPacket (b : Block) (p : Nat) (k : Pkt) : Block :=
  let vc := 2 * k.cls + k.v
  if 1024 < mget 0 (b.link p).rxUsed vc + k.credits then linkTo (fabCount b (p / 6) 0) p 3 3
  else b.modLink p fun l => { l with rx := l.rx ++ [k], rxUsed := mmod 0 l.rxUsed vc (· + k.credits) }
/-- Reads the 16-byte slots of a data flit's payload: bytes of the packet in progress first, then the packets that begin at
slot `first`. -/
def rxSlots (p first : Nat) : List Nat → Nat → Block → Block
  | [], _, b => b
  | i :: is, v, b =>
    let (n, a) := (b.link p).rxBuf
    let slot := v % 2 ^ 128
    let b := if n = 0 ∧ (i < first ∨ slot % 256 = 0) then b else
      let a := a + slot * 2 ^ (8 * n)
      let n := n + 16
      let len := bits a 112 16
      if 32 ≤ n ∧ (1024 < len ∨ 32 + len ≤ n) then
        rxPacket (b.modLink p fun l => { l with rxBuf := (0, 0) }) p { h := a % 2 ^ 256, data := a / 2 ^ 256 % 2 ^ (8 * min len 1024) }
      else b.modLink p fun l => { l with rxBuf := (n, a) }
    rxSlots p first is (v / 2 ^ 128) b
/-- A NAK: every flit that is left in the replay buffer is sent again; a flit already sent 9 times ends in RECOVER. -/
def rxNak (b : Block) (p : Nat) : Block :=
  let l := (b.link p).replay
  if l.any fun f => decide (9 ≤ f.sends) then linkTo b p 3 1
  else resendFlits (b.modLink p fun x => { x with replay := l.map fun f => { f with sends := f.sends + 1 } }) p l
/-- 272 wire bytes arrive at an UP port. -/
def flitReceive (p : Fin 24) (w : BitVec 2176) (b : Block) : Block :=
  if (b.link p).st ≠ 2 ∨ domHeld b (20 + p.val / 6) 4 then b else
  let bad (b : Block) : Block := nakFlit (portCount b p 3) p
  match wireFlit w.toNat with
  | none => bad b
  | some (f, fixes) =>
    let b := portCount b p 2 fixes
    let ftype := bits f 0 4
    let first := bits f 41 5
    if crc64 248 (f % 2 ^ 1984) ≠ bits f 1984 64 then bad b
    else if 4 < ftype ∨ (14 < first ∧ first ≠ 31) then bad (fabCount b (p.val / 6) 1)
    else
      let back (n : Nat) : Nat := n - bits f 31 10
      let b := b.modLink p fun l => { (l.acked (bits f 16 12)) with goodAt := b.now, credits := mmod 0 l.credits (bits f 28 3) back }
      let b := match ftype with
        | 1 =>
          if bits f 4 12 = (b.link p).rxSeq then
            let b := portCount (b.modLink p fun l => { l with rxSeq := (l.rxSeq + 1) % 4096 }) p 1
            sendCtl (rxSlots p first (List.range 15) (bits f 64 1920) b) p 0 0 0 0
          else b
        | 2 => rxNak b p
        | 4 => b.modClk fun c => { c with timeRx := mset (0, 0, 0) c.timeRx p (bits f 64 1920, b.mtime, 1) }
        | _ => b
      pumpLink b p


/-! Packets (R361, R362, R364, R365). -/
/-- A packet for this module goes to its engine: a window write to the window table, any other to the inbox. -/
def deliver (b : Block) (k : Pkt) (conn : Option Nat) : Block :=
  if k.typ = 1 then
    let w : WinWrite := { node := k.src, part := k.dpart, index := k.u 16 2, gen := k.u 18 2, off := k.u 20 4, len := k.len, data := k.data,
                          from_ := .fabric (k.u 24 4) k.src k.cseq }
    b.modHub fun h => { h with winq := h.winq ++ [w] }
  else b.modFab fun f => { f with inbox := f.inbox ++ [{ pkt := k, conn := conn }] }
/-- A packet of a connection to this module: its epoch and sequence number are checked; what is accepted is delivered, or
answered REMOTE_NAK where it is malformed. -/
def connAccept (b : Block) (k : Pkt) (bad : Bool) : Block :=
  let home := k.src % 4
  let r : RConn := mget {} b.fab.rconns k.src
  let token := if k.typ = 1 then k.u 24 4 else 0
  if r.epoch ≠ k.epoch ∧ k.cseq ≠ 0 then fabCount b home 5 else
  let r : RConn := if r.epoch = k.epoch then r else { epoch := k.epoch }
  if k.cseq = r.expect then
    let r : RConn := { r with expect := (r.expect + 1) % 2 ^ 24, log := (r.log ++ [(k.cseq, 0x100)]).drop (r.log.length + 1 - 512) }
    let b := b.modFab fun f => { f with rconns := mset {} f.rconns k.src r }
    if bad then answerPkt b k.src k.cseq .remoteNak token else deliver b k (some k.cseq)
  else match r.log.find? fun x => x.1 == k.cseq with
    | some x =>
      let b := fabCount b home 9
      if x.2 = 0x100 then b else sendAnswer b k.src k.cseq (.ofCode x.2) false false token
    | none =>
      let b := fabCount b home 5
      if (k.cseq + 2 ^ 24 - r.expect) % 2 ^ 24 < 2 ^ 23 then sendAnswer b k.src r.expect .done false true 0 else b
/-- The next packet of a port's receive buffers: its credits are returned, and it is discarded, forwarded or delivered. -/
def packetReceive (p : Fin 24) (b : Block) : Block :=
  match (b.link p).rx with
  | [] => b
  | k :: rest =>
    let vc := 2 * k.cls + k.v
    let b := b.modLink p fun l => { l with rx := rest, rxUsed := mmod 0 l.rxUsed vc (· - k.credits) }
    let b := giveCredits b p vc k.credits
    let e := p.val / 6
    let mine := k.dst == nodeId b
    if !nodeValid b then b
    else if !k.ok then
      let b := fabCount b e 2
      if mine && k.typ != 2 && k.typ != 9 then connAccept b k true else b
    else if 1000000 * lifetimeMs b < k.age b || (!mine && k.hops == 0) then fabCount b e 3
    else if !mine then
      match routeSend b e (k.set 56 8 (k.hops - 1)) with
      | some b => fabCount b e 7
      | none => fabCount b e 4
    else if k.typ = 2 ∨ k.typ = 9 then deliver b k none
    else connAccept b k false
def execPacketReceive (p : Fin 24) (s : State) : Out := run (packetReceive p) s

/-! Answers and resending (R365, R366). -/
/-- Sends the outstanding packets of a connection again from index `i`. One for which there is no route is discarded, and its sender
answered LINK_DOWN (R361). -/
def connResend (b : Block) (d i : Nat) : Block :=
  b.each ((b.conn d).out.drop i) fun b x =>
    let b := fabCount b (d % 4) 8
    match routeSend b (d % 4) (stamp b x.pkt) with
    | some b => (chargeLink b x.pkt x.from_).modConn d fun c => { c with out := c.out.map fun y => if y.cseq = x.cseq then { y with at_ := b.now } else y }
    | none =>
      let b := b.modConn d fun c => { c with out := c.out.filter (·.cseq != x.cseq) }
      answerLocal (fabCount b (d % 4) 4) x.from_ .linkDown x.pkt
/-- The first ANSWER packet that waits: it answers its packet, with CUMULATIVE every earlier one, or with EXPECT asks for a
resend. -/
def answerRow (b : Block) : Block :=
  match b.fab.inbox.find? fun x => x.pkt.typ == 2 with
  | none => b
  | some x =>
    let b := b.modFab fun f => { f with inbox := f.inbox.erase x }
    let k := x.pkt
    let d := k.src
    let c := b.conn d
    match c.out.findIdx? fun o => o.cseq == k.u 16 3 with
    | none => fabCount b (d % 4) 5
    | some i =>
      let b := b.modConn d fun c => { c with timeouts := 0 }
      if bit (k.u 20 1) 1 then connResend b d i else
      let cum := bit (k.u 20 1) 0
      let ended := if cum then c.out.take (i + 1) else (c.out.drop i).take 1
      let b := b.modConn d fun c => { c with out := if cum then c.out.drop (i + 1) else c.out.eraseIdx i }
      let b := b.each ended fun b o => answerLocal b o.from_ (if o.cseq = k.u 16 3 then .ofCode (k.u 19 1) else .done) o.pkt
      connPump d ((b.conn d).wait.length) b
/-- A connection breaks: every packet of it is answered LINK_DOWN locally. -/
def connBreak (b : Block) (d : Nat) : Block :=
  let c := b.conn d
  let b := b.modConn d fun c => { c with out := [], wait := [], timeouts := 0, broken := some b.now }
  let b := b.each c.out fun b o => answerLocal b o.from_ .linkDown o.pkt
  let b := b.each c.wait fun b o => answerLocal b o.2 .linkDown o.1
  let hit (x : Coll) : Bool := (collGroup b x).members.any fun m => memberNode m == d
  let b := b.each (b.fab.colls.filter hit) fun b x => answerLocal b (.coll x.part x.id) .linkDown { h := 0 }
  eventPlat (fabCount b (d % 4) 10) 0 0x0803 .linkDown 0 (regionLoc (20 + d % 4))
    (detail [(16, 2, d), (18, 1, c.epoch), (20, 4, c.out.length + c.wait.length)])
/-- The oldest unanswered packet of the connection to `d` has waited E2E_TIMEOUT_US. -/
def e2eTimeout (d : Fin 8192) (b : Block) : Block :=
  let c := b.conn d
  match c.out with
  | [] => b
  | x :: _ =>
    if b.now < x.at_ + 1000 * e2eUs b then b
    else if e2eRetries b ≤ c.timeouts + 1 then connBreak b d
    else connResend (b.modConn d fun c => { c with timeouts := c.timeouts + 1 }) d 0
/-- PKT_LIFETIME_MS after a break the connection reopens under the next EPOCH. -/
def connectionReopen (d : Fin 8192) (b : Block) : Block :=
  let c := b.conn d
  match c.broken with
  | none => b
  | some t => if b.now < t + 1000000 * lifetimeMs b then b
    else b.modConn d fun c => { c with broken := none, epoch := (c.epoch + 1) % 16, next := 0 }
def execConnectionReopen (d : Fin 8192) (s : State) : Out := act (connectionReopen d) s

/-! Reports (R363, R387). -/
/-- A virtual channel whose packet has waited without credits for LINK_STALL_MS: once for each such packet. -/
def linkStall (p : Fin 24) (vc : Fin 6) (b : Block) : Block :=
  let l := b.link p
  match l.q.find? fun x => x.vc == vc.val with
  | none => b
  | some x =>
    let mark := mget 0 l.stallAt vc
    let since := max x.at_ (mark / 2)
    if x.pkt.credits + mget 0 l.credits vc ≤ 1024 || mark % 2 == 1 || decide (b.now < since + 1000000 * stallMs b) then b else
    eventPlat (b.modLink p fun l => { l with stallAt := mset 0 l.stallAt vc (2 * since + 1) }) 0 0x0802 .done 0 (regionLoc (20 + p.val / 6))
      (detail [(16, 1, p), (17, 1, vc), (18, 4, (b.now - since) / 1000000)])
def execLinkStall (p : Fin 24) (vc : Fin 6) (s : State) : Out := act (linkStall p vc) s
/-- FABRIC_VIOLATION: what the seven counters of an E-die gained since the last one. -/
def fabricViolation (e : Fin 4) (b : Block) : Block :=
  let cnt (k : Nat) : Nat := b.cnt (eBase e + 0x30A00 + 8 * k)
  let gain (k : Nat) : Nat := cnt k - mget 0 b.fab.violSeen (8 * e.val + k)
  if (List.range 7).all (fun k => gain k == 0) || decide (mget 0 b.fab.violAt e ≠ 0 ∧ b.now + 1 < mget 0 b.fab.violAt e + 10000000) then b else
  let det := detail ((16, 1, e.val) :: (List.range 7).map fun k => (18 + 2 * k, 2, min 65535 (gain k)))
  let b := b.modFab fun f => { f with violAt := mset 0 f.violAt e (b.now + 1),
                                      violSeen := (List.range 7).foldl (fun m k => mset 0 m (8 * e.val + k) (cnt k)) f.violSeen }
  eventPlat b 0 0x0805 .done 0 (regionLoc (20 + e.val)) det
def execFabricViolation (e : Fin 4) (s : State) : Out := act (fabricViolation e) s

/-! Job time (R459). -/
/-- Every 10 µs each enabled link sends one TIME flit. -/
def timeFlitSend (p : Fin 24) (b : Block) : Block :=
  if (b.link p).st ≠ 2 ∨ b.now < mget 0 b.clk.timeTick p + 10000 then b else
  let (pay, t4, _) := mget (0, 0, 0) b.clk.timeRx p
  let body := b.mtime + t4 * 2 ^ 64 + bits pay 0 64 * 2 ^ 128 + b2n b.clk.aligned * 2 ^ 192
  sendCtl (b.modClk fun c => { c with timeTick := mset 0 c.timeTick p b.now }) p 4 0 0 body
def execTimeFlitSend (p : Fin 24) (s : State) : Out := act (timeFlitSend p) s
/-- The latest TIME flit of the parent corrects the module's time: a step forward where it is more than 1 µs behind, else a
slew of 1 % until the offset is below 2 ns. -/
def timeFlit (b : Block) : Block :=
  match timeParent b with
  | none => b
  | some p =>
    let (pay, t4, new) := mget (0, 0, 0) b.clk.timeRx p
    if new = 0 ∨ (b.link p).st ≠ 2 then b else
    let b := b.modClk fun c => { c with timeRx := mset (0, 0, 0) c.timeRx p (pay, t4, 0) }
    let tTx : Int := bits pay 0 64
    let tRx : Int := bits pay 64 64
    let tPeer : Int := bits pay 128 64
    let off : Int := ((tRx - tPeer) - ((t4 : Int) - tTx)) / 2
    if bits pay 128 64 = 0 then b else
    let good := if off.natAbs < 10 then min 10 (b.clk.good + 1) else 0
    let now := b.clk.aligned || decide (10 ≤ good)
    let was := b.clk.aligned
    let slew : Int := if 1000 < off then 0 else if off.natAbs < 2 then 0 else off
    let b := b.modClk fun c => { c with offset := off, good := good, slew := slew, aligned := now }
    let b : Block := if 1000 < off then { b with mtOff := b.mtOff + off.toNat } else b
    if now && !was then timeAlignEvent b true else b
def execTimeFlit (s : State) : Out := act timeFlit s

end Sys2Proof.Machine
end

