-- ==== Sys2Proof/Machine/Collectives.lean ====
section
/-!
DEFINITION. Machine/Collectives.lean: groups and collectives (spec 13, R368 to R385).
-/
namespace Sys2Proof.Machine

/-! The tree (R373). -/
def treeParent (f r : Nat) : Nat := (r - 1) / f
def treeKids (p f r : Nat) : List Nat := ((List.range f).map fun k => r * f + 1 + k).filter fun k => decide (k < p)
/-- The child of `q` whose subtree holds `x`. -/
def treeTo (f q : Nat) : Nat → Nat → Option Nat
  | 0, _ => none
  | k + 1, x => if x = 0 then none else if treeParent f x = q then some x else treeTo f q k (treeParent f x)

/-! Fields of a COLL. -/
def Coll.kind (c : Coll) : Nat := c.desc.u 18 1
def Coll.inFmt (c : Coll) : Nat := c.desc.u 20 1
def Coll.outFmt (c : Coll) : Nat := c.desc.u 21 1
def Coll.frac (c : Coll) : Nat := c.desc.u 22 1
def Coll.pipe (c : Coll) : Nat := c.desc.u 23 1
def Coll.count (c : Coll) : Nat := c.desc.u 40 4
def Coll.countsOnly (c : Coll) : Bool := bit (c.desc.u 19 1) 2
/-- 1,024-byte packets of a reduction: 128 X64 elements; chunks of 64 packets. -/
def Coll.packets (c : Coll) : Nat := cdiv c.count 128
def Coll.chunks (c : Coll) : Nat := cdiv c.count 8192
def Coll.inChunk (c : Coll) (ch : Nat) : Nat := min 64 (c.packets - 64 * ch)
def Coll.inPacket (c : Coll) (i : Nat) : Nat := min 128 (c.count - 128 * i)
/-- Neighbours whose COLL_READY a member awaits: of the tree, or for kind 3 every other member (R381). -/
def collPeers (g : Group) (kind : Nat) : List Nat :=
  let p := g.members.length
  if kind = 3 then (List.range p).filter (· != g.rank)
  else (if g.rank = 0 then [] else [treeParent g.fanin g.rank]) ++ treeKids p g.fanin g.rank
def collReadyAll (b : Block) (c : Coll) : Bool := let g := collGroup b c; (collPeers g c.kind).all fun r => c.ready.contains r

/-! Source and destination. -/
/-- Reads bytes of the escrow; none where one is uncorrectable. -/
def escrowGet (id : Nat) : List (Nat × Nat × Nat) → Nat → Nat → Block → Option Nat × Block
  | [], _, _, b => (some 0, b)
  | (k, base, size) :: l, pos, len, b =>
    if len = 0 then (some 0, b)
    else if size ≤ pos then escrowGet id l (pos - size) len b
    else
      let m := min len (size - pos)
      match storeRead b k (base + pos) m (5 + 8 * id) with
      | (.ok v, b) =>
        match escrowGet id l 0 (len - m) b with
        | (some w, b) => (some (v + w * 2 ^ (8 * m)), b)
        | (none, b) => (none, b)
      | (_, b) => (none, b)
/-- Places result bytes. -/
def collPlace (b : Block) (c : Coll) (pos len v : Nat) : Block :=
  escrowPut ((escrowList b c.part c.desc).getD []) pos len v b
/-- Reads `len` bytes of SRC from byte `off`, with the fault of a transfer that cannot. -/
def collSource (b : Block) (c : Coll) (off len : Nat) : Except Status Nat × Block :=
  let src := c.desc.u 24 8
  if len = 0 then (.ok 0, b)
  else if bit (c.desc.u 19 1) 0 then
    match storeAddr b c.part src with
    | none => (.error .protection, b)
    | some (k, buf, o) =>
      match (b.cell k).bufAddr buf (o + off) len true with
      | none => (.error .protection, b)
      | some a => match storeRead b k a len (5 + 8 * c.id) with
        | (.ok v, b) => (.ok v, b)
        | (_, b) => (.error .uncorrectable, b)
  else if !pvaOk b c.part .hubRead0 (src + off) len then (.error .protection, b)
  else match pvaCheck b c.part .hubRead0 (src + off) len with
    | (true, b) => (.error .uncorrectable, b)
    | (false, b) => (.ok (pvaRead b c.part .hubRead0 (src + off) (pvaFuel len) len), b)
/-- Whether the destination of `len` bytes can be written as a whole. -/
def destOk (b : Block) (n : Nat) (r : Rec) (len : Nat) : Bool :=
  len == 0 || (if bit (r.u 19 1) 1 then (storePlace b n (r.u 32 8) len).isSome else pvaOk b n .hubWrite0 (r.u 32 8) len)
/-- The words of COUNTS: what this member sends to each rank (R374). -/
def sendCounts (b : Block) (n : Nat) (r : Rec) (p : Nat) : List Nat :=
  let v := pvaRead b n .hubRead0 (r.u 48 8) (pvaFuel (4 * p)) (4 * p)
  (List.range p).map fun i => bits v (32 * i) 32
def sumN (l : List Nat) : Nat := l.foldl (· + ·) 0

/-! Sending (R360). -/
/-- Sends a collective's data packet to a rank, with this member's rank. -/
def collSend (b : Block) (c : Coll) (dest typ len off fl data : Nat) : Block :=
  let b := modColl b c.id fun c => { c with at_ := b.now }
  sendMember b c dest typ len [(16, 4, c.tag), (20, 4, c.seq), (24, 4, off), (28, 1, fl), (29, 2, (collGroup b c).rank)] data
/-- Applies `f` to a collective that is still queued. -/
def withColl (b : Block) (id : Nat) (f : Coll → Block) : Block := match b.coll id with | some c => f c | none => b

/-! Reductions (R371 to R373, R377). -/
/-- A portion of the result of kinds 0 and 1 at this member: placed where it is this member's own, and sent down. -/
def reduceDown (b : Block) (id start cnt data : Nat) : Block :=
  withColl b id fun c =>
    let g := collGroup b c
    let sz := inSize c.outFmt
    let down (b : Block) (q : Nat) : Block := withColl b id fun c => collSend b c q 5 (cnt * sz) start (b2n c.sat) data
    let place (b : Block) (pos : Nat) : Block :=
      modColl (collPlace b c pos (cnt * sz) data) id fun c => { c with placed := c.placed + cnt * sz, got := mset 0 c.got start 1 }
    if c.kind = 0 then (place b (start * sz)).each (treeKids g.members.length g.fanin g.rank) down
    else
      let s := c.count / g.members.length
      let x := start / s
      if x = g.rank then place b ((start - x * s) * sz)
      else match treeTo g.fanin g.rank 16 x with
        | some q => down (modColl b id fun c => { c with got := mset 0 c.got start 1 }) q
        | none => b
/-- The end of the result of kind 1, which carries SATURATED to members whose slices lie elsewhere. -/
def reduceMark (b : Block) (id : Nat) : Block :=
  withColl b id fun c =>
    let g := collGroup b c
    (modColl b id fun c => { c with marker := true }).each (treeKids g.members.length g.fanin g.rank) fun b q =>
      withColl b id fun c => collSend b c q 5 0 c.count (b2n c.sat) 0
/-- One element of the sum in the format of the result (R121, R372): bits and whether it saturated or was NaN. -/
def outElem (fmt frac x : Nat) : Nat × Bool :=
  if fmt = 10 then (x, false) else
    let v := (if fmt = 0 then fp32 else if fmt = 1 then bf16 else fp16).convert (x64Val frac x)
    (v.code, v.sat || v.nanDropped)
/-- The ranks' portions of elements `lo` to `hi - 1` of a reduce-scatter with `s` elements a rank. -/
def portions (s lo hi : Nat) : List (Nat × Nat) :=
  ((List.range (hi / s + 1 - lo / s)).map fun k =>
    let r := lo / s + k
    let a := max lo (r * s)
    (a, min hi ((r + 1) * s) - a)).filter fun p => p.2 != 0
/-- A packet's sum is complete: it goes to the parent, or at the root becomes the result. -/
def reduceDone (b : Block) (id i : Nat) : Block :=
  withColl b id fun c =>
    let g := collGroup b c
    let n := c.inPacket i
    let sum := mget 0 c.sums i
    let ch := i / 64
    let inChunk := c.inChunk ch
    let b := modColl b id fun c =>
      let l := mget 0 c.left ch + 1
      { c with sums := mset 0 c.sums i 0, left := mset 0 c.left ch (if l = inChunk then 0 else l), have_ := mset 0 c.have_ i (2 ^ 32),
               done := if g.rank = 0 ∧ l = inChunk then mmod 0 c.done (ch % 4) (· + 1) else c.done }
    if g.rank ≠ 0 then collSend b c (treeParent g.fanin g.rank) 4 (8 * n) (128 * i) (b2n c.sat) sum
    else
      let el := (List.range n).map fun k => outElem c.outFmt c.frac (bits sum (64 * k) 64)
      let sz := inSize c.outFmt
      let v := el.foldr (fun x a => x.1 + a * 2 ^ (8 * sz)) 0
      let b := modColl b id fun c => { c with sat := c.sat || el.any (·.2) }
      let b := if c.kind = 0 then reduceDown b id (128 * i) n v
        else b.each (portions (c.count / g.members.length) (128 * i) (128 * i + n)) fun b p =>
          reduceDown b id p.1 p.2 (bits v (8 * sz * (p.1 - 128 * i)) (8 * sz * p.2))
      withColl b id fun c => if c.kind = 1 && sumN ((List.range 4).map fun e => mget 0 c.done e) == c.chunks then reduceMark b id else b
/-- Adds one contribution (0 this member's own, j + 1 its j-th child's) to a packet's sum (R120). -/
def reduceAdd (b : Block) (id i who : Nat) (v : Nat) : Block :=
  withColl b id fun c =>
    let g := collGroup b c
    let n := c.inPacket i
    let el := (List.range n).map fun k => x64Add (bits (mget 0 c.sums i) (64 * k) 64) (bits v (64 * k) 64)
    let mask := mget 0 c.have_ i + 2 ^ who
    let sum := el.foldr (fun x a => x.1 + a * 2 ^ 64) 0
    let b := modColl b id fun c => { c with sums := mset 0 c.sums i sum, have_ := mset 0 c.have_ i mask, sat := c.sat || el.any (·.2) }
    let b := if c.rmem then fabCount b (i / 64 % 4) 11 (8 * n) else b
    if mask = 2 ^ ((treeKids g.members.length g.fanin g.rank).length + 1) - 1 then reduceDone b id i else b
/-- One own element as X64 (R119, R372). -/
def inElem (fmt frac x : Nat) : Nat × Bool :=
  if fmt = 10 then (x, false) else let v := toX64 frac (decElem fmt x); (v.code, v.sat || v.nanDropped)
/-- Adds this member's own elements of one packet. -/
def ownPacket (b : Block) (id i : Nat) : Block :=
  withColl b id fun c =>
    let sz := inSize c.inFmt
    let n := c.inPacket i
    match collSource b c (128 * i * sz) (n * sz) with
    | (.error st, b) => collFail b c st
    | (.ok v, b) =>
      let el := (List.range n).map fun k => inElem c.inFmt c.frac (bits v (8 * sz * k) (8 * sz))
      let b := modColl b id fun c => { c with sat := c.sat || el.any (·.2) }
      reduceAdd b id i 0 (el.foldr (fun x a => x.1 + a * 2 ^ 64) 0)
/-- Adds own chunks while an E-die has fewer than PIPE of its chunks in flight. -/
def reducePump (id : Nat) : Nat → Block → Block
  | 0, b => b
  | fuel + 1, b =>
    withColl b id fun c =>
      let next (e : Nat) : Nat := 4 * mget 0 c.own e + e
      match (List.range 4).find? fun e => decide (next e < c.chunks) && decide (mget 0 c.own e < mget 0 c.done e + c.pipe) with
      | none => b
      | some e =>
        let ch := next e
        let b := modColl b id fun c => { c with own := mmod 0 c.own e (· + 1), at_ := b.now }
        reducePump id fuel (b.each ((List.range (min 64 (c.packets - 64 * ch))).map (64 * ch + ·)) fun b i => ownPacket b id i)

/-! All-gather (R371, R373). -/
/-- Pieces of `len` bytes from `base`: at most 1,024 bytes each. -/
def pieces (base len : Nat) : List (Nat × Nat) := (List.range (cdiv len 1024)).map fun k => (base + 1024 * k, min 1024 (len - 1024 * k))
/-- A piece of the concatenation comes down, or is the root's to send. -/
def gatherDown (b : Block) (id off len data : Nat) : Block :=
  withColl b id fun c =>
    let g := collGroup b c
    let b := modColl (collPlace b c off len data) id fun c => { c with placed := c.placed + len, got := mset 0 c.got off 1 }
    b.each (treeKids g.members.length g.fanin g.rank) fun b q => collSend b c q 5 len off 0 data
/-- A piece goes up; at the root it goes down to every member. -/
def gatherUp (b : Block) (id off len data : Nat) : Block :=
  withColl b id fun c =>
    let g := collGroup b c
    if g.rank = 0 then gatherDown b id off len data
    else collSend (modColl b id fun c => { c with upFrom := if c.upFrom.contains off then c.upFrom else off :: c.upFrom }) c
      (treeParent g.fanin g.rank) 4 len off 0 data
def gatherOwn (b : Block) (id : Nat) : Block :=
  withColl b id fun c =>
    let r := (collGroup b c).rank
    (modColl b id fun c => { c with ownAll := true }).each (pieces 0 c.count) fun b p =>
      withColl b id fun c => match collSource b c p.1 p.2 with
        | (.ok v, b) => gatherUp b id (r * c.count + p.1) p.2 v
        | (.error st, b) => collFail b c st

/-! All-to-all (R374). -/
/-- Where the rows of sender `s` begin in the result. -/
def rowsBase (c : Coll) (s : Nat) : Nat := sumN ((List.range s).map fun i => (mget 0 c.counts i - 1) * c.count)
/-- Sends this member's rows to every peer and copies its own. -/
def a2aData (b : Block) (id : Nat) : Block :=
  withColl b id fun c =>
    let g := collGroup b c
    let cnt := sendCounts b c.part c.desc g.members.length
    b.each (List.range g.members.length) fun b i =>
      let base := sumN (cnt.take i) * c.count
      b.each (pieces 0 (cnt.getD i 0 * c.count)) fun b p =>
        withColl b id fun c => match collSource b c (base + p.1) p.2 with
          | (.error st, b) => collFail b c st
          | (.ok v, b) =>
            if i = g.rank then
              modColl (collPlace b c (rowsBase c i + p.1) p.2 v) id fun c => { c with rows := mmod 0 c.rows i (· + p.2) }
            else collSend b c i 7 p.2 p.1 0 v
/-- The agreement reaches this member: it goes on down, and ends the collective or starts the data. -/
def a2aAgreed (b : Block) (id : Nat) (refused : Bool) : Block :=
  withColl b id fun c =>
    let g := collGroup b c
    let b := b.each (treeKids g.members.length g.fanin g.rank) fun b q => collSend b c q 5 0 0 (2 * b2n refused) 0
    if refused then collEnd b c .countMismatch false false g.rank
    else
      let b := modColl b id fun c => { c with agreed := true }
      if c.countsOnly then b else a2aData b id
/-- Once every count and every child's answer is here, this member's answer goes up. -/
def a2aUp (b : Block) (id : Nat) : Block :=
  withColl b id fun c =>
    let g := collGroup b c
    let p := g.members.length
    let kids := treeKids p g.fanin g.rank
    if c.refuseUp || !((List.range p).all fun i => mget 0 c.counts i != 0) || !(kids.all fun k => c.upFrom.contains k) then b else
    let refused := c.refuse || decide (c.desc.u 56 4 < rowsBase c p)
    let b := modColl b id fun c => { c with refuseUp := true, refuse := refused }
    if g.rank = 0 then a2aAgreed b id refused else collSend b c (treeParent g.fanin g.rank) 4 0 0 (2 * b2n refused) 0
def a2aCounts (b : Block) (id : Nat) : Block :=
  withColl b id fun c =>
    let g := collGroup b c
    let p := g.members.length
    let b := modColl b id fun c => { c with ownAll := true }
    if !pvaOk b c.part .hubRead0 (c.desc.u 48 8) (4 * p) then collFail b c .protection else
    match pvaCheck b c.part .hubRead0 (c.desc.u 48 8) (4 * p) with
    | (true, b) => collFail b c .uncorrectable
    | (false, b) =>
      let cnt := sendCounts b c.part c.desc p
      let b := modColl b id fun c => { c with counts := mset 0 c.counts g.rank (cnt.getD g.rank 0 + 1) }
      let b := b.each ((List.range p).filter (· != g.rank)) fun b i => collSend b c i 6 0 (cnt.getD i 0) 0 0
      a2aUp b id

/-- What a started member sends once every peer's COLL_READY is here (R381). -/
def collPump (b : Block) (id : Nat) : Block :=
  withColl b id fun c =>
    if !c.started || !collReadyAll b c then b
    else if c.kind < 2 then reducePump id (c.chunks + 1) b
    else if c.ownAll then b
    else if c.kind = 2 then gatherOwn b id else a2aCounts b id

/-! Answers of the packets sent (R381, R383). -/
/-- The parent has taken a packet of a sum: a chunk whose packets it has all taken is in flight no more (R373). -/
def upTaken (b : Block) (id : Nat) (k : Pkt) : Block :=
  withColl b id fun c =>
    if k.typ ≠ 4 ∨ 2 ≤ c.kind then b else
    let ch := k.u 24 4 / 8192
    let n := mget 0 c.acked ch + 1
    collPump (modColl b id fun c => { c with acked := mset 0 c.acked ch n,
                                             done := if n = c.inChunk ch then mmod 0 c.done (ch % 4) (· + 1) else c.done }) id
/-- The status of a collective's own packet: a full rendezvous table is tried again, any other failure ends it. -/
def collAnswer (b : Block) (x : Origin × Nat × Pkt) : Block :=
  match x with
  | (.coll n id, st, k) =>
    if st = 0 then upTaken b id k
    else if st = Status.quota.code ∧ (k.typ = 3 ∨ k.typ = 8) then b.modFab fun f => { f with retry := f.retry ++ [(b.now, n, k)] }
    else if k.typ = 8 then b
    else withColl b id fun c => collFail b c (.ofCode st)
  | _ => b
def collSettle : Nat → Block → Block
  | 0, b => b
  | fuel + 1, b => match b.fab.answers with
    | [] => b
    | l => collSettle fuel ((b.modFab fun f => { f with answers := [] }).each l collAnswer)
/-- A command of the fabric, with what its answers and escalations then do. -/
def fabRun (f : Block → Block) (s : State) : Out := run (fun b => collSettle 8 (f b)) s
def execAnswer (s : State) : Out := fabRun answerRow s
def execE2eTimeout (d : Fin 8192) (s : State) : Out := fabRun (e2eTimeout d) s

/-! Groups (R368 to R370). -/
def opGroupSet (b : Block) (c : Cmd) : Block :=
  let r := c.desc
  let n := c.part
  let cnt := r.u 32 2
  let pva := r.u 24 8
  let ok := decide (pva < 2 ^ 40) && pvaOk b n .hubRead0 pva (4 * cnt)
  let v := if ok then pvaRead b n .hubRead0 pva (pvaFuel (4 * cnt)) (4 * cnt) else 0
  let ms := (List.range cnt).map fun i => bits v (32 * i) 32
  let me := nodeId b + 8192 * n
  let groups := (List.range 1024).filterMap fun g => groupOf b n g
  let q := (b.part n).groupQuota
  let slot := (List.range (min q 1024)).find? fun g => (groupOf b n g).isNone
  let bad := !bodyOk r [(20, 15)] || !decide (2 ≤ cnt ∧ cnt ≤ 8192) || !decide (2 ≤ r.u 34 1 ∧ r.u 34 1 ≤ 16) || r.u 20 4 == 0 ||
    groups.any (fun g => g.tag == r.u 20 4) || (ok && (ms.any (fun m => decide (2 ^ 17 ≤ m)) || !decide ms.Nodup || !(ms.contains me)))
  checked b c [(!ok, .protection), (bad, .descInvalid), (decide (q ≤ groups.length ∨ 1024 ≤ groupsAll b) || slot.isNone, .quota)] fun b =>
    match pvaCheck b n .hubRead0 pva (4 * cnt), slot with
    | (true, b), _ => finish b c.id .uncorrectable
    | (false, b), none => finish b c.id .quota
    | (false, b), some g =>
      let rank := (ms.findIdx? (· == me)).getD 0
      finish (setGroup b n g (some { part := n, tag := r.u 20 4, members := ms, fanin := r.u 34 1, rank := rank })) c.id .done (g + 65536 * rank)
def execGroupSet (n : Fin 16) (r : Rec) (s : State) : Out := fabRun (ringCmd 0x80 opGroupSet n r) s
def opGroupClear (b : Block) (c : Cmd) : Block :=
  let g := c.desc.u 16 2
  let old := groupNamed b c.part g
  checked b c [(!bodyOk c.desc [(16, 2)] || old.isNone || (old.any fun x => x.clearing.isSome), .descInvalid)] fun b =>
    match old with
    | some x => groupCleared (setGroup b c.part g (some { x with clearing := some c.id })) c.part g
    | none => b
def execGroupClear (n : Fin 16) (r : Rec) (s : State) : Out := fabRun (ringCmd 0x81 opGroupClear n r) s

/-! Commands and queues (R375, R376, R379, R385). -/
/-- The fields of a received COLL_READY equal this member's own (R372, R381). -/
def readyOk (b : Block) (c : Coll) (k : Pkt) : Bool :=
  let g := collGroup b c
  k.u 24 1 == c.kind && k.u 25 1 == c.inFmt + 16 * c.outFmt && k.u 26 1 == c.frac && k.u 27 1 == g.fanin && k.u 28 4 == c.count
/-- Rank of the member that a packet comes from. -/
def rankOf (g : Group) (k : Pkt) : Option Nat := g.members.findIdx? (· == k.src + 8192 * k.spart)
/-- A COLL_READY reaches a queued collective. -/
def readyIn (b : Block) (id : Nat) (k : Pkt) : Block :=
  withColl b id fun c =>
    match rankOf (collGroup b c) k with
    | none => b
    | some r =>
      if !readyOk b c k then collFail b c .descInvalid
      else collPump (collProgress (modColl b id fun c => { c with ready := if c.ready.contains r then c.ready else c.ready ++ [r], at_ := b.now }) c.part) id
/-- A COLL_ABORT reaches a queued collective. -/
def abortIn (b : Block) (id : Nat) (k : Pkt) : Block :=
  withColl b id fun c => collEnd b c (.ofCode (k.u 24 1)) true false (k.u 29 2)
/-- A collective enters a queue with its group's next SEQ; kept arrivals for it then apply, an abort at once. -/
def collEnter (b : Block) (c : Cmd) : Block :=
  let gi := c.desc.u 16 2
  match groupOf b c.part gi with
  | none => finish b c.id .descInvalid
  | some g =>
    let (id, b) := b.newId
    let x : Coll := { id := id, part := c.part, cmd := c.id, group := gi, tag := g.tag, seq := g.seq, desc := c.desc, at_ := b.now }
    let b := setGroup b c.part gi (some { g with seq := (g.seq + 1) % 2 ^ 32 })
    let b := collProgress (b.modFab fun f => { f with colls := f.colls ++ [x] }) c.part
    let mine := b.fab.rdv.filter fun e => e.part == c.part && e.pkt.u 16 4 == g.tag && e.pkt.u 20 4 == x.seq
    let b := b.modFab fun f => { f with rdv := f.rdv.filter fun e => !mine.contains e }
    match mine.find? fun e => e.pkt.typ == 8 with
    | some e => abortIn b id e.pkt
    | none => b.each mine fun b e => readyIn b id e.pkt
def collQueued (b : Block) (n : Nat) : Nat := b.fab.colls.countP fun c => c.part == n
/-- Whether X64 elements with FRAC `frac` in `len` bytes at a store address meet no armed exact range of another F (R122); `add` names
the ranges that take X64 elements as they are. -/
def fracOk (b : Block) (n addr len frac : Nat) (add : Bool) : Bool := match storePlace b n addr len with
  | none => true
  | some (k, a) => (b.cell k).ranges.all fun r =>
    r.stat || r.fast || (add && r.fmt != 10) || r.frac == frac || decide (a + len ≤ r.base) || decide (r.base + r.len ≤ a)
/-- Whether the destination of a collective takes its elements (R122). -/
def destFrac (b : Block) (n : Nat) (r : Rec) (len : Nat) : Bool :=
  decide (2 ≤ r.u 18 1) || r.u 21 1 != 10 || !bit (r.u 19 1) 1 || fracOk b n (r.u 32 8) len (r.u 22 1) true
def opColl (b : Block) (c : Cmd) : Block :=
  let r := c.desc
  let n := c.part
  let kind := r.u 18 1
  let fl := r.u 19 1
  let cnt := r.u 40 4
  let g := groupNamed b n (r.u 16 2)
  let p := match g with | some g => max 1 g.members.length | none => 1
  let sps := bit fl 0
  let dps := bit fl 1
  let enc (st : Bool) (a : Nat) : Bool := if st then bit a 31 == false && decide (a < 2 ^ 42) else decide (a < 2 ^ 40)
  let al (st : Bool) (a : Nat) : Bool := if st then bits a 8 23 % 64 == 0 else a % 64 == 0
  let cok := kind != 3 || (pvaOk b n .hubRead0 (r.u 48 8) (4 * p) && pvaOk b n .hubWrite0 (r.u 48 8 + 4 * p) (4 * p))
  let srcLen := match kind with
    | 0 | 1 => cnt * inSize (r.u 20 1) | 2 => cnt
    | _ => if cok && decide (kind = 3) && !bit fl 2 then sumN (sendCounts b n r p) * cnt else 0
  let srcOk := srcLen == 0 || (if sps then (storePlace b n (r.u 24 8) srcLen).isSome else pvaOk b n .hubRead0 (r.u 24 8) srcLen)
  -- a stale group gives no member count: the destination is checked where its length does not rest on one
  let dok := bit fl 2 || (g.isNone && (kind == 1 || kind == 2)) || destOk b n r (resultBytes r p)
  let fracs := (decide (2 ≤ kind) || r.u 20 1 != 10 || !sps || fracOk b n (r.u 24 8) srcLen (r.u 22 1) false) && destFrac b n r (resultBytes r p)
  let esc := escrowList b n r
  let fmtOk (f : Nat) : Bool := f == 0 || f == 1 || f == 2 || f == 10
  let fields := if kind < 2 then fmtOk (r.u 20 1) && fmtOk (r.u 21 1) && decide (r.u 22 1 ≤ 63) && decide (1 ≤ r.u 23 1 ∧ r.u 23 1 ≤ 32)
    else r.u 20 4 == 0
  let bad := !bodyOk r [(16, 44)] || !decide (kind < 4) || !decide (fl < 16) || g.isNone || !fields || (bit fl 2 && kind != 3) ||
    (kind != 3 && (r.u 48 8 != 0 || r.u 56 4 != 0)) || !enc sps (r.u 24 8) || !enc dps (r.u 32 8) || r.u 47 1 == 0 || cnt == 0 ||
    (kind == 1 && cnt % p != 0) || (kind == 2 && cnt % 64 != 0) || (esc.any fun l => decide (sumN (l.map (·.2.2)) < escrowBytes r p)) || !fracs
  checked b c [(!cok || !srcOk || !dok || esc.isNone, .protection),
    (!al sps (r.u 24 8) || !al dps (r.u 32 8) || r.u 48 8 % 64 != 0 || (kind == 3 && cnt % 64 != 0), .alignment),
    (bad, .descInvalid)] fun b =>
      if 4 ≤ collQueued b n then (modCmd b c.id fun c => { c with left := 1 }).modFab fun f => { f with ringWait := f.ringWait ++ [n] }
      else collEnter b c
def execColl (n : Fin 16) (r : Rec) (s : State) : Out := fabRun (ringCmd 0x82 opColl n r) s
/-- A COLL that waits at the ring head takes a freed queue. -/
def collQueueTake (n : Fin 16) (b : Block) : Block :=
  if !(b.fab.ringWait.contains n.val) || decide (4 ≤ collQueued b n) then b else
  let b := b.modFab fun f => { f with ringWait := f.ringWait.filter (· != n.val) }
  match b.hub.cmds.find? fun c => c.part == n.val && c.op == 0x82 && c.left == 1 && c.st == .running with
  | some c => collEnter (modCmd b c.id fun c => { c with left := 0 }) c
  | none => b
def execCollQueueTake (n : Fin 16) (s : State) : Out := fabRun (collQueueTake n) s
/-- The oldest queued collective starts once no run of the partition is in progress: reduction memory is reserved on all four
E-dies or on none, and COLL_READY goes to its peers. -/
def collStart (n : Fin 16) (b : Block) : Block :=
  if (b.part n).running.isSome then b else
  match b.fab.colls.find? fun c => c.part == n.val && !c.started with
  | none => b
  | some c =>
    let free := (List.range 4).all fun e => decide (mget 0 b.fab.rmemUsed e + c.pipe ≤ 512)
    let want := decide (c.kind < 2)
    let take := want && free && !bit (c.desc.u 19 1) 3
    let b := if take then b.each (List.range 4) fun b e => b.modFab fun f =>
        { f with rmemUsed := mmod 0 f.rmemUsed e (· + c.pipe),
                 rmemPeak := mset 0 f.rmemPeak e (max (mget 0 f.rmemPeak e) (mget 0 f.rmemUsed e + c.pipe)) } else b
    let b := modColl b c.id fun c => { c with started := true, rmem := take, fallback := want && !take, at_ := b.now }
    let g := collGroup b c
    let b := b.each (collPeers g c.kind) fun b q =>
      sendMember b c q 3 0 [(16, 4, c.tag), (20, 4, c.seq), (24, 1, c.kind), (25, 1, c.inFmt + 16 * c.outFmt), (26, 1, c.frac), (27, 1, g.fanin), (28, 4, c.count)]
    collPump b c.id
def execCollStart (n : Fin 16) (s : State) : Out := fabRun (collStart n) s

/-! Arrivals. -/
/-- The collective an arrival is for: by destination partition, TAG and SEQ (R380). -/
def collFor (b : Block) (k : Pkt) : Option Coll := b.fab.colls.find? fun c => c.part == k.dpart && c.tag == k.u 16 4 && c.seq == k.u 20 4
/-- The first arrival of a type, of another node or of this one; `hold` leaves one waiting. -/
def takeArrival (b : Block) (typ : Nat) (hold : Pkt → Bool) : Option (Inbox × Block) :=
  match b.fab.inbox.find? fun x => x.pkt.typ == typ && !hold x.pkt with
  | some x => some (x, b.modFab fun f => { f with inbox := f.inbox.erase x })
  | none => match b.fab.localq.find? fun k => k.typ == typ && !hold k with
    | some k => some ({ pkt := k, conn := none }, b.modFab fun f => { f with localq := f.localq.erase k })
    | none => none
/-- Answers an arrival; one of this module's own goes to the collective that sent it, if it has not ended. -/
def arrAnswer (b : Block) (x : Inbox) (st : Status) : Block := match x.conn with
  | some q => answerPkt b x.pkt.src q st 0
  | none =>
    let own := b.fab.colls.find? fun c => c.part == x.pkt.spart && c.tag == x.pkt.u 16 4 && c.seq == x.pkt.u 20 4
    answerLocal b (.coll x.pkt.spart ((own.map (·.id)).getD 0)) st x.pkt
/-- Whether a partition's state turns an arrival away. -/
def arrRefused (b : Block) (n : Nat) : Option Status := stateCheck (b.part n)
/-- A rendezvous or abort packet whose collective is in no queue: kept, unless its collective is over or the table is full. -/
def rdvKeep (b : Block) (x : Inbox) : Block :=
  let n := x.pkt.dpart
  let past := (List.range 1024).any fun g => match groupOf b n g with
    | some g => g.tag == x.pkt.u 16 4 && decide (2 ^ 31 ≤ (x.pkt.u 20 4 + 2 ^ 32 - g.seq) % 2 ^ 32)
    | none => false
  if past then arrAnswer b x .done
  else if 64 ≤ b.fab.rdv.countP (fun e => e.part == n) then arrAnswer b x .quota
  else arrAnswer (b.modFab fun f => { f with rdv := f.rdv ++ [{ part := n, pkt := x.pkt }] }) x .done
/-- An arrival of a kind that waits for its collective (COLL_READY, COLL_ABORT). -/
def rdvArrive (typ : Nat) (act_ : Block → Nat → Pkt → Block) (b : Block) : Block :=
  match takeArrival b typ (fun _ => false) with
  | none => b
  | some (x, b) =>
    match arrRefused b x.pkt.dpart with
    | some st => arrAnswer b x st
    | none => match collFor b x.pkt with
      | none => rdvKeep b x
      | some c =>
        if (rankOf (collGroup b c) x.pkt).isNone then arrAnswer (fabCount b (x.pkt.src % 4) 6) x .descInvalid
        else act_ (arrAnswer b x .done) c.id x.pkt
def execCollReady (s : State) : Out := fabRun (rdvArrive 3 readyIn) s
def execCollAbort (s : State) : Out := fabRun (rdvArrive 8 abortIn) s
/-- A data packet of a collective: `ok` tells whether its sender and fields are right for the collective, `go` is its effect. -/
def dataArrive (typ : Nat) (hold : Block → Pkt → Bool) (ok : Block → Coll → Nat → Pkt → Bool) (go : Block → Nat → Nat → Pkt → Block) (b : Block) : Block :=
  match takeArrival b typ (hold b) with
  | none => b
  | some (x, b) =>
    let k := x.pkt
    match arrRefused b k.dpart with
    | some st => arrAnswer b x st
    | none =>
      let bad (b : Block) : Block := arrAnswer (fabCount b (k.src % 4) 6) x .descInvalid
      match collFor b k with
      | none => bad b
      | some c =>
        let g := collGroup b c
        match rankOf g k with
        | none => bad b
        | some r =>
          if r != k.u 29 2 || !(c.ready.contains r) || !c.started || !ok b c r k then bad b else
          let b := collCount (collProgress (modColl b c.id fun c => { c with at_ := b.now }) c.part) c.part 5 k.len
          collPump (go (arrAnswer b x .done) c.id r k) c.id
/-- Index of a child of this member. -/
def kidIdx (g : Group) (r : Nat) : Option Nat := (treeKids g.members.length g.fanin g.rank).findIdx? (· == r)
/-- Whether an offset and length name a piece of kind 2. -/
def pieceOk (g : Group) (c : Coll) (off len : Nat) : Bool :=
  let o := off % c.count
  decide (off < g.members.length * c.count) && o % 1024 == 0 && len == min 1024 (c.count - o)
def upOk (b : Block) (c : Coll) (r : Nat) (k : Pkt) : Bool :=
  let g := collGroup b c
  let off := k.u 24 4
  match kidIdx g r with
  | none => false
  | some j =>
    if c.kind < 2 then
      off % 128 == 0 && decide (off < c.count) && k.len == 8 * c.inPacket (off / 128) && decide (k.u 28 1 < 2) &&
      !bit (mget 0 c.have_ (off / 128)) (j + 1) && decide (mget 0 c.have_ (off / 128) < 2 ^ 32)
    else if c.kind = 2 then
      pieceOk g c off k.len && k.u 28 1 == 0 && (off / c.count == r || treeTo g.fanin r 16 (off / c.count) != none) &&
      mget 0 c.got off == 0 && !(c.upFrom.contains off)
    else k.len == 0 && off == 0 && !bit (k.u 28 1) 0 && !(c.upFrom.contains r)
def upGo (b : Block) (id r : Nat) (k : Pkt) : Block :=
  withColl b id fun c =>
    let g := collGroup b c
    let off := k.u 24 4
    if c.kind < 2 then
      reduceAdd (modColl b id fun c => { c with sat := c.sat || bit (k.u 28 1) 0 }) id (off / 128) ((kidIdx g r).getD 0 + 1) k.data
    else if c.kind = 2 then gatherUp b id off k.len k.data
    else a2aUp (modColl b id fun c => { c with upFrom := r :: c.upFrom, refuse := c.refuse || bit (k.u 28 1) 1 }) id
/-- A piece that must go on to a parent or children that have not sent COLL_READY stays where it is, and a child's chunk waits while
its E-die holds PIPE chunks before it in flight (R373). -/
def upHold (b : Block) (k : Pkt) : Bool := match collFor b k with
  | some c =>
    let ch := k.u 24 4 / 8192
    if c.kind < 2 then decide (mget 0 c.done (ch % 4) + c.pipe ≤ ch / 4) && decide (ch < c.chunks) else c.kind == 2 && !collReadyAll b c
  | none => false
def execCollUp (s : State) : Out := fabRun (dataArrive 4 upHold upOk upGo) s
def downOk (b : Block) (c : Coll) (r : Nat) (k : Pkt) : Bool :=
  let g := collGroup b c
  let off := k.u 24 4
  let sz := inSize c.outFmt
  g.rank != 0 && r == treeParent g.fanin g.rank &&
  (match c.kind with
   | 0 => off % 128 == 0 && decide (off < c.count) && k.len == sz * c.inPacket (off / 128) && decide (k.u 28 1 < 2) && mget 0 c.got off == 0
   | 1 =>
     let s := c.count / g.members.length
     decide (k.u 28 1 < 2) && (if k.len = 0 then off == c.count && !c.marker else
       decide (off < c.count) && k.len % sz == 0 && off / 128 == (off + k.len / sz - 1) / 128 && off / s == (off + k.len / sz - 1) / s &&
       mget 0 c.got off == 0 && (off / s == g.rank || treeTo g.fanin g.rank 16 (off / s) != none))
   | 2 => pieceOk g c off k.len && k.u 28 1 == 0 && mget 0 c.got off == 0
   | _ => k.len == 0 && off == 0 && !bit (k.u 28 1) 0 && c.refuseUp && !c.agreed)
def downGo (b : Block) (id _r : Nat) (k : Pkt) : Block :=
  withColl b id fun c =>
    let off := k.u 24 4
    if c.kind < 2 then
      let b := modColl b id fun c => { c with sat := c.sat || bit (k.u 28 1) 0 }
      if k.len = 0 then reduceMark b id else reduceDown b id off (k.len / inSize c.outFmt) k.data
    else if c.kind = 2 then gatherDown b id off k.len k.data
    else a2aAgreed b id (bit (k.u 28 1) 1)
def execCollDown (s : State) : Out := fabRun (dataArrive 5 (fun _ _ => false) downOk downGo) s
def countsGo (b : Block) (id r : Nat) (k : Pkt) : Block := a2aUp (modColl b id fun c => { c with counts := mset 0 c.counts r (k.u 24 4 + 1) }) id
def execCollCounts (s : State) : Out :=
  fabRun (dataArrive 6 (fun _ _ => false) (fun _ c r _ => c.kind == 3 && mget 0 c.counts r == 0) countsGo) s
/-- Rows of one sender arrive in order: the next byte offset, within the count it sent. -/
def a2aOk (_b : Block) (c : Coll) (r : Nat) (k : Pkt) : Bool :=
  c.kind == 3 && c.refuseUp && !c.countsOnly && k.u 24 4 == mget 0 c.rows r && k.len != 0 && decide (k.u 24 4 + k.len ≤ (mget 0 c.counts r - 1) * c.count)
def a2aGo (b : Block) (id r : Nat) (k : Pkt) : Block :=
  withColl b id fun c =>
    modColl (collPlace b c (rowsBase c r + k.u 24 4) k.len k.data) id fun c => { c with rows := mmod 0 c.rows r (· + k.len) }
def execCollA2a (s : State) : Out := fabRun (dataArrive 7 (fun _ _ => false) a2aOk a2aGo) s

/-! Endings. -/
/-- Whether a member's whole result is in escrow. -/
def collWhole (b : Block) (c : Coll) : Bool :=
  let g := collGroup b c
  let p := g.members.length
  c.started && (match c.kind with
    | 0 => c.placed == resultBytes c.desc p
    | 1 => c.placed == resultBytes c.desc p && c.marker
    | 2 => c.placed == resultBytes c.desc p
    | _ => c.agreed && (c.countsOnly || (List.range p).all fun i => mget 0 c.rows i == (mget 0 c.counts i - 1) * c.count))
/-- Writes the destination, in a store or in pages, as one engine write: its status and flags. Where a line of it would be discarded
(R141) or an element of it cannot be read, no byte is written (R376) and only the discards are counted. -/
def destPut (b : Block) (c : Coll) (len v : Nat) : Status × Flags × Block :=
  let dst := c.desc.u 32 8
  if len = 0 then (.done, {}, b)
  else if bit (c.desc.u 19 1) 1 then match storePlace b c.part dst len with
    | none => (.protection, {}, b)
    | some (k, a) =>
      let (id, b) := b.newId
      let (bad, b) := accCheck b k a len 5
      let (x, fl, st) := (b.cell k).engineWrite a len v id
      match st with
      | none => (.done, fl, b.setCell k x)
      | some st => (if bad then .uncorrectable else st, {}, b.modCell k fun y => { y with cnt := mset 0 y.cnt 0x30868 (mget 0 x.cnt 0x30868) })
  else (.done, {}, pvaWrite b c.part .hubWrite0 dst (pvaFuel len) len v)
/-- The commit (R376): the whole destination is checked, then written from escrow, with the received counts; the staging
region of a member that fell back keeps a value the spec does not state. -/
def collCommit (n : Fin 16) (b : Block) : Block :=
  match b.fab.colls.find? fun c => c.part == n.val && collWhole b c with
  | none => b
  | some c =>
    let p := (collGroup b c).members.length
    let len := if c.kind = 3 then (if c.countsOnly then 0 else rowsBase c p) else resultBytes c.desc p
    let cnts := c.desc.u 48 8 + 4 * p
    match escrowList b c.part c.desc with
    | none => collFail b c .protection
    | some esc =>
      if !destOk b c.part c.desc len || (c.kind == 3 && !pvaOk b c.part .hubWrite0 cnts (4 * p)) then collFail b c .protection else
      if !destFrac b c.part c.desc len then collFail b c .descInvalid else
      match escrowGet c.id esc 0 len b with
      | (none, b) => collFail b c .uncorrectable
      | (some v, b) =>
        let (st, fl, b) := destPut b c len v
        if st ≠ .done then collFail b c st else
        let b := if c.kind = 3 then
            pvaWrite b c.part .hubWrite0 cnts (pvaFuel (4 * p)) (4 * p) ((List.range p).foldr (fun i a => (mget 0 c.counts i - 1) % 2 ^ 32 + a * 2 ^ 32) 0)
          else b
        let b := if c.fallback then
            let (v, b) := b.draw
            escrowPut esc len (4 * c.pipe * 65536) v b
          else b
        collEnd b c .done false false 0 fl
def execCollCommit (n : Fin 16) (s : State) : Out := fabRun (collCommit n) s
/-- All four queues are held and no packet has moved for 4 ms: the collectives that lack a COLL_READY end (R382). -/
def orderStall (n : Fin 16) (b : Block) : Block :=
  if collQueued b n ≠ 4 ∨ b.now + 1 < mget 0 b.fab.progress n + 4000000 then b else
  b.each (b.fab.colls.filter fun c => c.part == n.val && !collReadyAll b c) fun b c => withColl b c.id fun c => collFail b c .orderStall
def execOrderStall (n : Fin 16) (s : State) : Out := fabRun (orderStall n) s
/-- A collective without progress for COLL_TIMEOUT_MS ends (R383). -/
def collTimeout (n : Fin 16) (b : Block) : Block :=
  b.each (b.fab.colls.filter fun c => c.part == n.val && decide (c.at_ + 1000000 * collMs b ≤ b.now)) fun b c =>
    withColl b c.id fun c => collFail b c .timeout
def execCollTimeout (n : Fin 16) (s : State) : Out := fabRun (collTimeout n) s
/-- An arrival answered QUOTA is sent again after 100 µs (R381); a rendezvous only while its collective is queued. -/
def rendezvousRetry (b : Block) : Block :=
  match b.fab.retry.find? fun x => decide (x.1 + 100000 ≤ b.now) with
  | none => b
  | some x =>
    let b := b.modFab fun f => { f with retry := f.retry.erase x }
    let k := x.2.2
    match b.fab.colls.find? fun c => c.part == x.2.1 && c.tag == k.u 16 4 && c.seq == k.u 20 4 with
    | some c => connSend (collProgress b c.part) k (.coll c.part c.id)
    | none => if k.typ = 3 then b else connSend b k (.coll x.2.1 0)
def execRendezvousRetry (s : State) : Out := fabRun rendezvousRetry s

end Sys2Proof.Machine
end

