-- ==== Sys2Proof/Machine/Ledger.lean ====
section
/-!
DEFINITION. Machine/Ledger.lean: the ledger commands (spec 09).
-/
namespace Sys2Proof.Machine

/-! Common checks (R247, R255, R268, R281). -/
/-- Ends a ledger command that validation refuses, with its counters; else goes on. -/
def ledChecked (b : Block) (c : Cmd) (l : List (Bool × Status)) (go : Block → Block) : Block :=
  match refuse l with
  | some .ledgerFull => finish (ledCount b c.part 2) c.id .ledgerFull
  | some .quota => finish (ledCount b c.part 3) c.id .quota
  | some st => finish b c.id st
  | none => go b
/-- A ledger command that could not get what it needs: QUOTA, no state changed. -/
def ledQuotaEnd (b : Block) (c : Cmd) : Block := finish (ledCount b c.part 3) c.id .quota
/-- Checks of a command on a sequence: its handle, a prefix entry where `pfx` is false, a failed entry, and the tables that it reads
(`pages`): damage in them fails the entry now (R281). -/
def seqChecked (b : Block) (c : Cmd) (h : Nat) (pfx : Bool) (pages : List (Nat × Nat)) (l : List (Bool × Status)) (go : Block → Block) : Block :=
  let sq := seqCheck b c.part h
  let x := h % 65536
  let e := b.entry x
  let (ok, b) := if sq.isSome || e.st == 6 then (true, b) else
    match refuse ([(!pfx && e.st == 2, .descInvalid)] ++ l.filter fun y => y.2 != .quota && y.2 != .ledgerFull) with
    | some _ => (true, b)
    | none => tablesRead b x pages
  if !ok then finish b c.id .uncorrectable else
  ledChecked b c ([(sq == some .protection, .protection), (sq.isSome || (!pfx && e.st == 2), .descInvalid)] ++ l) fun b =>
    if e.st = 6 then finish b c.id .uncorrectable else go b
/-- Whether a running command's sequence is still the one it was given. -/
def seqHeld (b : Block) (c : Cmd) : Bool := (seqCheck b c.part (c.desc.u 16 4)).isNone
/-- A command that an edit or a state of its entry holds up is tried again at PIN_END and when the entry's command ends. -/
def defer (b : Block) (c : Cmd) : Block := modCmd b c.id fun c => { c with left := 99 }

/-! LED_MODEL and LED_POOL (R256, R244). -/
def opLedModel (b : Block) (c : Cmd) : Block :=
  let r := c.desc
  let n := c.part
  let m := r.u 16 1
  let x := b.model n m
  let used := x.poolPages != 0 || b.entries.any (fun e => e.2.st != 0 && e.2.owner == n && e.2.model == m) ||
    (match (b.part n).image with | some im => im.model == m | none => false)
  let form := bodyOk r [(16, 1), (18, 5)] && decide (m < 8) && decide (1 ≤ r.u 18 2) && decide (r.u 18 2 ≤ 1024) && decide (1 ≤ r.u 20 1) &&
    decide (r.u 20 1 ≤ 16) && (r.u 21 1 == 64 || r.u 21 1 == 128) && (r.u 22 1 == 3 || r.u 22 1 == 4)
  ledChecked b c [(!form || (x.defined && used), .descInvalid)] fun b =>
    finish (b.modModel n m fun _ => { layers := r.u 18 2, kvHeads := r.u 20 1, headDim := r.u 21 1, fmt := r.u 22 1 }) c.id .done
def execLedModel (n : Fin 16) (r : Rec) (s : State) : Out := act (ringCmd 0x40 opLedModel n r) s
def opLedPool (b : Block) (c : Cmd) : Block :=
  let r := c.desc
  let n := c.part
  let m := r.u 16 1
  let base := r.u 24 8
  let pages := r.u 32 4
  let vpn := base / 2 ^ 21
  let x := b.model n m
  let frames := pages * x.fpp
  let kinds : Bool := decide (vpn + pages ≤ 524288) &&
    (List.range pages).all fun i => let e := mttEntry b n (vpn + i); mttV e && mttKind e == 2
  let blocks := cdiv (16 * frames) 256
  let b' := if x.recBlocks = 0 then b else freeBlocks b n x.recBlock
  ledChecked b c [(!(b.part n).mttEn, .protection), (base % 2 ^ 21 != 0, .alignment),
    (!bodyOk r [(16, 1), (24, 12)] || !decide (m < 8) || !x.defined || pages == 0 || decide (2 ^ 26 < frames) || !kinds || x.inUse != 0, .descInvalid),
    ((allocBlocks b' n blocks).isNone, .quota)] fun b =>
    match allocBlocks b' n blocks with
    | none => finish b c.id .quota
    | some (s, b) =>
      finish (b.modModel n m fun x => { x with poolVpn := vpn, poolPages := pages, recBlock := s, recBlocks := blocks, frames := [] }) c.id .done frames
def execLedPool (n : Fin 16) (r : Rec) (s : State) : Out := act (ringCmd 0x41 opLedPool n r) s

/-! ADMIT and RESERVE (R258, R259, R267, R270). -/
def lenCapOk (k : Nat) : Bool := decide (16 ≤ k) && decide (k ≤ 1048576) && k % 16 == 0
/-- A new active entry. -/
def ledAdmit (b : Block) (n model len flags sink recent q k dest : Nat) : Option (Nat × Block) :=
  takeEntry b n { st := 1, model := model, compactOk := bit flags 0, sink := sink, recent := recent, lenCap := len, qrot := q, krot := k, dest := dest }
def opAdmit (b : Block) (c : Cmd) : Block :=
  let r := c.desc
  let n := c.part
  let got := ledAdmit b n (r.u 16 1) (r.u 20 4) (r.u 17 1) (r.u 18 2) (r.u 32 4) (r.u 24 4) (r.u 28 4) (r.u 36 4)
  ledChecked b c [(!bodyOk r [(16, 24)] || !decide (r.u 16 1 < 8) || !(b.model n (r.u 16 1)).defined || !decide (r.u 17 1 < 2) || !lenCapOk (r.u 20 4), .descInvalid),
    (got.isNone, .quota), (ledFull b n, .ledgerFull)] fun b =>
    match got with
    | none => finish b c.id .quota
    | some (x, b) => finish b c.id .done (handleOf b x)
def execAdmit (n : Fin 16) (r : Rec) (s : State) : Out := act (ringCmd 0x42 opAdmit n r) s
/-- Copies LPDDR6 bytes, and the word errors with them. -/
def memCopy (b : Block) (src dst len : Nat) : Block :=
  let errs := b.merr.filter fun e => decide (src ≤ 8 * e.1) && decide (8 * e.1 < src + len)
  let b := b.memWrite dst len (b.memRead src len)
  b.each errs fun b e => { b with merr := mset 0 b.merr (e.1 + dst / 8 - src / 8) e.2 }
/-- The page record that a reservation gives a page that it enters (R267): committed marks below RESERVED only. -/
def entered (m : Model) (f : Frame) (page reserved block attr : Nat) (known : Bool) : Frame :=
  let parts : Map Nat := (List.range 16).foldl (fun p s =>
    if 16 * page + s < reserved then mset 0 p s (if known then f.mask m s else m.parts) else p) []
  let g : Frame := { f with open_ := some { parts := parts, attr := attr, block := block }, isSealed := false }
  { g with last := min f.last (g.lead m) }
/-- Reserves one page of one layer. -/
def reservePage (b : Block) (x layer page attr : Nat) : Except Status Block :=
  let e := b.entry x
  let n := e.owner
  let m := b.model n e.model
  let l := e.leaf layer page
  let newPage (unrot : Bool) (mk : Block → Nat → Nat → Block) : Except Status Block :=
    match allocFrames b n e.model x page 1 with
    | none => .error .quota
    | some (f, b) => match allocBlocks b n 1 with
      | none => .error .quota
      | some (blk, b) => match setLeaf (mk b f blk) x layer page { frame := f, st := 1, unrot := unrot } with
        | none => .error .quota
        | some b => .ok (ledCount b n 4)
  let copy (old : Nat) (known dropRef : Bool) : Except Status Block :=
    match newPage l.unrot fun b f blk =>
      let o := b.frame n e.model old
      let b := memCopy b (frameMpa b n e.model old) (frameMpa b n e.model f) m.pageBytes
      let g := entered m o page e.reserved blk attr known
      b.modFrame n e.model f fun y => { y with fade := o.fade, last := g.last, open_ := g.open_ } with
    | .error st => .error st
    | .ok b => .ok (ledCount (if dropRef then deref b n e.model old else b) n 7)
  match l.st with
  | 0 => newPage false fun b f blk => b.modFrame n e.model f fun y => { y with open_ := some { attr := attr, block := blk } }
  | 1 =>
    let f := b.frame n e.model l.frame
    if 1 < f.ref then copy l.frame true true
    else match f.open_ with
      | some o => .ok (b.modFrame n e.model l.frame fun y => entered m y page e.reserved o.block attr true)
      | none => match allocBlocks b n 1 with
        | none => .error .quota
        | some (blk, b) => .ok (ledCount (b.modFrame n e.model l.frame fun y => entered m y page e.reserved blk attr true) n 4)
  | 3 => copy (leafFrame l page) false false
  | _ => .error .pageAbsent
/-- Reserves positions RESERVED to `to_ - 1` in every layer; nothing changes where anything is missing. -/
def ledReserve (b : Block) (x to_ attr : Nat) : Except Status Block :=
  let e := b.entry x
  let m := b.model e.owner e.model
  if to_ ≤ e.reserved then .ok b else
  let pages := (List.range ((to_ - 1) / 16 + 1 - e.reserved / 16)).map (· + e.reserved / 16)
  let r := (List.range m.layers).foldl (fun a layer => pages.foldl (fun a p => match a with
    | .error st => .error st
    | .ok b => reservePage b x layer p attr) a) (Except.ok b)
  match r with
  | .error st => .error st
  | .ok b => .ok (bumpTgen (b.modEntry x fun e => { e with reserved := to_ }) x)
/-- Gives positions `old` to `to_ - 1` back (R300): the pages that hold none below `old` are freed, and RESERVED falls to `old`. An
entry that another operation has reserved further, or that is no longer active, keeps its reservation (DESIGN CHOICE, log entry 94). -/
def unreserve (b : Block) (x old to_ : Nat) : Block :=
  let e := b.entry x
  let m := b.model e.owner e.model
  if e.st ≠ 1 ∨ e.reserved ≠ to_ ∨ to_ ≤ old then b else
  let first := (old + 15) / 16
  let keys := (List.range m.layers).flatMap fun i => (List.range ((to_ + 15) / 16 - first)).map fun p => (i, first + p)
  let b := b.each keys fun b k =>
    let l := (b.entry x).leaf k.1 k.2
    if l.st ≠ 1 then b else match setLeaf b x k.1 k.2 {} with
      | none => b
      | some b => deref b e.owner e.model l.frame
  bumpTgen (b.modEntry x fun e => { e with reserved := old }) x
def opReserve (b : Block) (c : Cmd) : Block :=
  let r := c.desc
  let h := r.u 16 4
  let x := h % 65536
  let k := r.u 20 4
  let e := b.entry x
  let m := b.model c.part e.model
  let pages := (List.range m.layers).flatMap fun i => (List.range (min 4097 ((e.reserved + k + 15) / 16 - e.reserved / 16))).map fun p => (i, e.reserved / 16 + p)
  seqChecked b c h false pages [(!bodyOk r [(16, 8)] || k == 0 || decide (65536 < k) || decide (e.lenCap < e.reserved + k) || m.poolPages == 0, .descInvalid)] fun b =>
    if tgenBlocked b x then defer b c else
    match ledReserve b x (e.reserved + k) c.attr with
    | .error .quota => ledQuotaEnd b c
    | .error st => finish b c.id st
    | .ok b => finish b c.id .done (e.reserved + k)
def execReserve (n : Fin 16) (r : Rec) (s : State) : Out := act (ringCmd 0x43 opReserve n r) s

/-! SEAL (R262, R263). -/
def opSeal (b : Block) (c : Cmd) : Block :=
  let r := c.desc
  let h := r.u 16 4
  let p := r.u 20 4
  let e := b.entry (h % 65536)
  seqChecked b c h false ((List.range (b.model c.part e.model).layers).map fun i => (i, (p - 1) / 16)) [(!bodyOk r [(16, 8)] || p == 0 || decide (e.reserved < p), .descInvalid)] fun b =>
    let b := b.each (List.range (b.model c.part e.model).layers) fun b layer =>
      requestSeal b (h % 65536) layer ((p - 1) / 16) ((p - 1) % 16 + 1) c.attr
    finish b c.id .done
def execSeal (n : Fin 16) (r : Rec) (s : State) : Out := act (ringCmd 0x44 opSeal n r) s

/-! FORK (R266, R270). -/
/-- Frames of the pages below AT, once for each reference the child takes. -/
def forkRefs (pages : List (Nat × Nat × Leaf)) (exts : List (Nat × Nat)) : List Nat :=
  (pages.filter fun p => p.2.2.st == 1).map (fun p => p.2.2.frame) ++ exts.flatMap fun q => (List.range (2 ^ (q.2 + 1))).map (q.1 + ·)
/-- The child's entry and tables. -/
def ledFork (b : Block) (n x at_ q k dest : Nat) : Option (Nat × Block) :=
  let p := b.entry x
  let m := b.model n p.model
  let pages := p.pages.filter fun l => decide (16 * l.2.1 < at_)
  let exts := (pages.filter fun l => l.2.2.st == 3).map (fun l => (l.2.2.frame, l.2.2.ext)) |>.eraseDups
  let refs := forkRefs pages exts
  let pfx := if p.st = 2 then handleOf b x else p.pfx
  let tooMany := refs.any fun f => decide (65535 < (b.frame n p.model f).ref + refs.count f)
  if tooMany then none else
  match takeEntry b n { st := 1, model := p.model, compactOk := p.compactOk, sink := p.sink, recent := p.recent, lenCap := p.lenCap,
                        qrot := q, krot := k, dest := dest, pfx := pfx, forkAt := at_, reserved := at_, exts := exts } with
  | none => none
  | some (y, b) =>
    let b := b.each refs fun b f => b.modFrame n p.model f fun z => { z with ref := z.ref + 1 }
    let b := b.modEntry y fun e => { e with lens := (List.range m.layers).foldl (fun l i => mset 0 l i at_) [] }
    let r := pages.foldl (fun (a : Option Block) l => a.bind fun b => setLeaf b y l.1 l.2.1 l.2.2) (some b)
    r.map fun b => (y, if pages.isEmpty then b else bumpTgen b y)
def opFork (b : Block) (c : Cmd) : Block :=
  let r := c.desc
  let h := r.u 16 4
  let x := h % 65536
  let e := b.entry x
  let n := c.part
  let at_ := r.u 20 4
  let least := ((List.range (b.model n e.model).layers).map e.len).foldl min (2 ^ 32)
  let away := e.pages.any fun l => decide (16 * l.2.1 < at_) && (l.2.2.st == 2 || e.swapMarks.contains (leafKey l.1 l.2.1))
  let got := ledFork b n x at_ (r.u 24 4) (r.u 28 4) (r.u 36 4)
  let ok := (seqCheck b n h).isNone && e.st != 6
  seqChecked b c h true (e.pageKeys.filter fun l => decide (16 * l.2 < at_)) [(!bodyOk r [(16, 16), (36, 4)] || decide (least < at_), .descInvalid), (ok && !away && got.isNone, .quota),
    (ledFull b n, .ledgerFull)] fun b =>
    if away then finish b c.id .pageAbsent else
    match got with
    | none => finish b c.id .quota
    | some (y, b) => finish b c.id .done (handleOf b y)
def execFork (n : Fin 16) (r : Rec) (s : State) : Out := act (ringCmd 0x45 opFork n r) s

/-! IMPORT (R268, R252). -/
/-- The greedy cover of a span: (first position, log2 of the extent's tokens, or 4 for a page). -/
def cover (len : Nat) : Nat → Nat → List (Nat × Nat)
  | 0, _ => []
  | fuel + 1, p =>
    if len ≤ p then []
    else if 32 ≤ len - p then let e := min 12 (Nat.log2 (len - p)); (p, e) :: cover len fuel (p + 2 ^ e)
    else (p, 4) :: cover len fuel (p + 16)
/-- Gives a prefix entry its frames and leaves for one layer. -/
def importLayer (b : Block) (x layer len : Nat) (unrot : Bool) : Option Block :=
  (cover len (len / 16 + 2) 0).foldl (fun a s => a.bind fun b =>
    let e := b.entry x
    let p := s.1 / 16
    let k := 2 ^ (s.2 - 4)
    match allocFrames b e.owner e.model x p k with
    | none => none
    | some (f, b) =>
      let l : Leaf := if s.2 = 4 then { frame := f, st := 1, unrot := unrot } else { frame := f, st := 3, unrot := unrot, ext := s.2 - 5 }
      let b := b.each (List.range k) fun b i => b.modFrame e.owner e.model (f + i) fun y => { y with imported := true }
      let b := if s.2 = 4 then b else b.modEntry x fun e => { e with exts := e.exts ++ [(f, s.2 - 5)] }
      (List.range k).foldl (fun a i => a.bind fun b => setLeaf b x layer (p + i) l) (some b)) (some b)
/-- The prefix entry with every frame and leaf; no bytes yet. -/
def ledImport (b : Block) (n model len : Nat) (unrot : Bool) : Option (Nat × Block) :=
  let m := b.model n model
  match takeEntry b n { st := 2, model := model, lenCap := max 16 ((len + 15) / 16 * 16), reserved := len, dest := 0xFFFFFFFF } with
  | none => none
  | some (x, b) =>
    let b := b.modEntry x fun e => { e with lens := (List.range m.layers).foldl (fun l i => mset 0 l i len) [] }
    ((List.range m.layers).foldl (fun a i => a.bind fun b => importLayer b x i len unrot) (some b)).map fun b => (x, bumpTgen b x)
/-- The frames of an import in source order. -/
def importFrames (b : Block) (x len : Nat) : List Nat :=
  let e := b.entry x
  (List.range (b.model e.owner e.model).layers).flatMap fun i => (List.range (cdiv len 16)).map fun p => leafFrame (e.leaf i p) p
/-- DMA reads of one page into a frame. -/
def pageReads (n func h mpa : Nat) (use : Nat → DmaUse) : Nat → Nat → Block → Block
  | 0, _, b => b
  | fuel + 1, len, b =>
    if len = 0 then b else
    let l := min len 4096
    pageReads n func (h + l) (mpa + l) use fuel (len - l)
      (dmaPush b { part := n, write := false, func := func, addr := h, len := l, data := 0, use := use mpa, bulk := true })
def opImport (b : Block) (c : Cmd) : Block :=
  let r := c.desc
  let n := c.part
  let model := r.u 16 1
  let fl := r.u 17 1
  let len := r.u 20 4
  let src := r.u 24 8
  let m := b.model n model
  let lenOk := decide (1 ≤ len) && decide (len ≤ 1048576)
  let pages := if lenOk then cdiv len 16 else 0
  let bytes := m.layers * pages * m.pageBytes
  let pva := bit fl 1
  let srcOk := if pva then pvaOk b n .hubRead0 src bytes else inAperture b n src bytes
  let form := bodyOk r [(16, 2), (20, 12)] && decide (model < 8) && m.defined && m.poolPages != 0 && decide (fl < 4) && lenOk
  let got := if form then ledImport b n model len (bit fl 0) else none
  ledChecked b c [(!srcOk, .protection), (src % 64 != 0, .alignment), (!form, .descInvalid), (form && got.isNone, .quota), (ledFull b n, .ledgerFull)] fun b0 =>
    if !pva && !kwUp b0 then finish b0 c.id .linkDown else
    match got with
    | none => finish b0 c.id .quota
    | some (x, b) =>
      let frames := importFrames b x len
      if pva then
        if pvaBad b0 n .hubRead0 src bytes then finish b0 c.id .uncorrectable else
        let b := b.each ((List.range frames.length).zip frames) fun b f =>
          b.memWrite (frameMpa b n model f.2) m.pageBytes (pvaRead b n .hubRead0 (src + f.1 * m.pageBytes) (pvaFuel m.pageBytes) m.pageBytes)
        finish b c.id .done (handleOf b x)
      else
        let b := modCmd b c.id fun c => { c with left := bytes, undo := [x] }
        b.each ((List.range frames.length).zip frames) fun b f =>
          pageReads n (b.part n).mgrFunc (src + f.1 * m.pageBytes) (frameMpa b n model f.2) (fun a => .cmdIn n c.id a) (m.pageBytes / 4096 + 1) m.pageBytes b
def execImport (n : Fin 16) (r : Rec) (s : State) : Out := act (ringCmd 0x46 opImport n r) s
/-- A read of an IMPORT ends; when none is outstanding it completes with its handle, or frees the entry and its frames. -/
def importDma (b : Block) (c : Cmd) (mpa len data : Nat) (st : Status) : Block :=
  let b := if st = .done then b.memWrite mpa len data else b
  let b := modCmd b c.id fun c => { c with left := c.left - len, bad := if st = .done then c.bad else some (c.bad.getD st) }
  match cmdOf b c.id with
  | some c =>
    let x := c.undo.headD 0
    if c.left ≠ 0 then b
    else match c.bad with
      | none => finish b c.id .done (handleOf b x)
      | some st => finish (releaseEntry b x) c.id st
  | none => b

/-! PREEMPT (R271 to R274). -/
def pageUse (n x layer page : Nat) (out : Bool) : DmaUse := if out then .swapOut n x layer page else .swapIn n x layer page
/-- Whether a page's transfers are still queued or outstanding. -/
def pageDma (b : Block) (u : DmaUse) : Bool := b.hub.dma.any (fun d => d.use == u) || b.hub.dmaq.any fun w => w.use == u
/-- Pages of an entry that stay shared: pages with other references, and pieces of extents. -/
def sharedPages (b : Block) (x : Nat) : List (Nat × Nat × Leaf) :=
  let e := b.entry x
  e.pages.filter fun p => p.2.2.st == 3 || (p.2.2.st == 1 && decide (1 < (b.frame e.owner e.model p.2.2.frame).ref))
def privatePages (b : Block) (x : Nat) : List (Nat × Nat × Leaf) :=
  let e := b.entry x
  e.pages.filter fun p => p.2.2.st == 1 && decide ((b.frame e.owner e.model p.2.2.frame).ref ≤ 1)
/-- What the image header holds, as a list of numbers: the entry's fields, the lengths, and for each page its key, slot,
marks and records, its pending seal and its score (log entry 87); `slots` gives the slot of each page. -/
def imageList (b : Block) (x : Nat) (slots : List (Nat × Nat)) : List Nat :=
  let e := b.entry x
  let m := b.model e.owner e.model
  let page (p : Nat × Nat × Leaf) : List Nat :=
    let k := leafKey p.1 p.2.1
    let o : OpenRec := if p.2.2.st = 2 then mget {} e.opens k else
      let f := b.frame e.owner e.model (leafFrame p.2.2 p.2.1)
      { open_ := f.open_, last := f.last, isSealed := f.isSealed, fade := f.fade, imported := f.imported }
    let q := mget (0, 0) e.pends k
    [k, ((slots.find? fun s => s.1 == k).map (·.2)).getD 0, p.2.2.st, b2n p.2.2.unrot, o.last, b2n o.isSealed, o.fade, b2n o.open_.isSome,
     q.1, q.2, b2n o.imported] ++ (List.range 16).map fun s => match o.open_ with | some r => mget 0 r.parts s | none => 0
  [e.model, b2n e.compactOk, e.sink, e.recent, e.lenCap, e.reserved, e.qrot, e.krot, e.dest, e.pfx, e.forkAt] ++ (List.range m.layers).map e.len ++
    e.pages.flatMap page
/-- The root area and leaf tables as they lie in the table pool (R250). -/
def tableBytes (b : Block) (x : Nat) : Nat × Nat :=
  let e := b.entry x
  let m := b.model e.owner e.model
  let span := cdiv e.lenCap 1024
  let word (l : Leaf) : Nat := l.frame % 2 ^ 26 + l.st * 2 ^ 26 + b2n l.unrot * 2 ^ 28 + l.ext * 2 ^ 29
  let section_ (layer : Nat) : List Nat := e.len layer :: (List.range span).map fun i =>
    match mget 0 e.tables (layer * 1024 + i) with | 0 => 0 | t + 1 => t + 2 ^ 26
  let root := (List.range m.layers).flatMap section_
  let root := root ++ List.replicate (e.rootLen * 64 - root.length) 0
  let leafs := e.tables.flatMap fun t => (List.range 64).map fun k => word (e.leaf (t.1 / 1024) (t.1 % 1024 * 64 + k))
  let ws := root ++ leafs
  (4 * ws.length, ws.foldr (fun w a => w % 2 ^ 32 + 2 ^ 32 * a) 0)
/-- Ends a PREEMPT: its completion, event and the commands that waited for it. -/
def preemptEnd (b : Block) (c : Cmd) (x : Nat) (st : Status) : Block :=
  let left := if seqHeld b c then (privatePages b x).length else 0
  let h := c.desc.u 16 4
  let b := event b c.part 0x0501 st 0 chipLoc (detail [(16, 4, h), (20, 4, c.result), (24, 4, left), (28, 1, c.desc.u 20 1 % 2)])
  finish (if st = .quota then ledCount b c.part 3 else b) c.id st c.result
/-- Starts the writes of marked pages that nothing pins, and ends the command when none is left (R272, R273). Under RELEASE the entry
stays pre-empting until its image is written (log entry 88). A page that a COMPACT has dropped meanwhile is passed over; an entry
that failed ends the command with UNCORRECTABLE (R281). -/
def preemptPump (b : Block) (id : Nat) : Block :=
  match cmdOf b id with
  | none => b
  | some c =>
    if c.st ≠ .running || c.left ≠ 1 then b else
    let n := c.part
    let x := c.desc.u 16 4 % 65536
    let e := b.entry x
    let m := b.model n e.model
    let host := c.desc.u 24 8
    if !seqHeld b c then (if c.wait2.isEmpty then preemptEnd b c x .uncorrectable else b) else
    let free (k : Nat) : Bool := let f := b.frame n e.model (e.leaf (k / 65536) (k % 65536)).frame; f.pins == 0 && f.remit == 0
    let here := c.wait.filter fun k => (e.leaf (k / 65536) (k % 65536)).st == 1
    let go := here.filter free
    let b := modCmd b id fun c => { c with wait := here.filter (fun k => !free k), wait2 := c.wait2 ++ go }
    let b := b.each go fun b k =>
      let slot := ((c.notes.find? fun s => s.1 == k).map (·.2)).getD 0
      let mpa := frameMpa b n e.model (e.leaf (k / 65536) (k % 65536)).frame
      dmaWrites n (b.part n).mgrFunc (host + 4096 + slot * m.pageBytes) (fun _ => pageUse n x (k / 65536) (k % 65536) true) true (m.pageBytes / 512 + 1)
        m.pageBytes (b.memRead mpa m.pageBytes) b
    match cmdOf b id with
    | none => b
    | some c =>
      if !c.wait.isEmpty || !c.wait2.isEmpty then b else
      let e := b.entry x
      match if e.st = 6 then some .uncorrectable else c.bad with
      | some st => preemptEnd (if e.st = 3 then b.modEntry x fun e => { e with st := 1, swapMarks := [] } else b) c x st
      | none =>
        if !bit (c.desc.u 20 1) 0 || e.st ≠ 3 then
          preemptEnd (if e.st = 3 then b.modEntry x fun e => { e with st := 4, swapMarks := [] } else b) c x .done else
        -- the image: header, shared pages, tables
        let shared := sharedPages b x
        let first := c.undo.headD 0
        let slots := c.notes ++ (shared.zip (List.range shared.length)).map fun p => (leafKey p.1.1 p.1.2.1, first + p.2)
        let total := first + shared.length
        let (tlen, tval) := tableBytes b x
        let bytes := 4096 + shared.length * m.pageBytes + tlen
        let b := modCmd b id fun c => { c with left := 2, pay := bytes }
        let out (b : Block) (addr len v : Nat) : Block := dmaWrites n (b.part n).mgrFunc addr (fun _ => .cmdOut n id 0) true (len / 512 + 1) len v b
        let b := out b host 4096 (Config.imageHeader (imageList b x slots) % 2 ^ 32768)
        let b := b.each (shared.zip (List.range shared.length)) fun b p =>
          out b (host + 4096 + (first + p.2) * m.pageBytes) m.pageBytes (b.memRead (frameMpa b n e.model (leafFrame p.1.2.2 p.1.2.1)) m.pageBytes)
        out b (host + 4096 + total * m.pageBytes) tlen tval
/-- A write of the image ends; with the last one the entry is released (R273), unless a RESUME has taken it back; where a write
failed, the entry stays swapped. -/
def imageDma (b : Block) (c : Cmd) (len : Nat) (st : Status) : Block :=
  let b := modCmd b c.id fun c => { c with pay := c.pay - len, bad := if st = .done then c.bad else some (c.bad.getD st) }
  match cmdOf b c.id with
  | some c =>
    if c.pay ≠ 0 then b else
    let x := c.desc.u 16 4 % 65536
    let mine := seqHeld b c && (b.entry x).st == 3
    match if (b.entry x).st = 6 then some .uncorrectable else c.bad with
    | some st => preemptEnd (if mine then b.modEntry x fun e => { e with st := 4 } else b) c x st
    | none => if mine then releaseEntry (preemptEnd b c x .done) x else preemptEnd b c x .done
  | none => b
def opPreempt (b : Block) (c : Cmd) : Block :=
  let r := c.desc
  let n := c.part
  let h := r.u 16 4
  let x := h % 65536
  let host := r.u 24 8
  let hlen := r.u 32 4
  let rel := bit (r.u 20 1) 0
  let e := b.entry x
  let m := b.model n e.model
  let priv := privatePages b x
  let shared := sharedPages b x
  let need := 4096 + priv.length * m.pageBytes + (if rel then shared.length * m.pageBytes + e.rootLen * 256 + e.tables.length * 256 else 0)
  seqChecked b c h false e.pageKeys [(!inAperture b n host hlen, .protection), (host % 64 != 0, .alignment),
    (!bodyOk r [(16, 5), (24, 12)] || !decide (r.u 20 1 < 2) || decide (hlen < need) || (e.st != 1 && e.st != 6), .descInvalid)] fun b =>
    if tgenBlocked b x then defer b c else
    let keys := priv.map fun p => leafKey p.1 p.2.1
    let b := bumpTgen (b.modEntry x fun e => { e with st := 3, swapMarks := keys }) x
    let b := modCmd b c.id fun c => { c with left := 1, wait := keys, notes := keys.zip (List.range keys.length), undo := [keys.length] }
    if !kwUp b && (rel || !keys.isEmpty) then
      match cmdOf b c.id with
      | some c => preemptEnd (b.modEntry x fun e => { e with st := 1, swapMarks := [] }) c x .linkDown
      | none => b
    else preemptPump b c.id
def execPreempt (n : Fin 16) (r : Rec) (s : State) : Out := act (ringCmd 0x47 opPreempt n r) s
/-- The command that swaps a page of an entry. -/
def swapCmd (b : Block) (x key op : Nat) : Option Cmd :=
  b.hub.cmds.find? fun c => c.op == op && c.st == .running && c.wait2.contains key && (c.desc.u 16 4 % 65536 == x || (c.undo.headD 65536 == x && op == 0x48))
/-- A write of a marked page ends with a failure: the page stays resident. -/
def swapFail (b : Block) (x key op : Nat) (st : Status) : Block :=
  match swapCmd b x key op with
  | some c => modCmd b c.id fun c => { c with bad := some (c.bad.getD st), commitsBad := key :: c.commitsBad }
  | none => b
/-- Every write of a page has been acknowledged: its leaf becomes swapped and its frame is freed (R272). Its score is kept for an image
only (R277). -/
def swapOutPage (n : Fin 16) (x : Fin 65536) (layer : Fin 1024) (page : Fin 65536) (b : Block) : Block :=
  let k := leafKey layer page
  match swapCmd b x k 0x47 with
  | none => b
  | some c =>
    if c.part ≠ n.val || pageDma b (pageUse n x layer page true) then b else
    let e := b.entry x
    let l := e.leaf layer page
    let f := b.frame n e.model l.frame
    let slot := ((c.notes.find? fun s => s.1 == k).map (·.2)).getD 0
    let failed := c.commitsBad.contains k
    let b := modCmd b c.id fun c => { c with wait2 := c.wait2.filter (· != k) }
    if !seqHeld b c then preemptPump b c.id else
    let unmark (b : Block) : Block := b.modEntry x fun e => { e with swapMarks := e.swapMarks.filter (· != k) }
    if failed || e.st ≠ 3 then preemptPump (trySeal (unmark b) x layer page) c.id else
    match setLeaf b x layer page { l with st := 2, frame := slot } with
    | none => preemptPump (modCmd (unmark b) c.id fun c => { c with bad := some (c.bad.getD .quota) }) c.id
    | some b =>
      let o : OpenRec := { open_ := f.open_, last := f.last, isSealed := f.isSealed, imported := f.imported,
                           fade := if bit (c.desc.u 20 1) 0 then f.fade else 0 }
      let b := b.modEntry x fun e => { e with opens := mset {} e.opens k o }
      let b := deref (b.modFrame n e.model l.frame fun y => { y with open_ := none }) n e.model l.frame
      let b := modCmd (ledCount b n 8) c.id fun c => { c with result := c.result + 1 }
      preemptPump (unmark b) c.id
def execSwapOutPage (n : Fin 16) (x : Fin 65536) (layer : Fin 1024) (page : Fin 65536) (s : State) : Out := act (swapOutPage n x layer page) s

/-! RESUME (R275, R276). -/
/-- Ends a RESUME when no page is on its way. -/
def resumePump (b : Block) (id : Nat) : Block :=
  match cmdOf b id with
  | none => b
  | some c =>
    if c.st ≠ .running || c.left ≠ 1 || !c.wait2.isEmpty then b else
    let x := c.undo.headD 0
    let out := (b.entry x).pages.countP fun p => p.2.2.st == 2
    let st := if (b.entry x).st = 6 then .uncorrectable else c.bad.getD .done
    let h := if bit (c.desc.u 20 1) 0 then handleOf b x else c.desc.u 16 4
    let b := b.modEntry x fun e => { e with st := if e.st = 5 then (if out = 0 then 1 else 4) else e.st }
    let b := event b c.part 0x0502 st 0 chipLoc (detail [(16, 4, h), (20, 4, c.result), (24, 4, out)])
    finish (if st = .quota then ledCount b c.part 3 else b) id st h
/-- Gives every swapped page a frame and queues its reads; a page that gets none stays swapped. -/
def resumeStart (b : Block) (c : Cmd) (x : Nat) (keys : List Nat) : Block :=
  let n := c.part
  let e := b.entry x
  let m := b.model n e.model
  let host := c.desc.u 24 8
  let b := modCmd b c.id fun c => { c with left := 1, undo := [x, e.model] }
  let b := b.each keys fun b k =>
    let slot := (e.leaf (k / 65536) (k % 65536)).frame
    match allocFrames b n e.model x (k % 65536) 1 with
    | none => modCmd b c.id fun c => { c with bad := some (c.bad.getD .quota) }
    | some (f, b) =>
      let b := modCmd b c.id fun c => { c with wait2 := c.wait2 ++ [k], notes := c.notes ++ [(k, f)] }
      pageReads n (b.part n).mgrFunc (host + 4096 + slot * m.pageBytes) (frameMpa b n e.model f)
        (fun _ => pageUse n x (k / 65536) (k % 65536) false) (m.pageBytes / 4096 + 1) m.pageBytes b
  resumePump b c.id
/-- Pages that parked walks wait for, in the order they parked. -/
def parkedKeys (b : Block) (x : Nat) : List Nat :=
  let all := b.cells.flatMap fun k => match k.2.run with
    | none => []
    | some r => r.items.filterMap fun i => match i.walk with
      | some w => if w.entry = x ∧ w.handle = (b.entry x).gen ∧ (i.st = .parked ∨ i.st = .waiting) then some (i.parkAt, leafKey w.layer i.page) else none
      | none => none
  (all.mergeSort fun a c => decide (a.1 ≤ c.1)).map (·.2)
/-- Rebuilds an entry from an image header (R276). -/
def imageEntry (b : Block) (c : Cmd) (l : List Nat) : Except Status (Nat × List Nat × Block) :=
  let n := c.part
  let g (i : Nat) : Nat := l.getD i 0
  let m := b.model n (g 0)
  let pfx := g 9
  let py := pfx % 65536
  if !m.defined || m.poolPages = 0 || !lenCapOk (g 4) || (pfx ≠ 0xFFFFFFFF && ((seqCheck b n pfx).isSome || (b.entry py).st ≠ 2)) then .error .descInvalid
  else if ledFull b n then .error .ledgerFull
  else match takeEntry b n { st := 5, model := g 0, compactOk := g 1 == 1, sink := g 2, recent := g 3, lenCap := g 4, reserved := g 5, qrot := g 6,
                             krot := g 7, dest := g 8, pfx := pfx, forkAt := g 10 } with
    | none => .error .quota
    | some (x, b) =>
      let b := b.modEntry x fun e => { e with lens := (List.range m.layers).foldl (fun a i => mset 0 a i (g (11 + i))) [] }
      let rest := l.drop (11 + m.layers)
      let r := (List.range (rest.length / 27)).foldl (fun (a : Option (List Nat × Block)) i => a.bind fun (keys, b) =>
        let q (j : Nat) : Nat := rest.getD (27 * i + j) 0
        let layer := q 0 / 65536
        let page := q 0 % 65536
        if q 2 = 3 then
          -- a piece of the prefix's extent, by reference
          let pl := (b.entry py).leaf layer page
          let new := !(b.entry x).exts.contains (pl.frame, pl.ext)
          let b := if new then (b.each (List.range (2 ^ (pl.ext + 1))) fun b j => b.modFrame n (g 0) (pl.frame + j) fun f => { f with ref := f.ref + 1 }).modEntry x
            (fun e => { e with exts := e.exts ++ [(pl.frame, pl.ext)] }) else b
          (setLeaf b x layer page pl).map fun b => (keys, b)
        else
          let blk := if q 7 = 1 then allocBlocks b n 1 else some (0, b)
          blk.bind fun (s, b) =>
            let parts : Map Nat := (List.range 16).foldl (fun a j => mset 0 a j (q (11 + j))) []
            let o : OpenRec := { open_ := if q 7 = 1 then some { parts := parts, block := s } else none, last := q 4, isSealed := q 5 == 1, fade := q 6, imported := q 10 == 1 }
            (setLeaf (b.modEntry x fun e => { e with opens := mset {} e.opens (q 0) o, pends := mset (0, 0) e.pends (q 0) (q 8, q 9) }) x layer page { frame := q 1, st := 2, unrot := q 3 == 1 }).map
              fun b => (keys ++ [q 0], b)) (some ([], b))
      match r with
      | none => .error .quota
      | some (keys, b) => .ok (x, keys, bumpTgen b x)
/-- A RESUME with IMAGE whose header could not be read: it has no handle to report, a free value (R282). -/
def imageFail (b : Block) (c : Cmd) (st : Status) : Block :=
  let (v, b) := b.draw
  finish (event b c.part 0x0502 st 0 chipLoc (detail [(16, 4, v % 2 ^ 32)])) c.id st
def opResume (b : Block) (c : Cmd) : Block :=
  let r := c.desc
  let n := c.part
  let h := r.u 16 4
  let x := h % 65536
  let host := r.u 24 8
  let img := bit (r.u 20 1) 0
  let e := b.entry x
  let m := b.model n e.model
  let swapped := e.pages.filter fun p => p.2.2.st == 2
  let form := bodyOk r [(16, 5), (24, 8)] && decide (r.u 20 1 < 2)
  if img then
    ledChecked b c [(!inAperture b n host 4096, .protection), (host % 64 != 0, .alignment), (!form || h != 0xFFFFFFFF, .descInvalid), (ledFull b n, .ledgerFull)] fun b =>
      if !kwUp b then imageFail b c .linkDown else
      dmaPush (modCmd b c.id fun c => { c with left := 3 })
        { part := n, write := false, func := (b.part n).mgrFunc, addr := host, len := 4096, data := 0, use := .cmdIn n c.id 0, bulk := true }
  else
    let slots := swapped.foldl (fun a p => max a (p.2.2.frame + 1)) 0
    seqChecked b c h false e.pageKeys [(!inAperture b n host (4096 + slots * m.pageBytes), .protection), (host % 64 != 0, .alignment),
      (!form || (e.st != 3 && e.st != 4 && e.st != 6) || (e.st != 6 && !swapped.isEmpty && m.poolPages == 0), .descInvalid)] fun b =>
      if tgenBlocked b x then defer b c else
      let keys := swapped.map fun p => leafKey p.1 p.2.1
      let parked := (parkedKeys b x).filter keys.contains |>.eraseDups
      let order := parked ++ keys.filter fun k => !parked.contains k
      -- pages a PREEMPT in progress has marked and not written stay resident
      let old := b.hub.cmds.filter fun d => d.op == 0x47 && d.st == .running && d.left == 1 && d.desc.u 16 4 % 65536 == x
      let b := bumpTgen (b.modEntry x fun e => { e with st := 5, swapMarks := [] }) x
      let b := b.each e.swapMarks fun b k => trySeal b x (k / 65536) (k % 65536)
      let b := b.each old fun b d => preemptPump (modCmd b d.id fun d => { d with wait := [] }) d.id
      if !kwUp b && !order.isEmpty then resumePump (modCmd b c.id fun c => { c with left := 1, undo := [x, e.model], bad := some .linkDown }) c.id
      else resumeStart b c x order
def execResume (n : Fin 16) (r : Rec) (s : State) : Out := act (ringCmd 0x48 opResume n r) s
/-- The image header has been read: the entry is admitted and its pages follow. -/
def headerDma (b : Block) (c : Cmd) (data : Nat) (st : Status) : Block :=
  if st ≠ .done then imageFail b c st else
  match imageEntry b c (Config.imageParse data) with
  | .error .ledgerFull => finish (ledCount b c.part 2) c.id .ledgerFull
  | .error .quota => ledQuotaEnd b c
  | .error st => finish b c.id st
  | .ok (x, keys, b') =>
    let e := b'.entry x
    let slots := keys.foldl (fun a k => max a ((e.leaf (k / 65536) (k % 65536)).frame + 1)) 0
    if !inAperture b c.part (c.desc.u 24 8) (4096 + slots * (b.model c.part e.model).pageBytes) then finish b c.id .protection
    else resumeStart b' c x keys
/-- A read of a page of a RESUME ends: its bytes land in the page's frame. -/
def swapInDma (b : Block) (n x layer page addr len data : Nat) (st : Status) : Block :=
  let k := leafKey layer page
  match swapCmd b x k 0x48 with
  | none => b
  | some c =>
    if st ≠ .done then swapFail b x k 0x48 st else
    let e := b.entry x
    let m := b.model n e.model
    let slot := (e.leaf layer page).frame
    let f := ((c.notes.find? fun s => s.1 == k).map (·.2)).getD 0
    b.memWrite (frameMpa b n e.model f + (addr - (c.desc.u 24 8 + 4096 + slot * m.pageBytes))) len data
/-- Every read of a page has ended: its leaf becomes resident, in a shadow where a live walk has latched it, and its recorded seal
commits if it can (R254, R275). Without a block for the shadow the page stays swapped. -/
def swapInPage (n : Fin 16) (x : Fin 65536) (layer : Fin 1024) (page : Fin 65536) (b : Block) : Block :=
  let k := leafKey layer page
  match swapCmd b x k 0x48 with
  | none => b
  | some c =>
    if c.part ≠ n.val || pageDma b (pageUse n x layer page false) then b else
    let e := b.entry x
    let l := e.leaf layer page
    let f := ((c.notes.find? fun s => s.1 == k).map (·.2)).getD 0
    let b := modCmd b c.id fun c => { c with wait2 := c.wait2.filter (· != k) }
    if e.st ≠ 5 then resumePump (deref b n (c.undo.getD 1 0) f) c.id else
    if c.commitsBad.contains k then resumePump (deref b n e.model f) c.id else
    match setLeaf b x layer page { l with st := 1, frame := f } with
    | none => resumePump (modCmd (deref b n e.model f) c.id fun c => { c with bad := some (c.bad.getD .quota) }) c.id
    | some b =>
    let o := mget {} e.opens k
    let b := b.modFrame n e.model f fun y => { y with open_ := o.open_, last := o.last, isSealed := o.isSealed, imported := o.imported,
                                                      fade := if bit (c.desc.u 20 1) 0 then o.fade else 0 }
    let b := b.modEntry x fun e => { e with opens := mset {} e.opens k {} }
    let b := walksResident b n e.model x layer page f
    let b := modCmd (ledCount b n 9) c.id fun c => { c with result := c.result + 1 }
    resumePump (trySeal b x layer page) c.id
def execSwapInPage (n : Fin 16) (x : Fin 65536) (layer : Fin 1024) (page : Fin 65536) (s : State) : Out := act (swapInPage n x layer page) s

/-! COMPACT (R278). -/
/-- The pages of a layer that COMPACT may drop, their scores below a threshold. -/
def compactPages (b : Block) (x layer thr : Nat) : List Nat :=
  let e := b.entry x
  let below := e.pages.filter fun p => p.1 == layer && decide (16 * p.2.1 < e.len layer) && p.2.2.st != 0
  let recent := (below.map (·.2.1)).reverse.take e.recent
  (below.filter fun p =>
    let f := b.frame e.owner e.model p.2.2.frame
    p.2.2.st == 1 && f.isSealed && decide (e.sink ≤ p.2.1) && !recent.contains p.2.1 && decide (sx 64 f.fade < sx 64 thr)).map (·.2.1)
/-- Drops the pages that nothing pins; the command ends when none waits. A page whose sequence has been released, or that has left
memory meanwhile, is passed over. -/
def compactPump (b : Block) (id : Nat) : Block :=
  match cmdOf b id with
  | none => b
  | some c =>
    if c.st ≠ .running || c.left ≠ 1 then b else
    let n := c.part
    let x := c.desc.u 16 4 % 65536
    let b := b.each c.wait fun b k =>
      let e := b.entry x
      let l := e.leaf (k / 65536) (k % 65536)
      let f := b.frame n e.model l.frame
      let done (b : Block) : Block := modCmd b id fun c => { c with wait := c.wait.filter (· != k) }
      if !seqHeld b c || l.st ≠ 1 then done b
      else if f.pins ≠ 0 ∨ f.remit ≠ 0 then b
      else match setLeaf b x (k / 65536) (k % 65536) {} with
        | none => modCmd (done b) id fun c => { c with bad := some .quota }
        | some b => modCmd (done (ledCount (deref b n e.model l.frame) n 10)) id fun c => { c with result := c.result + 1 }
    match cmdOf b id with
    | none => b
    | some c =>
      if !c.wait.isEmpty then b else
      let st := c.bad.getD .done
      let b := if st = .done then
          event b n 0x0504 .done 0 chipLoc (detail [(16, 4, c.desc.u 16 4), (20, 4, c.result), (24, 4, c.pay)]) else b
      finish (if st = .quota then ledCount b n 3 else b) id st c.result
def opCompact (b : Block) (c : Cmd) : Block :=
  let r := c.desc
  let n := c.part
  let h := r.u 16 4
  let x := h % 65536
  let e := b.entry x
  seqChecked b c h false e.pageKeys [(!bodyOk r [(16, 4), (24, 8)] || (e.st != 6 && (!e.compactOk || e.st != 1)), .descInvalid)] fun b =>
    if tgenBlocked b x then defer b c else
    let keys := (List.range (b.model n e.model).layers).flatMap fun i => (compactPages b x i (r.u 24 8)).map (leafKey i)
    let pinned := keys.countP fun k => let f := b.frame n e.model (e.leaf (k / 65536) (k % 65536)).frame; f.pins != 0 || f.remit != 0
    let b := modCmd (if keys.isEmpty then b else bumpTgen b x) c.id fun c => { c with left := 1, wait := keys, pay := pinned }
    compactPump (if pinned = 0 then b else ledCount b n 11 pinned) c.id
def execCompact (n : Fin 16) (r : Rec) (s : State) : Out := act (ringCmd 0x49 opCompact n r) s

/-! RELEASE (R280, R281). -/
/-- Fences the frames behind the damaged words of a failed entry from reuse: the word of the root entry, of the leaf entry, of the
frame record or of the open page record. -/
def fenceFrames (b : Block) (x : Nat) : Block :=
  let e := b.entry x
  let n := e.owner
  let pool := (b.part n).poolMpa
  let m := b.model n e.model
  b.each e.pages fun b p =>
    let l := p.2.2
    let f := leafFrame l p.2.1
    let t := mget 0 e.tables (tableKey p.1 p.2.1)
    let bad := memBad b (pool + 256 * e.root + 4 * (p.1 * (1 + cdiv e.lenCap 1024) + 1 + p.2.1 / 64)) 4 ||
      (t != 0 && memBad b (pool + 256 * (t - 1) + 4 * (p.2.1 % 64)) 4) || memBad b (pool + 256 * m.recBlock + 16 * f) 16 ||
      (match (b.frame n e.model f).open_ with | some o => blockBad b n o.block 256 | none => false)
    if (l.st = 1 ∨ l.st = 3) ∧ bad then b.modFrame n e.model f fun f => { f with zombie := true } else b
def opRelease (b : Block) (c : Cmd) : Block :=
  let h := c.desc.u 16 4
  let x := h % 65536
  let sq := seqCheck b c.part h
  let e := b.entry x
  ledChecked b c [(sq == some .protection, .protection), (sq.isSome || !bodyOk c.desc [(16, 4)], .descInvalid)] fun b =>
    if e.st = 3 ∨ e.st = 5 then defer b c else
    finish (releaseEntry (if e.st = 6 then fenceFrames b x else b) x) c.id .done
def execRelease (n : Fin 16) (r : Rec) (s : State) : Out := act (ringCmd 0x4A opRelease n r) s

/-! Deferred work (R224, R253, R272, R278, R280). -/
/-- Tries a held-up ledger command again. -/
def retryLed (b : Block) (c : Cmd) : Block :=
  let b := modCmd b c.id fun c => { c with left := 0 }
  match c.op with
  | 0x43 => opReserve b c
  | 0x47 => opPreempt b c
  | 0x48 => opResume b c
  | 0x49 => opCompact b c
  | 0x4A => opRelease b c
  | _ => b
/-- The end of pins carries out what waits for it: swap-outs, drops, and commands held up by a walk or by a command. -/
def pinEnd (n : Fin 16) (b : Block) : Block :=
  let mine := b.hub.cmds.filter fun c => c.part == n.val && c.st == .running
  b.each mine fun b c =>
    if c.left = 99 then retryLed b c
    else if c.op = 0x47 then preemptPump b c.id
    else if c.op = 0x49 then compactPump b c.id
    else b
def execPinEnd (n : Fin 16) (s : State) : Out := act (pinEnd n) s

end Sys2Proof.Machine
end

