-- ==== Sys2Proof/Machine/Sessions.lean ====
section
/-!
DEFINITION. Machine/Sessions.lean: program images, their placement, batches and runs (spec 03, 10).
-/
namespace Sys2Proof.Machine

/-! Program images (R284, R93). -/
/-- Bytes `off` to `off + n - 1` of an image. -/
def ib (raw off n : Nat) : Nat := bits raw (8 * off) (8 * n)
def pad64 (n : Nat) : Nat := (n + 63) / 64 * 64
/-- The parts of an image by offset: bucket table, cell sections, buffers, regions, groups, code. -/
structure ImgParts where
  buckets : Nat
  secs : Nat
  bufs : Nat
  regs : Nat
  groups : Nat
  code : Nat
def imgParts (raw : Nat) : ImgParts :=
  let p1 := 64 + pad64 (16 * ib raw 10 1)
  let p2 := p1 + pad64 (64 * ib raw 2 2)
  let p3 := p2 + pad64 (16 * ib raw 4 2)
  let p4 := p3 + pad64 (32 * ib raw 6 2)
  ⟨64, p1, p2, p3, p4, p4 + pad64 (16 * ib raw 8 2)⟩
/-- A cell section with the offset of its code image. -/
structure ImgSec where
  raw : Nat
  code : Nat
def ImgSec.lcell (s : ImgSec) : Nat := ib s.raw 0 2
def ImgSec.count (s : ImgSec) : Nat := ib s.raw 2 2
def ImgSec.units (s : ImgSec) : Nat := ib s.raw 4 1
def ImgSec.mask (s : ImgSec) (t : Nat) : Nat := ib s.raw (8 + t) 1
def ImgSec.pc (s : ImgSec) (t : Nat) : Nat := ib s.raw (16 + 2 * t) 2
def imgSecs (raw : Nat) : List ImgSec :=
  let p := imgParts raw
  ((List.range (ib raw 2 2)).foldl (fun (a : List ImgSec × Nat) i =>
    let s := ib raw (p.secs + 64 * i) 64
    (a.1 ++ [⟨s, a.2⟩], a.2 + pad64 (8 * ib s 2 2))) ([], p.code)).1
def imgRecs (raw off size n : Nat) : List Nat := (List.range n).map fun i => ib raw (off + size * i) size
def imgBufs (raw : Nat) : List Nat := imgRecs raw (imgParts raw).bufs 16 (ib raw 4 2)
def imgRegs (raw : Nat) : List Nat := imgRecs raw (imgParts raw).regs 32 (ib raw 6 2)
def imgGroups (raw : Nat) : List Nat := imgRecs raw (imgParts raw).groups 16 (ib raw 8 2)
def imgBuckets (raw : Nat) : List Nat := imgRecs raw 64 16 (ib raw 10 1)
/-- Whether the padding after a part is zero. -/
def padZero (raw at_ len : Nat) : Bool := ib raw (at_ + len) (pad64 len - len) == 0
/-- Header checks of R284 and R285. -/
def imgHeaderOk (b : Block) (n raw len : Nat) : Bool :=
  ib raw 0 2 == 1 && decide (1 ≤ ib raw 2 2 ∧ ib raw 2 2 ≤ 800 ∧ ib raw 6 2 ≤ 4096 ∧ ib raw 8 2 ≤ 800 ∧ 1 ≤ ib raw 10 1 ∧ ib raw 10 1 ≤ 16) &&
  decide (ib raw 11 1 < 8) && (b.model n (ib raw 11 1)).defined && decide (1 ≤ ib raw 12 1 ∧ ib raw 12 1 ≤ 16 ∧ 1 ≤ ib raw 13 1 ∧ ib raw 13 1 * ib raw 12 1 ≤ 128) &&
  decide (1 ≤ ib raw 16 4 ∧ ib raw 16 4 ≤ 65536) && ib raw 22 2 % 2 == 0 && decide (ib raw 20 2 + ib raw 22 2 ≤ (b.part n).tallyQuota) &&
  ib raw 24 4 == len && ib raw 14 2 == 0 && ib raw 28 36 == 0
/-- Layout: paddings, the buckets in ascending order, the image's length. -/
def imgLayoutOk (raw len : Nat) : Bool :=
  let p := imgParts raw
  let secs := imgSecs raw
  let bk := imgBuckets raw
  let last := secs.getLast?.map (fun s => s.code + pad64 (8 * s.count)) |>.getD p.code
  last == len && padZero raw 64 (16 * ib raw 10 1) && padZero raw p.bufs (16 * ib raw 4 2) && padZero raw p.regs (32 * ib raw 6 2) &&
  padZero raw p.groups (16 * ib raw 8 2) && secs.all (fun s => padZero raw s.code (8 * s.count)) &&
  bk.all (fun x => decide (16 ≤ ib x 0 4 ∧ ib x 0 4 ≤ 1048576 ∧ 1 ≤ ib x 4 4 ∧ ib x 4 4 ≤ 16384) && ib x 8 8 == 0) &&
  (bk.zip (bk.drop 1)).all fun x => decide (ib x.1 0 4 < ib x.2 0 4)
/-- R93's checks of a cell section's header (R63, R547). -/
def ImgSec.ok (s : ImgSec) : Bool :=
  decide (s.lcell < 800 ∧ 1 ≤ s.count ∧ s.count ≤ 32768 ∧ 1 ≤ s.units ∧ s.units ≤ 16 ∧ cdiv (8 * s.count) 16384 ≤ s.units) && ib s.raw 6 2 == 0 &&
  (List.range 8).all (fun t => (List.range t).all (fun u => Nat.land (s.mask t) (s.mask u) == 0) && decide (s.pc t < s.count)) &&
  decide (ib s.raw 32 4 < 1048576) && ib s.raw 36 28 == 0
/-- The first cell section that fails (R547): logical cell, index, check. -/
def secBad (raw : Nat) (s : ImgSec) : Option (Nat × Nat × Nat) :=
  if !s.ok then some (s.lcell, 0xFFFF, 0) else
    let code (i : Nat) : Nat := ib raw (s.code + 8 * i) 8
    ((List.range s.count).find? fun i => loadCheck code s.count i != 0).map fun i => (s.lcell, i, loadCheck code s.count i)
/-- Buffer, region and group checks (R284, R285). -/
def imgDeclsOk (raw : Nat) : Bool :=
  let lcs := (imgSecs raw).map ImgSec.lcell
  let bufs := imgBufs raw
  let role (x : Nat) : Nat := bits (ib x 3 1) 1 2
  let bufOk (x : Nat) : Bool :=
    let w := bit (ib x 3 1) 0
    lcs.contains (ib x 0 2) && decide (ib x 3 1 < 8) && ib x 4 4 % (if w then 4096 else 64) == 0 &&
    (ib x 8 2 == 0xFFFF || (decide (ib x 8 2 < 4096) && ib x 8 2 % 64 == 0 && (!w || ib x 8 2 == 0))) && ib x 10 6 == 0
  let names := bufs.map fun x => ib x 0 2 * 256 + ib x 2 1
  let roles (lc : Nat) : List Nat := bufs.filter fun x => ib x 0 2 == lc && role x != 0
  let cellOk (lc : Nat) : Bool := match roles lc with
    | [] => true
    | l => l.length == 3 && [1, 2, 3].all (fun k => l.any fun x => role x == k) &&
      l.all fun x => (role x != 2 || decide (16 * ib raw 16 4 ≤ ib x 4 4)) && (role x != 1 || decide (128 ≤ ib x 4 4))
  let regs := imgRegs raw
  let regOk (x : Nat) : Bool := ib x 0 8 % 2 ^ 21 == 0 && decide (1 ≤ ib x 8 4 ∧ ib x 0 8 + ib x 8 4 * 2 ^ 21 ≤ 2 ^ 40) && decide (ib x 12 1 < 16) &&
    decide (ib x 12 1 % 4 < 3) && decide (ib x 13 1 < 16) && decide (ib x 14 2 + ib x 16 2 ≤ 800) && ib x 18 14 == 0
  let apart := (List.range regs.length).all fun i => (List.range i).all fun j =>
    let x := regs.getD i 0
    let y := regs.getD j 0
    decide (ib x 0 8 + ib x 8 4 * 2 ^ 21 ≤ ib y 0 8) || decide (ib y 0 8 + ib y 8 4 * 2 ^ 21 ≤ ib x 0 8)
  let grpOk (x : Nat) : Bool :=
    let k := ib x 0 1
    decide (1 ≤ k ∧ k ≤ 3 ∧ 1 ≤ ib x 4 2 ∧ ib x 4 2 ≤ (if k = 1 then 8 else if k = 2 then 40 else 800) ∧ ib x 2 2 + ib x 4 2 ≤ 800) &&
    ib x 1 1 == 0 && ib x 6 2 == 0 && ib x 12 4 == 0 && (if k = 3 then decide (ib x 8 4 < 2 ^ 20) else ib x 8 4 == 0)
  lcs.eraseDups.length == lcs.length && bufs.all bufOk && names.eraseDups.length == names.length && lcs.all cellOk && regs.all regOk && apart && (imgGroups raw).all grpOk

/-! Placement at load (R286 to R288). -/
/-- A placement failure: PLACE_FAIL's KIND and INDEX, and the status. -/
abbrev Placed (α : Type) := Except (Nat × Nat × Status) α
/-- Binds the groups, in declaration order. The pairs are (logical, physical). -/
def placeGroups (phys : List Nat) : List (Nat × Nat) → List (Nat × Nat) → Placed (List (Nat × Nat))
  | [], m => .ok m
  | (i, g) :: rest, m =>
    let lcs := (List.range (ib g 4 2)).map (ib g 2 2 + ·)
    let free := phys.filter fun p => !(m.any fun x => x.2 == p)
    let unit := if ib g 0 1 = 1 then 8 else 40
    let pick : Option (List Nat) :=
      if ib g 0 1 = 3 then
        let c := free.filter fun p => bit (ib g 8 4) (p / 40)
        if lcs.length ≤ c.length then some c else none
      else ((List.range 100).map fun u => free.filter fun p => p / unit == u).find? fun c => decide (lcs.length ≤ c.length)
    if lcs.any fun l => m.any fun x => x.1 == l then .error (1, i, .descInvalid)
    else match pick with
      | none => .error (1, i, .descInvalid)
      | some c => placeGroups phys rest (m ++ lcs.zip c)
/-- Logical cells in no group take the lowest free cells. -/
def placeRest (phys : List Nat) : List (Nat × Nat) → List (Nat × Nat) → Placed (List (Nat × Nat))
  | [], m => .ok m
  | (i, l) :: rest, m =>
    if m.any fun x => x.1 == l then placeRest phys rest m else
    match phys.find? fun p => !(m.any fun x => x.2 == p) with
    | none => .error (1, i, .descInvalid)
    | some p => placeRest phys rest (m ++ [(l, p)])
/-- Buffers of every cell in declaration order: BASE of each (R287). -/
def placeBufs (secs : List ImgSec) : List (Nat × Nat) → List (Nat × Nat) → List Nat → Placed (List Nat)
  | [], _, out => .ok out
  | (i, x) :: rest, ends, out =>
    let lc := ib x 0 2
    let al := if bit (ib x 3 1) 0 then 4096 else 64
    let from_ := ((ends.find? fun e => e.1 == lc).map (·.2)).getD 0
    let base := cdiv from_ al * al
    let base := if ib x 8 2 = 0xFFFF then base else base + (ib x 8 2 + 4096 - base % 4096) % 4096
    let top := storeBytes - 16384 * ((secs.find? fun s => s.lcell == lc).map ImgSec.units).getD 0
    if top < base + ib x 4 4 then .error (2, i, .descInvalid)
    else placeBufs secs rest ((lc, base + ib x 4 4) :: ends.filter fun e => e.1 != lc) (out ++ [base])
/-- Grid position of a die (R16). -/
def dieGrid : List Nat := [20, 0, 1, 2, 21, 3, 4, 5, 6, 7, 8, 9, 24, 10, 11, 12, 13, 14, 15, 16, 22, 17, 18, 19, 23]
def crossings (r s : Nat) : Nat :=
  let a := dieGrid.idxOf r
  let c := dieGrid.idxOf s
  (a / 5 - c / 5) + (c / 5 - a / 5) + (a % 5 - c % 5) + (c % 5 - a % 5)
/-- The E-dies by distance from some regions, ties to the lower. -/
def nearDies (regions : List Nat) (cand : List Nat) : List Nat :=
  cand.mergeSort fun x y => decide ((regions.map (crossings · (20 + x))).sum ≤ (regions.map (crossings · (20 + y))).sum)
/-- Pages of one region; `free` holds the free pages left on each E-die. -/
def placePages (i vpn acc : Nat) (cand : List Nat) (near : Bool) : Nat → Nat → List (List Nat) → List (Nat × Nat × Nat) → Placed (List (List Nat) × List (Nat × Nat × Nat))
  | _, 0, free, out => .ok (free, out)
  | k, left + 1, free, out =>
    let order := if near then cand else (List.range cand.length).map fun j => cand.getD ((k + j) % max 1 cand.length) 0
    match order.find? fun e => !(free.getD e []).isEmpty with
    | none => .error (3, i, .quota)
    | some e => placePages i vpn acc cand near (k + 1) left (free.set e ((free.getD e []).drop 1)) (out ++ [(vpn + k, acc, (free.getD e []).headD 0)])
/-- Regions in declaration order: (VPN, ACCESS, page). -/
def placeRegs (b : Block) (n : Nat) (m : List (Nat × Nat)) : List (Nat × Nat) → List (List Nat) → List (Nat × Nat × Nat) → Placed (List (Nat × Nat × Nat))
  | [], _, out => .ok out
  | (i, x) :: rest, free, out =>
    let cand := (List.range 4).filter fun e => ib x 13 1 == 0 || bit (ib x 13 1) e
    let near := ib x 16 2 != 0
    let regions := ((m.filter fun y => decide (ib x 14 2 ≤ y.1 ∧ y.1 < ib x 14 2 + ib x 16 2)).map fun y => y.2 / 40).eraseDups
    let cand := if near then nearDies regions cand else cand
    let vpn := ib x 0 8 / 2 ^ 21
    if (List.range (ib x 8 4)).any fun j => mttV (mttEntry b n (vpn + j)) then .error (3, i, .descInvalid)
    else if (b.part n).pageQuota < usedPages b n + out.length + ib x 8 4 then .error (3, i, .quota)
    else match placePages i vpn (ib x 12 1) cand near 0 (ib x 8 4) free out with
      | .error e => .error e
      | .ok (free, out) => placeRegs b n m rest free out
/-- Everything that the Clearing unit chooses for an image: the cell map, the buffers' bases, the regions' pages. -/
def placeImage (b : Block) (n raw : Nat) : Placed (List (Nat × Nat) × List Nat × List (Nat × Nat × Nat)) := do
  let secs := imgSecs raw
  let num {α : Type} (l : List α) : List (Nat × α) := (List.range l.length).zip l
  let phys := partCells b n
  let m ← placeGroups phys (num (imgGroups raw)) []
  let m ← placeRest phys ((num (secs.map ImgSec.lcell)).mergeSort fun x y => decide (x.2 ≤ y.2)) m
  let bases ← placeBufs secs (num (imgBufs raw)) [] []
  let regs := imgRegs raw
  let total := (regs.map fun x => ib x 8 4).sum
  let pages ← placeRegs b n m (num regs) (if total = 0 then [[], [], [], []] else (List.range 4).map fun e => freePages b e total) []
  pure (m, bases, pages)

/-! PROG_LOAD and PROG_UNLOAD (R93, R97, R283). -/
def clearCount (b : Block) (n k : Nat) (a : Nat := 1) : Block := b.count (0xC7F54800 + 0x80 * n + 8 * k) a
def placeFail (b : Block) (n kind idx : Nat) (st : Status) : Block :=
  b.modPart n fun p => { p with placeFail := { kind := kind, index := idx % 65536, status := st.code, valid := true } }
/-- Where the code copy of a physical cell lies (R97): 256 KiB in pages 256 and up of its nearest E-die. -/
def codeCopyAt (k : Nat) : Nat := (nearDies [k / 40] [0, 1, 2, 3]).headD 0 * 2 ^ 38 + 2 ^ 29 + k * 2 ^ 18
/-- One cell as a load leaves it: stopped, its registers, tiles, tags and ranges zeroed, its tables written, and its code in the
whole code area and in the code copy, followed by zeros (DEDUCED, log entry 91). -/
def loadCell (b : Block) (n raw : Nat) (s : ImgSec) (k : Nat) (bufs : List (Nat × Nat)) : Block :=
  let code := ib raw s.code (8 * s.count)
  let table : Map Buf := (bufs.filter fun x => ib x.1 0 2 == s.lcell).foldl (fun m x =>
    mset {} m (ib x.1 2 1) { base := x.2, len := ib x.1 4 4, weight := bit (ib x.1 3 1) 0, valid := true }) []
  let thr : Map Thread := (List.range 8).foldl (fun m t => mset {} m t { accMask := BitVec.ofNat 8 (s.mask t) }) []
  let b := coinReturn (b.modHub fun h => { h with watches := h.watches.filter fun w => w.cell != k }) k
  let b := b.modCell k fun c =>
    let c := { c with thr := thr, acc := [], bufs := table, codeKib := 16 * s.units, codeCount := s.count, startMask := ib s.raw 5 1,
                      startPc := (List.range 8).foldl (fun m t => mset 0 m t (s.pc t)) [], loaded := true, loadedAt := b.cycles,
                      waitLimit := ib s.raw 32 4, lcell := s.lcell, part := n, tags := [], coal := [], ranges := [] }
    let c := { c with refetch := [], refetching := [], refetchFailed := [], met := [], reload := [], inject := none, bankq := [], inb := {}, outb := {},
                      xlate := [], arrq := [], run := none, arrFault := {}, zeroTiles := [], cnt := [], inRun := false, runFlags := 0 }
    c.put c.codeBase (16384 * s.units) code
  b.memWrite (codeCopyAt k) (16384 * s.units) code
/-- PROG_LOAD. The header and the layout are checked before the code (R69): an image that breaks both is refused without
LOAD_REFUSED (DESIGN CHOICE, log entry 92: no rule orders the two, which end with the same status). -/
def opProgLoad (b : Block) (c : Cmd) : Block :=
  let r := c.desc
  let n := c.part
  let ia := r.u 16 8
  let len := r.u 24 4
  let checks := [(!pvaOk b n .hubRead0 ia len, Status.protection), (ia % 64 != 0, .alignment),
    (!bodyOk r [(16, 12)] || (b.part n).image.isSome || decide (len < 64), .descInvalid)]
  checked b c checks fun b =>
    match pvaCheck b n .hubRead0 ia len with
    | (true, b) => finish b c.id .uncorrectable
    | (false, b) =>
      let raw := pvaRead b n .hubRead0 ia (pvaFuel len) len
      if !imgHeaderOk b n raw len || !imgLayoutOk raw len then finish b c.id .descInvalid else
      match (imgSecs raw).findSome? (secBad raw) with
      | some (lc, i, chk) =>
        finish (event b n 0x0104 .descInvalid 0 chipLoc (detail [(16, 2, lc), (18, 2, i), (20, 1, chk)])) c.id .descInvalid
      | none =>
        if !imgDeclsOk raw then finish b c.id .descInvalid else
        match placeImage b n raw with
        | .error (kind, i, st) => finish (placeFail b n kind i st) c.id st
        | .ok (m, bases, pages) =>
          let secs := imgSecs raw
          let bufs := (imgBufs raw).zip bases
          let physOf (lc : Nat) : Nat := ((m.find? fun x => x.1 == lc).map (·.2)).getD 0
          let cells := secs.map fun s => (s.lcell, physOf s.lcell)
          let b := b.modPart n fun p => { p with cellMap := m.foldl (fun a x => mset 0 a x.1 (x.2 + 1)) [] }
          let b := b.each secs fun b s => loadCell b n raw s (physOf s.lcell) bufs
          let b := b.each pages fun b x => mapPage b n x.1 x.2.1 x.2.2
          let attn := (cells.mergeSort fun x y => decide (x.1 ≤ y.1)).filterMap fun x =>
            let of_ (role : Nat) : Option Nat := ((imgBufs raw).find? fun y => ib y 0 2 == x.1 && bits (ib y 3 1) 1 2 == role).map fun y => ib y 2 1
            match of_ 1, of_ 2, of_ 3 with
            | some wl, some rm, some ma => some { lcell := x.1, wl := wl, rm := rm, ma := ma : ACell }
            | _, _, _ => none
          let im : Image :=
            { model := ib raw 11 1, group := ib raw 12 1, qchunk := ib raw 13 1, rowsMax := ib raw 16 4, mtFirst := ib raw 20 2, mtCount := ib raw 22 2,
              buckets := (imgBuckets raw).map (fun x => (ib x 0 4, ib x 4 4)), cells := cells, attn := attn, regions := pages.map (fun x => (x.1, x.2.2)),
              code := secs.map (fun s => (physOf s.lcell, codeCopyAt (physOf s.lcell), 16384 * s.units)),
              crc := secs.flatMap fun s => (List.range (4 * s.units)).map fun j =>
                let a := codeCopyAt (physOf s.lcell) + 4096 * j
                (a, crc64 4096 (ib raw s.code (8 * s.count) >>> (8 * 4096 * j) % 2 ^ 32768)) }
          finish (b.modPart n fun p => { p with image := some im }) c.id .done
def execProgLoad (n : Fin 16) (r : Rec) (s : State) : Out := run (ringCmd 0x50 opProgLoad n r) s
/-- The cells of an image stop; their registers and tiles are zeroed (R283). The buffer table keeps its values: only a load
writes it (R37). -/
def unloadCell (b : Block) (k : Nat) : Block :=
  let b := coinReturn (b.modHub fun h => { h with watches := h.watches.filter fun w => w.cell != k }) k
  b.modCell k fun c => { c with thr := [], acc := [], met := [], coal := [], bankq := [], inb := {}, outb := {}, arrq := [], run := none, zeroTiles := [],
                                refetching := [], refetchFailed := [], reload := [], loaded := false, inRun := false }
def opProgUnload (b : Block) (c : Cmd) : Block :=
  let n := c.part
  checked b c [(!bodyOk c.desc [] || (b.part n).image.isNone, .descInvalid)] fun b =>
    match (b.part n).image with
    | none => finish b c.id .descInvalid
    | some im =>
      let b := b.each (im.cells.map (·.2)) unloadCell
      let mine := (im.regions.filter fun x => mttV (mttEntry b n x.1) && mttKey (mttEntry b n x.1) == x.2 && !poolInUse b n x.1).map (·.1)
      let (keys, b) := unmapVpns b n mine
      let b := b.modHub fun h => { h with pageOwner := keys.foldl (fun m k => mset 0 m k 0) h.pageOwner, zeroing := h.zeroing ++ keys.map fun k => (k, n, b.now) }
      finish (b.modPart n fun p => { p with image := none, cellMap := [] }) c.id .done
def execProgUnload (n : Fin 16) (r : Rec) (s : State) : Out := run (ringCmd 0x51 opProgUnload n r) s

/-! BATCH: records and items (R290 to R296). -/
def recOf (raw i : Nat) : Nat := bits raw (256 * i) 256
def recNew (x : Nat) : Bool := ib x 0 4 == 0xFFFFFFFF
/-- The status that refuses a record, if one does (R290 step 1). `seen` are handles of earlier records, `rows` the rows with
this record's. -/
def recBad (b : Block) (n : Nat) (im : Image) (lenMax : Nat) (seen : List Nat) (rows x : Nat) : Option Status :=
  let pos := ib x 4 4
  let tok := ib x 8 2
  let fl := ib x 10 1
  let grows : Bool := recNew x || decide ((b.entry (ib x 0 4 % 65536)).reserved < pos + tok)
  let common := decide (tok = 0 ∨ 4096 < tok ∨ 4 ≤ fl ∨ lenMax < pos + tok ∨ im.rowsMax < rows) || ib x 11 1 != 0 ||
    (grows && (b.model n im.model).poolPages == 0)
  if recNew x then refuse [(common || pos != 0 || !lenCapOk (ib x 12 4) || decide (ib x 12 4 < pos + tok), .descInvalid)]
  else
    let h := ib x 0 4
    let sq := seqCheck b n h
    let e := b.entry (h % 65536)
    match refuse [(sq == some .protection, .protection), (sq.isSome || common || bit fl 1 || ib x 12 20 != 0 || seen.contains h ||
        (sq.isNone && (e.model != im.model || decide (e.reserved < pos ∨ e.lenCap < pos + tok) || !([1, 3, 4, 5].contains e.st))), .descInvalid)] with
    | some st => some st
    | none => if e.st ≠ 1 then some .pageAbsent else none
/-- The first record that fails. -/
def recsBad (b : Block) (n : Nat) (im : Image) (lenMax raw : Nat) : Nat → Nat → List Nat → Nat → Option (Nat × Status)
  | 0, _, _, _ => none
  | left + 1, i, seen, rows =>
    let x := recOf raw i
    match recBad b n im lenMax seen (rows + ib x 8 2) x with
    | some st => some (i, st)
    | none => recsBad b n im lenMax raw left (i + 1) (if recNew x then seen else ib x 0 4 :: seen) (rows + ib x 8 2)
/-- Splits of a key range of `nb` blocks (R294). -/
def splitsOf (nb sb : Nat) : Nat :=
  let fix : Nat → Nat → Nat := fun fuel n => (List.range fuel).foldl (fun n _ => if 1 < n ∧ nb ≤ (n - 1) * cdiv nb n then n - 1 else n) n
  if nb ≤ sb then 1 else fix 64 (min 64 (cdiv nb (max 1 sb)))
/-- The items of one chunk and head. -/
def chunkItems (im : Image) (sb s h c x grp : Nat) : List Item :=
  let tok := ib x 8 2
  let qpos := ib x 4 4 + c * im.qchunk
  let valid := min im.qchunk (tok - c * im.qchunk)
  let nb := cdiv (qpos + valid) 64
  let n := splitsOf nb sb
  let q := cdiv nb n
  (List.range n).map fun i =>
    { sess := s, seq := ib x 0 4, entry := 0, qpos := qpos, qtok := im.qchunk, valid := valid, head := h, chunk := c, splits := n, idx := i,
      cost := 64 + 512 * (min ((i + 1) * q) nb - i * q) + (if i = 0 ∧ 1 < n then 40 + 64 * n else 0), qrow := c * im.qchunk, group := grp }
/-- Every item of a batch in the order of R294, split groups numbered. -/
def batchItems (b : Block) (n : Nat) (im : Image) (sb raw count : Nat) : List Item :=
  let heads := (b.model n im.model).kvHeads
  let r := (List.range count).foldl (fun (a : List Item × Nat × Nat) s =>
    let x := recOf raw s
    let tok := ib x 8 2
    let y := (List.range heads).foldl (fun (a : List Item × Nat) h => (List.range (cdiv tok (max 1 im.qchunk))).foldl (fun (a : List Item × Nat) c =>
      let l := chunkItems im sb s h c x a.2
      (a.1 ++ l, if 1 < l.length then a.2 + 1 else a.2)) a) (([] : List Item), a.2.1)
    (a.1 ++ y.1.map (fun i => { i with qrow := i.qrow + a.2.2 }), y.2, a.2.2 + tok)) (([] : List Item), 0, 0)
  r.1
/-- Bytes that an item takes of its cell's merge area. -/
def Item.merge (i : Item) (hd : Nat) : Nat := if i.idx = 0 ∧ 1 < i.splits then (i.splits - 1) * (512 * hd + 1024) + 1024 else 0
/-- Load of an attention cell during placement: its cell, cost, items and merge bytes placed, and its room for both. -/
structure CellLoad where
  lcell : Nat
  cost : Nat := 0
  items : Nat := 0
  merge : Nat := 0
  roomItems : Nat
  roomMerge : Nat
/-- Places items (number, item) one by one; bounded mode goes round-robin (R295, R299). -/
def placeItems (hd : Nat) (rr : Bool) : List (Nat × Item) → Nat → List CellLoad → List (Nat × Item) → Except Nat (List (Nat × Item))
  | [], _, _, out => .ok out
  | (k, i) :: rest, cur, cells, out =>
    let fits (c : CellLoad) : Bool := decide (c.items < c.roomItems ∧ c.merge + i.merge hd ≤ c.roomMerge)
    let order := if rr then (List.range cells.length).map fun j => (cur + j) % max 1 cells.length else List.range cells.length
    let ok := order.filter fun j => match cells[j]? with | some c => fits c | none => false
    let pick := if rr then ok.head? else ok.foldl (fun (a : Option Nat) j => match a with
      | none => some j
      | some m => if ((cells[j]?).map (·.cost)).getD 0 < ((cells[m]?).map (·.cost)).getD 0 then some j else a) none
    match pick with
    | none => .error k
    | some j =>
      let lc := ((cells[j]?).map (·.lcell)).getD 0
      placeItems hd rr rest ((j + 1) % max 1 cells.length)
        (cells.mapIdx fun q c => if q = j then { c with cost := c.cost + i.cost, items := c.items + 1, merge := c.merge + i.merge hd } else c)
        (out ++ [(k, { i with cell := lc })])
/-- The placement of a batch's items: in table order with their cells, or the failing item's record, PLACE_FAIL's kind and
index, and the status. -/
def batchPlace (b : Block) (n : Nat) (im : Image) (r : Rec) (items : List Item) : Except (Nat × Nat × Nat × Status) (List Item) :=
  let hd := (b.model n im.model).headDim
  let bufLen (lc i : Nat) : Nat := (((b.cell (mget 0 (b.part n).cellMap lc - 1)).bufs.find? fun e => e.1 == i).map (·.2.len)).getD 0
  let cells := (im.attn.filter fun c => !(decide (r.u 48 2 ≤ c.lcell ∧ c.lcell < r.u 48 2 + r.u 50 2))).map fun c =>
    ({ lcell := c.lcell, roomItems := min 1024 (bufLen c.lcell c.wl / 64 - 1), roomMerge := bufLen c.lcell c.ma } : CellLoad)
  let num := (List.range items.length).zip items
  let rr := bounded b n
  let order := if rr then num else num.mergeSort fun x y => decide (y.2.cost < x.2.cost ∨ (x.2.cost = y.2.cost ∧ x.1 ≤ y.1))
  match placeItems hd rr order 0 cells [] with
  | .error k => .error (((items[k]?).map (·.sess)).getD 0, 4, k, .descInvalid)
  | .ok l =>
    let groups := items.filter fun i => i.idx == 0 && decide (1 < i.splits)
    match groups[im.mtCount / 2]? with
    | some g => .error (g.sess, 5, items.findIdx fun i => i.sess == g.sess && i.head == g.head && i.chunk == g.chunk, .quota)
    | none => .ok ((l.mergeSort fun x y => decide (x.1 ≤ y.1)).map (·.2))

/-! BATCH: admission (R290, R297, R298). -/
/-- The pages of each layer that RESERVE of a record enters. -/
def recPages (b : Block) (n : Nat) (im : Image) (x : Nat) : List (Nat × Nat) :=
  let e : LEntry := if recNew x then {} else b.entry (ib x 0 4 % 65536)
  let to_ := ib x 4 4 + ib x 8 2
  (List.range (b.model n im.model).layers).flatMap fun i => (List.range ((to_ + 15) / 16 - e.reserved / 16)).map fun p => (i, e.reserved / 16 + p)
/-- The tables of every existing sequence are read before any of them changes: damage fails its entry now (R281). -/
def recsRead (b : Block) (n : Nat) (im : Image) (raw count : Nat) : Block :=
  b.each ((List.range count).map (recOf raw)) fun b x =>
    if recNew x || (seqCheck b n (ib x 0 4)).isSome then b else (tablesRead b (ib x 0 4 % 65536) (recPages b n im x)).2
/-- ADMIT and RESERVE of every record in table order; the handles, or the first record that fails, with the first of its statuses
in R11's order. -/
def admitRecs (n model attr raw : Nat) : Nat → Nat → List (Nat × Nat) → Block → Except (Nat × Status) (List (Nat × Nat)) × Block
  | 0, _, out, b => (.ok out, b)
  | left + 1, i, out, b =>
    let x := recOf raw i
    let got : Option (Nat × Block) :=
      if recNew x then
        ledAdmit b n model (ib x 12 4) (b2n (bit (ib x 10 1) 1)) (ib x 28 2) (ib x 30 2) (ib x 16 4) (ib x 20 4) (ib x 24 4)
      else some (ib x 0 4 % 65536, b)
    match got with
    | none => (.error (i, .quota), b)
    | some (e, b') => match ledReserve b' e (ib x 4 4 + ib x 8 2) attr with
      | .error st => (.error (i, st), b)
      | .ok b' =>
        if recNew x && ledFull b n then (.error (i, .ledgerFull), b)
        else admitRecs n model attr raw left (i + 1) (out ++ [(e, handleOf b' e)]) b'
/-- Ends a refused batch: PLACE_FAIL, its counters, the record's index. -/
def batchRefuse (b : Block) (c : Cmd) (kind num i : Nat) (st : Status) : Block :=
  let b := match st with | .ledgerFull => ledCount b c.part 2 | .quota => ledCount b c.part 3 | _ => b
  let b := clearCount (placeFail b c.part kind num st) c.part 1
  finish b c.id st i
/-- Writes the new handles into the session table (R290 step 4): to its PVA, or by DMA to the host, line by line. -/
def writeHandles (b : Block) (c : Cmd) (raw : Nat) (hs : List (Nat × Nat)) : Block :=
  let r := c.desc
  let n := c.part
  let tbl := r.u 24 8
  let num := (List.range hs.length).zip hs
  let fresh := num.filter fun x => recNew (recOf raw x.1)
  if bit (r.u 17 1) 0 then
    let new := fresh.foldl (fun v x => v - 0xFFFFFFFF * 2 ^ (256 * x.1) + x.2.2 * 2 ^ (256 * x.1)) raw
    b.each (fresh.map fun x => x.1 / 2).eraseDups fun b l =>
      dmaPush b { part := n, write := true, func := (b.part n).mgrFunc, addr := tbl + 64 * l, len := 64, data := bits new (512 * l) 512,
                  use := .cmdOut n c.id 0, bulk := false }
  else b.each fresh fun b x => match translate b n .hubRead0 (tbl + 32 * x.1) with
    | some m => b.memWrite m 4 x.2.2
    | none => b
/-- Admits a batch whose session table is `raw`. An image that a failed reload has marked damaged runs no more batches (R97). -/
def batchAdmit (b : Block) (c : Cmd) (raw : Nat) : Block :=
  let r := c.desc
  let n := c.part
  let count := r.u 18 2
  match (b.part n).image with
  | none => finish b c.id .descInvalid
  | some im =>
    if im.damaged then finish b c.id .uncorrectable else
    let bucket := im.buckets.getD (r.u 16 1) (0, 0)
    let b := recsRead b n im raw count
    match recsBad b n im bucket.1 raw count 0 [] 0 with
    | some (i, st) => batchRefuse b c 6 i i st
    | none =>
      match batchPlace b n im r (batchItems b n im bucket.2 raw count) with
      | .error (i, kind, num, st) => batchRefuse b c kind num i st
      | .ok items =>
        let was (x : Nat) : Option Nat := if recNew x then none else some (b.entry (ib x 0 4 % 65536)).reserved
        let old := (List.range count).map fun i => was (recOf raw i)
        match admitRecs n im.model c.attr raw count 0 [] b with
        | (.error (i, st), _) => batchRefuse b c 6 i i st
        | (.ok hs, b) =>
          let b := writeHandles b c raw hs
          let num := ((b.part n).lastBatch + 1) % 2 ^ 32
          let h (i : Nat) : Nat × Nat := hs.getD i (0, 0)
          let sess := (List.range count).map fun i => let x := recOf raw i
            ({ seq := (h i).2, pos := ib x 4 4, tokens := ib x 8 2, eot := bit (ib x 10 1) 0, entry := (h i).1 } : Sess)
          let items := items.map fun i => { i with seq := (h i.sess).2, entry := (h i.sess).1 }
          let bt : Batch := { num := num, cmd := c.id, bucket := r.u 16 1, arg0 := r.u 32 8, arg1 := r.u 40 8, sess := sess, items := items,
                              rows := (sess.map (·.tokens)).sum, attr := c.attr, startedAt := b.now, took := hs.zip old }
          let b := clearCount (clearCount b n 3 items.length) n 4 (items.countP fun i => decide (1 < i.splits))
          let a := 0xC7F54800 + 0x80 * n + 40
          let b := { b with cnts := mset 0 b.cnts a (max (b.cnt a) (b.now - c.at_)) }
          modCmd (b.modPart n fun p => { p with lastBatch := num, ahead := some bt }) c.id fun c => { c with left := 2, result := num }
/-- Reads of a host session table. -/
def tableReads (n id func : Nat) : Nat → Nat → Nat → Nat → Block → Block
  | 0, _, _, _, b => b
  | fuel + 1, h, off, len, b =>
    if len = 0 then b else
    let l := min len 4096
    tableReads n id func fuel (h + l) (off + l) (len - l)
      (dmaPush b { part := n, write := false, func := func, addr := h, len := l, data := 0, use := .cmdIn n id off, bulk := false })
/-- Starts a batch's admission. -/
def batchGo (b : Block) (c : Cmd) : Block :=
  let r := c.desc
  let n := c.part
  let p := b.part n
  let count := r.u 18 2
  let tbl := r.u 24 8
  let host := bit (r.u 17 1) 0
  let srcOk := if host then inAperture b n tbl (32 * max 1 count) else pvaOk b n .hubRead0 tbl (32 * max 1 count)
  let bad := refuse [(!srcOk, .protection), (tbl % 64 != 0, .alignment),
    (!bodyOk r [(16, 4), (24, 28)] || p.image.isNone || !decide (r.u 17 1 < 2) || count == 0 || decide (4096 < count) ||
      decide (((p.image.map fun im => im.buckets.length).getD 0) ≤ r.u 16 1), .descInvalid)]
  let b := modCmd b c.id fun c => { c with left := 1, at_ := b.now, slot := 1 }
  let c := { c with at_ := b.now }
  match bad with
  | some st => finish (clearCount b n 1) c.id st
  | none =>
    if (p.image.map (·.damaged)).getD false then finish b c.id .uncorrectable
    else if host then
      if !kwUp b then finish b c.id .linkDown
      else tableReads n c.id p.mgrFunc (count / 128 + 1) tbl 0 (pad64 (32 * count)) (modCmd b c.id fun c => { c with pay := 0, result := 0 })
    else match pvaCheck b n .hubRead0 tbl (32 * count) with
      | (true, b) => finish b c.id .uncorrectable
      | (false, b) => batchAdmit b c (pvaRead b n .hubRead0 tbl 2 (32 * count))
/-- A BATCH in admission: it holds the ring head (R394); slot 0 before its admission starts, slot 1 while its table is read. -/
def Cmd.admitting (c : Cmd) (n slot : Nat) : Bool := c.part == n && c.op == 0x52 && c.st == .running && c.left == 1 && c.slot == slot
/-- Starts the admission of the first BATCH that waits, while no batch is ahead and no other is being admitted (R297); one that is
refused lets the next start. -/
def batchPumps (n : Nat) : Nat → Block → Block
  | 0, b => b
  | fuel + 1, b =>
    if (b.part n).ahead.isSome || b.hub.cmds.any (·.admitting n 1) then b else
    match b.hub.cmds.find? (·.admitting n 0) with
    | some c => batchPumps n fuel (batchGo b c)
    | none => b
def batchPump (b : Block) (n : Nat) : Block := batchPumps n b.hub.cmds.length b
def opBatch (b : Block) (c : Cmd) : Block := batchPump (modCmd b c.id fun c => { c with left := 1, slot := 0 }) c.part
def execBatch (n : Fin 16) (r : Rec) (s : State) : Out := run (ringCmd 0x52 opBatch n r) s
/-- A piece of a host session table arrives; the admission goes on with the last. -/
def batchDma (b : Block) (id off len data : Nat) (st : Status) : Block :=
  match cmdOf b id with
  | none => b
  | some c =>
    if c.st ≠ .running ∨ c.left ≠ 1 then b else
    let c := { c with pay := if st = .done then c.pay + data % 2 ^ (8 * len) * 2 ^ (8 * off) else c.pay, result := c.result + len,
                      bad := if st = .done then c.bad else some (c.bad.getD st) }
    let b := modCmd b id fun _ => c
    if c.result < pad64 (32 * c.desc.u 18 2) then b
    else match c.bad with
      | some st => batchPump (finish b id st) c.part
      | none => batchPump (batchAdmit (modCmd b id fun c => { c with result := 0 }) { c with result := 0 } c.pay) c.part

/-! Runs (R94, R95, R297). -/
/-- A buffer's base in a logical cell of the image. -/
def imgBase (b : Block) (n lc i : Nat) : Nat × Nat := let k := mget 0 (b.part n).cellMap lc - 1; (k, ((b.cell k).buf i).base)
/-- The row map of a batch (R292). -/
def rowMapBytes (b : Block) (bt : Batch) : Nat × Nat :=
  let rows := bt.sess.flatMap fun s => (List.range s.tokens).map fun t =>
    s.seq + (s.pos + t) * 2 ^ 32 + (b.entry s.entry).qrot * 2 ^ 64 + b2n (s.eot && t + 1 == s.tokens) * 2 ^ 96
  (16 * rows.length, packCodes 128 rows)
/-- The items before `i` of its cell, in table order: the merge bytes that they take. -/
def mergeOff (items : List Item) (hd : Nat) (i : Item) : Nat :=
  ((items.takeWhile fun x => !(x == i)).filter fun x => x.cell == i.cell).map (Item.merge · hd) |>.sum
/-- One work item as its 64 bytes (R295, R296). -/
def workItem (b : Block) (n : Nat) (im : Image) (items : List Item) (i : Item) : Nat :=
  let e := b.entry i.entry
  let hd := (b.model n im.model).headDim
  let first := (items.find? fun x => x.sess == i.sess && x.head == i.head && x.chunk == i.chunk && x.idx == 0).getD i
  let mt := im.mtFirst + 2 * i.group
  let ma := ((im.attn.find? fun c => c.lcell == first.cell).map (·.ma)).getD 0
  let base := i.seq + i.qpos * 2 ^ 32 + i.qtok * 2 ^ 64 + i.valid * 2 ^ 72 + i.head * 2 ^ 80 + i.splits * 2 ^ 88 + i.idx * 2 ^ 96 + i.qrow * 2 ^ 128 +
    e.qrot * 2 ^ 160 + e.krot * 2 ^ 192
  if i.splits < 2 then base else
    base + first.cell * 2 ^ 112 + (ma + mergeOff items hd first * 256) * 2 ^ 224 + mt * 2 ^ 256 + (mt + 1) * 2 ^ 272 +
    (b.tally n mt).val * 2 ^ 288 + (b.tally n (mt + 1)).val * 2 ^ 320
/-- Writes the lists of one attention cell and sets their granules FULL. -/
def writeList (b : Block) (n : Nat) (im : Image) (bt : Batch) (c : ACell) : Block :=
  let mine := bt.items.filter fun i => i.cell == c.lcell
  let head := mine.length + bt.num * 2 ^ 32 + (im.buckets.getD bt.bucket (0, 0)).1 * 2 ^ 64
  let list := packCodes 512 (head :: mine.map (workItem b n im bt.items))
  let (k, wl) := imgBase b n c.lcell c.wl
  let (_, rm) := imgBase b n c.lcell c.rm
  let (rl, rv) := rowMapBytes b bt
  let n1 := 64 + 64 * mine.length
  b.modCell k fun cl => (((cl.put wl n1 list).put rm rl rv).setTags (granules wl n1) 1).setTags (granules rm rl) 1
/-- A thread at the start of a run (R94). THREAD_FAULT of a thread outside START_MASK keeps its value (DESIGN CHOICE, log entry 93:
R94 clears it for the threads of START_MASK, the register's table at every run start). -/
def Thread.start (t : Thread) (cell : Cell) (k arg0 arg1 num now : Nat) : Thread :=
  if bit cell.startMask k then
    { t with st := .run, pc := mget 0 cell.startPc k, s := [(1, BitVec.ofNat 64 arg0), (2, BitVec.ofNat 64 arg1), (3, BitVec.ofNat 64 num)].filter (fun x => x.2 != 0),
             p := [], tok := [], loop := none, wait := .none, since := now, tfault := {}, fbuf := [], stalled := none, tagSeq := none }
  else { t with st := .idle, loop := none, wait := .none, stalled := none, tagSeq := none }
def Cell.startRun (c : Cell) (arg0 arg1 num now : Nat) : Cell :=
  (List.range 8).foldl (fun c k => c.modThread k fun t => t.start c k arg0 arg1 num now) { c with inRun := true, runFlags := 0 }
/-- RUN_START: no run is in progress, no collective of the partition is queued (R385), and a batch waits. A batch whose image has
been marked damaged since its admission ends without starting (R97). -/
def runStart (n : Fin 16) (b : Block) : Block :=
  let p := b.part n
  if b.fab.colls.any (fun c => c.part == n.val) then b else
  match p.running, p.ahead, p.image with
  | none, some bt, some im =>
    if im.damaged then
      batchPump (finish (b.modPart n fun p => { p with ahead := none, lastStatus := Status.uncorrectable.code }) bt.cmd .uncorrectable bt.num) n
    else
      let b := b.each im.attn fun b c => writeList b n im bt c
      let b := b.each (im.cells.map (·.2)) fun b k => b.modCell k fun c => c.startRun bt.arg0 bt.arg1 bt.num b.now
      batchPump (b.modPart n fun p => { p with ahead := none, running := some { bt with startedAt := b.now } }) n
  | _, _, _ => b
def execRunStart (n : Fin 16) (s : State) : Out := run (runStart n) s
/-- Whether a cell's part of a run has ended (R95, R134); what its coalescer still holds drains as the run ends (R132). -/
def Cell.quiet (c : Cell) : Bool :=
  (List.range 8).all (fun t => let x := c.thread t; [TState.idle, .halt, .fault].contains x.st && x.tok.all fun k => !k.2.busy) &&
  c.bankq.isEmpty && c.inb.q.isEmpty && c.outb.q.isEmpty && c.inb.zombies.isEmpty && c.outb.zombies.isEmpty && c.arrq.isEmpty && c.run.isNone
/-- RUN_END: the batch completes with its run's status and flags; a thread's stored error puts the partition into recovery. -/
def runEnd (n : Fin 16) (b : Block) : Block :=
  let p := b.part n
  match p.running with
  | none => b
  | some bt =>
    let cells := imageCells b n
    if !(cells.all fun k => (b.cell k).quiet) then b else
    let fl := runFlagsOf b n
    let b := b.each cells fun b k => b.modCell k fun c => { c.coal.foldl Cell.drain c with inRun := false }
    let b := b.modPart n fun p => { p with running := none, lastStatus := bt.status.code, ahead := p.ahead.map fun x => { x with startedAt := b.now } }
    let b := clearCount (clearCount b n 0) n 2 bt.rows
    let b := finish b bt.cmd bt.status bt.num fl
    if bt.faultKey.isSome && bt.status == .uncorrectable then enterRecovery b n .uncorrectable else b
def execRunEnd (n : Fin 16) (s : State) : Out := run (runEnd n) s
/-- CANCEL (R399). -/
def opCancel (b : Block) (c : Cmd) : Block :=
  let n := c.part
  checked b c [(!bodyOk c.desc [(16, 4)], .descInvalid)] fun b =>
    let num := c.desc.u 16 4
    match (b.part n).running with
    | some bt =>
      if bt.num = num then
        let b := stopRun (b.modPart n fun p => { p with running := p.running.map fun r => if r.status = .done then { r with status := .cancelled } else r }) n .cancelled
        finish b c.id .done 1
      else ahead b n num
    | none => ahead b n num
where
  /-- A batch admitted ahead is withdrawn. -/
  ahead (b : Block) (n num : Nat) : Block := match (b.part n).ahead with
    | some bt => if bt.num ≠ num then finish b c.id .done 0 else
      let b := b.modPart n fun p => { p with ahead := none, lastStatus := Status.cancelled.code }
      batchPump (finish (finish b c.id .done 0) bt.cmd .cancelled bt.num) n
    | none => finish b c.id .done 0
def execCmdCancel (n : Fin 16) (r : Rec) (s : State) : Out := run (ringCmd 0x04 opCancel n r) s

/-! Bounded mode (R299, R300). -/
/-- The ledger's share of an admission in ns (R257): 2 us for each ADMIT and each RESERVE, 50 ns for each page opened and 4 us for
each page copied, of the records that the hub has read. -/
def ledBound (b : Block) (n : Nat) (im : Image) (raw count : Nat) : Nat :=
  ((List.range count).map fun i =>
    let x := recOf raw i
    let e : LEntry := if recNew x then {} else b.entry (ib x 0 4 % 65536)
    let pages := if e.reserved < ib x 4 4 + ib x 8 2 then recPages b n im x else []
    let st (p : Nat × Nat) : Leaf := e.leaf p.1 p.2
    let copied := pages.countP fun p => (st p).st == 3 || ((st p).st == 1 && decide (1 < (b.frame n e.model (st p).frame).ref))
    (if recNew x then 2000 else 0) + (if pages.isEmpty then 0 else 2000) + 50 * pages.countP (fun p => (st p).st == 0) + 4000 * copied).sum
/-- Bounds in microseconds: of an admission (DEDUCED, log entry 94: records still to come from a host table add nothing yet), and of
writing lists and starting a run. -/
def admitBound (b : Block) (c : Cmd) : Nat :=
  let led := match (b.part c.part).image with | some im => ledBound b c.part im c.pay (c.desc.u 18 2) | none => 0
  20 + (500 * c.desc.u 18 2 + led + 999) / 1000
def startBound (bt : Batch) : Nat := 10 + (40 * bt.items.length + 999) / 1000
def clearTimeout (b : Block) (n op step num us : Nat) : Block :=
  event b n 0x0505 .timeout 0 chipLoc (detail [(16, 1, op), (17, 1, step), (18, 4, num), (22, 4, us)])
/-- Undoes an admission (R300): the entries it took are released and the positions it reserved given back. -/
def undoAdmit (b : Block) (bt : Batch) : Block :=
  b.each bt.took fun b x =>
    let s := bt.sess.find? fun s => s.seq == x.1.2
    if handleOf b x.1.1 ≠ x.1.2 then b else
    match x.2, s with
    | none, _ => releaseEntry b x.1.1
    | some old, some s => unreserve b x.1.1 old (s.pos + s.tokens)
    | _, _ => b
/-- CLEARING_TIMEOUT: an admission, or the start of a run, past its bound is undone in full. A load and an unload take effect in the
command that accepts them, within their bounds. -/
def clearingTimeout (n : Fin 16) (b : Block) : Block :=
  if !bounded b n then b else
  let late := b.hub.cmds.find? fun c => c.admitting n 1 && decide (c.at_ + 1000 * admitBound b c < b.now)
  match late with
  | some c => batchPump (finish (clearTimeout b n 0x52 1 0 (admitBound b c)) c.id .timeout) n
  | none =>
    match (b.part n).running, (b.part n).ahead with
    | none, some bt =>
      if b.now ≤ bt.startedAt + 1000 * startBound bt then b else
      let b := undoAdmit (clearTimeout b n 0x52 0 bt.num (startBound bt)) bt
      batchPump (finish (b.modPart n fun p => { p with ahead := none, lastStatus := Status.timeout.code }) bt.cmd .timeout bt.num) n
    | _, _ => b
def execClearingTimeout (n : Fin 16) (s : State) : Out := run (clearingTimeout n) s
/-- CLEARING_MODE (R299). -/
def writeClearMode (b : Block) (n v : Nat) : Block :=
  let was := bounded b n
  modeChange (b.modPart n fun p => { p with clearMode := bit v 0 }) n was 0

end Sys2Proof.Machine
end

