-- ==== Sys2Proof/Machine/Kwasar.lean ====
section
/-!
DEFINITION. Machine/Kwasar.lean: the Kwasar link, its DMA answers, rings and doorbells, and the ends of management
requests (spec 17).
-/
namespace Sys2Proof.Machine

def kwCount (b : Block) (k : Nat) (n : Nat := 1) : Block := b.count (0xC7FA7800 + 8 * k) n
/-- The partition that a card function is bound to (R391). -/
def funcPart (b : Block) (f : Nat) : Option Nat :=
  (List.range 16).find? fun n => let p := b.part n; p.st != .free && p.mgrEn && p.mgrFunc == f

/-! Command fetch (R475, R549). -/
/-- RING_FAULT of a partition's command or completion ring. -/
def ringFault (b : Block) (n r : Nat) (st : Status) (check idx : Nat) : Block :=
  let mark (x : Ring) : Ring := { x with fault := true, stop := x.stop || decide (r = 0 ∧ 4 ≤ check) }
  let b := b.modPart n fun p => if r = 0 then { p with cmd := mark p.cmd } else { p with comp := mark p.comp }
  event b n 0x0C02 st 0 chipLoc (detail [(16, 1, r), (17, 1, check), (18, 4, idx)])
/-- Fetches the entries from the fetch position up to TAIL while the partition's manager is bound (R401): by DMA from host memory, or at once from PVA pages. -/
def fetchRing (n : Nat) : Nat → Block → Block
  | 0, b => b
  | fuel + 1, b =>
    let p := b.part n
    let idx := p.fetchIdx
    if !p.mgrEn || !p.cmd.en || p.cmd.stop || idx == p.cmd.tail then b else
    let a := p.cmd.base + 64 * (idx % p.cmd.size)
    let next (p : Part) : Part := { p with fetchIdx := (idx + 1) % 2 ^ 32 }
    if p.cmd.space then
      match translate b n .hubRead0 a with
      | none => ringFault b n 0 .protection 5 idx
      | some m => match memCheck b n m 64 with
        | (true, b) => ringFault b n 0 .uncorrectable 5 idx
        | (false, b) => fetchRing n fuel (b.modPart n fun p => next { p with fetched := p.fetched ++ [(idx, BitVec.ofNat 512 (b.memRead m 64))] })
    else if !kwUp b then b
    else fetchRing n fuel (dmaPush (b.modPart n next)
      { part := n, write := false, func := p.mgrFunc, addr := a, len := 64, data := 0, use := .fetch n idx, bulk := false })
def fetchAll (b : Block) (n : Nat) : Block := fetchRing n (((b.part n).cmd.tail + 2 ^ 32 - (b.part n).fetchIdx) % 2 ^ 32) b

/-! Doorbells (R475 to R477). -/
/-- EVENTS_LOST is posted once space returns to an event ring. -/
def lostPost (b : Block) (n : Nat) : Block :=
  let p := b.part n
  if p.evt.lostNew = 0 ∨ !p.evt.en ∨ p.evt.full ∨ (!p.evt.space && !kwUp b) then b else
  putEvent (b.modPart n fun p => { p with evt := { p.evt with lostNew := 0 } }) n
    (eventRec 0x0C03 .done 0 chipLoc n b.mtime (detail [(16, 4, p.evt.lostNew)]))
/-- A ring index written by its manager: the command ring's TAIL, or the HEAD of another. The answer tells whether it broke
R475 or named a disabled ring. -/
def doorbell (b : Block) (n ring idx : Nat) : Bool × Block :=
  let p := b.part n
  match ring with
  | 0 =>
    let ahead := (idx + 2 ^ 32 - p.cmd.head) % 2 ^ 32
    if !p.cmd.en then (true, b)
    else if p.cmd.size < ahead ∨ ahead < (p.cmd.tail + 2 ^ 32 - p.cmd.head) % 2 ^ 32 then (true, ringFault b n 0 .descInvalid 4 idx)
    else (false, fetchAll (b.modPart n fun p => { p with cmd := { p.cmd with tail := idx } }) n)
  | 1 => if !p.comp.en then (true, b) else (false, postAll (b.modPart n fun p => { p with comp := { p.comp with head := idx } }) n)
  | _ => if !p.evt.en then (true, b) else (false, lostPost (b.modPart n fun p => { p with evt := { p.evt with head := idx } }) n)
/-- DOORBELL from card function `f`. -/
def doorbellMsg (f : Fin 16) (ring : BitVec 2) (idx : BitVec 32) (b : Block) : Block :=
  if !kwUp b then b
  else if ring = 3 then kwCount b 3
  else match funcPart b f with
    | none => kwCount b 4
    | some n => let (bad, b) := doorbell b n ring.toNat idx.toNat; if bad then kwCount b 4 else b
def execDoorbell (f : Fin 16) (ring : BitVec 2) (idx : BitVec 32) (s : State) : Out := act (doorbellMsg f ring idx) s

/-! Ends of DMA requests (R471, R472, R480). -/
/-- A completion record is visible: its command has committed, TAIL moves, and NOTIFY follows (R476, R478). -/
def compDone (b : Block) (n id : Nat) : Block :=
  match cmdOf b id with
  | none => b
  | some c =>
    let b := b.modHub fun h => { h with cmds := h.cmds.filter fun c => c.id != id }
    let p := b.part n
    let away (k : Nat) : Nat := (k + 2 ^ 32 - p.comp.tail) % 2 ^ 32
    let out := (b.hub.cmds.filter fun c => c.part == n && c.st == .posting).map fun c => c.slot
    let tail := out.foldl (fun a k => if away k < away a then k else a) p.comp.issued
    let b := b.modPart n fun p => { p with comp := { p.comp with tail := tail } }
    let b := if c.op = 0x11 && c.status == .done then notify b n (c.desc.u 16 1) else b
    if p.comp.notify then notify b n p.comp.vector else b
/-- An event record is visible. -/
def eventDone (b : Block) (n : Nat) : Block :=
  let out := (b.hub.dma.countP fun d => d.use == .event n) + b.hub.dmaq.countP fun w => w.use == .event n
  let b := b.modPart n fun p => { p with evt := { p.evt with tail := (p.evt.issued + 2 ^ 32 - out) % 2 ^ 32 } }
  let p := b.part n
  if p.evt.notify then notify b n p.evt.vector else b
/-- A transfer of a command's work ends. -/
def workDma (b : Block) (use : DmaUse) (addr len data : Nat) (st : Status) : Block :=
  match use with
  | .cmdIn _ id mpa => match cmdOf b id with
    | none => b
    | some c => match c.op with
      | 0x46 => importDma b c mpa len data st
      | 0x48 => headerDma b c data st
      | 0x52 => batchDma b id mpa len data st
      | _ => unmapPump (copyDma b id mpa len data true st)
  | .cmdOut _ id _ => match cmdOf b id with
    | none => b
    | some c => match c.op with
      | 0x47 => imageDma b c len st
      | 0x52 => b
      | _ => unmapPump (copyDma b id 0 len 0 false st)
  | .swapOut _ x l p => if st = .done then b else swapFail b x (leafKey l p) 0x47 st
  | .swapIn n x l p => swapInDma b n x l p addr len data st
  | .sec what pos => secDma b what pos len data st
  | _ => b
/-- A DMA request ends while the link stays up: its tag is free, its user goes on, and waiting transfers are issued. A ring
record that failed is sent again; a fetch that failed faults its ring (R549). -/
def dmaEnd (b : Block) (d : Dma) (st : Status) : Block :=
  let b := b.modHub fun h => { h with dma := h.dma.filter fun x => x.tag != d.tag }
  let again (b : Block) (n : Nat) : Block :=
    dmaPush b { part := n, write := true, func := d.func, addr := d.addr, len := d.len, data := d.data, use := d.use, bulk := false }
  let b := match d.use with
    | .fetch n idx =>
      if st ≠ .done then ringFault b n 0 st 5 idx
      else b.modPart n fun p => { p with fetched := p.fetched ++ [(idx, BitVec.ofNat 512 d.data)] }
    | .comp n id => if st = .done then compDone b n id else again b n
    | .event n => if st = .done then eventDone b n else again b n
    | u => workDma b u d.addr d.len d.data st
  dmaIssue b.hub.dmaq.length b
/-- The outstanding request under a tag. -/
def dmaOf (b : Block) (tag : Nat) (write : Bool) : Option Dma := b.hub.dma.find? fun d => d.tag == tag && d.write == write
/-- DMA_DATA. -/
def dmaData (tag : BitVec 8) (st : BitVec 8) (off : BitVec 16) (data : Bytes) (b : Block) : Block :=
  if !kwUp b then b else
  if 512 < data.len then kwCount b 3 else
  match dmaOf b tag.toNat false with
  | none => kwCount b 6
  | some d =>
    if st ≠ 0 then dmaEnd b d (.ofCode st.toNat) else
    let o := off.toNat
    if d.len < o + data.len ∨ d.got.any (fun g => decide (o < g.1 + g.2) && decide (g.1 < o + data.len)) then dmaEnd (kwCount b 5) d .remoteNak else
    let d' : Dma := { d with got := d.got ++ [(o, data.len)], data := d.data + (data.val % 2 ^ (8 * data.len)) * 2 ^ (8 * o) }
    let b := kwCount (b.modHub fun h => { h with dma := h.dma.map fun x => if x.tag = d.tag then d' else x }) 8 data.len
    if d'.got.foldl (fun a g => a + g.2) 0 = d.len then dmaEnd b d' .done else b
def execDmaData (tag st : BitVec 8) (off : BitVec 16) (data : Bytes) (s : State) : Out := run (dmaData tag st off data) s
/-- DMA_WR_ACK. -/
def dmaWrAck (tag st : BitVec 8) (b : Block) : Block :=
  if !kwUp b then b else
  match dmaOf b tag.toNat true with
  | none => kwCount b 6
  | some d => dmaEnd b d (.ofCode st.toNat)
def execDmaWrAck (tag st : BitVec 8) (s : State) : Out := run (dmaWrAck tag st) s
/-- A request unanswered for DMA_TIMEOUT_US ends with TIMEOUT; its tag is retired for twice that. -/
def dmaTimeout (tag : BitVec 8) (b : Block) : Block :=
  match b.hub.dma.find? fun d => d.tag == tag.toNat with
  | none => b
  | some d =>
    if b.now < d.sent + 1000 * dmaTimeoutUs b then b else
    dmaEnd (b.modHub fun h => { h with retired := h.retired ++ [(d.tag, b.now + 2000 * dmaTimeoutUs b)] }) d .timeout
def execDmaTimeout (tag : BitVec 8) (s : State) : Out := run (dmaTimeout tag) s
/-- A retired tag is free again. -/
def dmaTagRetireExpiry (tag : BitVec 8) (b : Block) : Block :=
  let b := b.modHub fun h => { h with retired := h.retired.filter fun r => r.1 != tag.toNat || decide (b.now < r.2) }
  dmaIssue b.hub.dmaq.length b
def execDmaTagRetireExpiry (tag : BitVec 8) (s : State) : Out := act (dmaTagRetireExpiry tag) s

/-! Messages that leave (R467 to R469). A message stands in `sent` once it is given to the link, and so does each flit of port 24 when it
leaves. -/
def Pkt.mLen (m : Pkt) : Nat := bits m.h 32 16
/-- Bytes of payload that follow a header: a DMA_RD has none, whatever its LENGTH. -/
def Pkt.mPayload (m : Pkt) : Nat := if m.typ = 5 then 0 else m.mLen
def Pkt.mCredits (m : Pkt) : Nat := cdiv (16 + m.mPayload) 64
/-- Bytes of a message on the link. -/
def Pkt.mWire (m : Pkt) : Nat := cdiv (16 + m.mPayload) 16 * 16
/-- A message given to the link, on its virtual channel: 0 requests, 1 answers, 3 notifications. -/
def kwQueued (now : Nat) : Msg → Option VcPkt
  | .kw t f g len st a d =>
    let h := t % 2 ^ 8 + f % 2 ^ 4 * 2 ^ 8 + g % 2 ^ 16 * 2 ^ 16 + len % 2 ^ 16 * 2 ^ 32 + st % 2 ^ 8 * 2 ^ 48 + a % 2 ^ 64 * 2 ^ 64
    some { vc := if t = 4 then 1 else if t = 9 then 3 else 0, pkt := { h := h, data := d % 2 ^ (8 * len) }, at_ := now }
  | _ => none
/-- The messages that the link has been given since it last looked, behind those that wait for credits. -/
def kwGather (b : Block) : Block :=
  if b.sent.length = b.hub.kw.seen then b else
  let new := (b.sent.drop b.hub.kw.seen).filterMap (kwQueued b.now)
  let b := b.modHub fun h => { h with kw := { h.kw with seen := b.sent.length } }
  if new.isEmpty then b else b.modLink 24 fun l => { l with q := l.q ++ new }
/-- Takes out of the queues the messages that can leave now, after `n` bytes of others: the card's receive buffers have 256 credits for
each channel, and the replay buffer has room for 1,024 flits. -/
def kwTake : Nat → Nat → List Pkt → Block → List Pkt × Block
  | 0, _, out, b => (out, b)
  | fuel + 1, n, out, b =>
    let l := b.link 24
    match linkPick 4 256 Pkt.mCredits l with
    | none => (out, b)
    | some x =>
      if 1024 < l.replay.length + cdiv (n + x.pkt.mWire) 240 then (out, b)
      else kwTake fuel (n + x.pkt.mWire) (out ++ [x.pkt]) (b.modLink 24 fun l => l.take x x.pkt.mCredits)
/-- Sends what the link can send, messages that are ready together in common flits. -/
def kwPump (b : Block) : Block :=
  if !kwUp b then b else
  let b := kwGather b
  let (ks, b) := kwTake (b.link 24).q.length 0 [] b
  let x := packPkts 16 Pkt.mWire ks
  sendData 24 x.1 (x.2.2 / 240 + 1) 0 x.2.2 x.2.1 b

/-! The link (R466, R480, R481). -/
/-- A change of state of the Kwasar link; a link in TRAIN sends HELLO. -/
def kwTo (b : Block) (st cause : Nat) : Block :=
  let k := b.hub.kw
  -- the answers of the card's requests in progress are discarded (R480)
  let b := if k.st = 2 ∧ st ≠ 2 then b.modHub fun h => { h with mreqs := h.mreqs.map fun q => { q with gone := q.gone || q.path == 1 } } else b
  let b := eventPlat b 0 0x0C01 (if st = 4 ∨ st = 3 then .linkDown else .done) 0 chipLoc
    (detail [(16, 1, st), (17, 1, k.st), (18, 1, cause), (20, 4, (b.now - k.since) / 1000)])
  -- DOWN and TRAIN discard what the receive side holds
  let b := if st = 1 ∨ st = 4 then b.modLink 24 fun _ => {} else b
  let b := if st = 1 then sendCtl b 24 3 0 0 Config.helloPayload.toNat else b
  b.modHub fun h => { h with kw := { h.kw with st := st, since := b.now, cause := cause,
                                               retrains := if st = 1 ∨ st = 3 then min 255 (h.kw.retrains + 1) else h.kw.retrains } }
/-- Sets the traffic of a partition's rings back: commits wait in their order, events on their way are lost, command fetch
will resume at HEAD. -/
def ringRewind (b : Block) (n : Nat) : Block :=
  let p := b.part n
  let away (k : Nat) : Nat := (k + 2 ^ 32 - p.comp.tail) % 2 ^ 32
  let post := (b.hub.cmds.filter fun c => c.part == n && c.st == .posting).mergeSort fun c d => decide (away c.slot ≤ away d.slot)
  let b := b.modHub fun h => { h with cmds := h.cmds.map fun c => if c.part = n ∧ c.st = .posting then { c with st := .commit } else c }
  let lost := if p.evt.space then 0 else (p.evt.issued + 2 ^ 32 - p.evt.tail) % 2 ^ 32
  let b := b.modPart n fun p =>
    { p with commits := post.map (·.id) ++ p.commits, comp := { p.comp with issued := p.comp.tail },
             fetchIdx := if p.cmd.space then p.fetchIdx else p.cmd.head, fetched := if p.cmd.space then p.fetched else [],
             evt := if p.evt.space then p.evt else { p.evt with issued := p.evt.tail } }
  b.each (List.range lost) fun b _ => lostEvent b n
/-- Traffic when the link leaves UP (R480): every request, outstanding or waiting, ends with LINK_DOWN. -/
def kwFlush (b : Block) : Block :=
  let work := b.hub.dma.map (fun d => (d.use, d.addr, d.len)) ++ b.hub.dmaq.map fun w => (w.use, w.addr, w.len)
  let b := b.modHub fun h => { h with dma := [], dmaq := [] }
  let b := b.each (List.range 16) ringRewind
  b.each work fun b w => workDma b w.1 w.2.1 w.2.2 0 .linkDown
/-- The link leaves UP for one of R357's causes, or a RECOVER is not UP within 1 ms. -/
def kwLinkDown (cause : Fin 3) (b : Block) : Block :=
  match b.hub.kw.st with
  | 2 => kwFlush (kwTo b 3 (cause.val + 1))
  | 3 => if b.hub.kw.since + 1000000 ≤ b.now then kwTo b 4 0 else b
  | _ => b
def execKwLinkDown (cause : Fin 3) (s : State) : Out := run (kwLinkDown cause) s
/-- The link reaches UP: HELLO has named the card's revision and functions; waiting traffic goes on. -/
def kwLinkUp (rev : BitVec 8) (funcs : Fin 17) (b : Block) : Block :=
  if (b.hub.kw.st ≠ 1 ∧ b.hub.kw.st ≠ 3) ∨ domHeld b 24 5 then b else
  let hello := b.hub.kw.st = 1
  let b := kwTo b 2 0
  let b := if hello then b.modHub fun h => { h with kw := { h.kw with rev := rev.toNat, funcs := funcs } } else b
  -- a message that had not left is dropped with what it served (R480); the replay goes on from the first flit not acknowledged
  let b := b.modHub fun h => { h with kw := { h.kw with seen := b.sent.length } }
  let l := (b.link 24).replay
  let b := resendFlits (b.modLink 24 fun x => { x with q := [], replay := l.map fun f => { f with sends := 1 } }) 24 l
  b.each (List.range 16) fun b n =>
    let b := lostPost (fetchAll (postAll b n) n) n
    let p := b.part n
    let one (r : Ring) (b : Block) : Block := if r.en && !r.space && r.notify && r.head != r.tail then notify b n r.vector else b
    one p.evt (one p.comp b)
def execKwLinkUp (rev : BitVec 8) (funcs : Fin 17) (s : State) : Out := act (kwLinkUp rev funcs) s
/-- Training that has not reached UP within 20 ms starts again, as a port that is DOWN does after 100 µs. -/
def kwTrainTimeout (b : Block) : Block :=
  let k := b.hub.kw
  if !(domHeld b 24 5) ∧ ((k.st = 1 ∧ k.since + 20000000 ≤ b.now) ∨ (k.st = 4 ∧ k.since + 100000 ≤ b.now)) then kwTo b 1 0 else b
def execKwTrainTimeout (s : State) : Out := act kwTrainTimeout s
/-- KW_VIOLATION: what the seven counters of R481 gained since the last one, at most every 10 ms. -/
def kwViolation (b : Block) : Block :=
  let k := b.hub.kw
  let cnt := (List.range 7).map fun i => b.cnt (0xC7FA7800 + 8 * i)
  let gain := (List.range 7).map fun i => cnt.getD i 0 - k.posted.getD i 0
  let due : Bool := match k.postAt with | none => true | some t => decide (t + 10000000 ≤ b.now)
  if !due || gain.all (· == 0) then b else
  eventPlat (b.modHub fun h => { h with kw := { h.kw with posted := cnt, postAt := some b.now } }) 0 0x0C04 .done 0 chipLoc
    (detail ((List.range 7).map fun i => (16 + 2 * i, 2, min 65535 (gain.getD i 0))))
def execKwViolation (s : State) : Out := act kwViolation s

/-! Ring configuration (R474). -/
def recSize (r : Nat) : Nat := if r = 0 then 64 else 32
/-- The fields of RING_CFG that a write sets. -/
def Ring.config (x : Ring) (v : Nat) : Ring :=
  { x with space := bit v 1, log2 := clamp 6 16 (bits v 2 5), notify := bit v 7, vector := bits v 8 8 }
/-- The first check of R474 that a ring fails: its number and status. -/
def ringCheck (b : Block) (n r : Nat) (x : Ring) : Option (Nat × Status) :=
  let len := x.size * recSize r
  let place : Bool := if x.space then pvaOk b n (if r = 2 then .hubWrite0 else .hubRead0) x.base len else inAperture b n x.base len
  if x.base % 64 ≠ 0 then some (1, .alignment)
  else if !place then some (2, .protection)
  else if r = 1 ∧ x.space then some (3, .descInvalid)
  else none
def partRing (p : Part) (r : Nat) : Ring := if r = 0 then p.cmd else if r = 1 then p.comp else p.evt
def setRing (p : Part) (r : Nat) (x : Ring) : Part :=
  if r = 0 then { p with cmd := x } else if r = 1 then { p with comp := x } else { p with evt := x }
/-- Whether a DMA transfer belongs to ring `r` of partition `n`. -/
def ringUse (n r : Nat) : DmaUse → Bool
  | .fetch m _ => m == n && r == 0
  | .comp m _ => m == n && r == 1
  | .event m => m == n && r == 2
  | _ => false
def Ring.start (x : Ring) : Ring := { x with en := true, head := 0, tail := 0, issued := 0, stop := false }
/-- A ring that has passed its checks is enabled with HEAD and TAIL zero; what was on its way under its old indices has no
user left. -/
def ringStart (b : Block) (n r : Nat) : Block :=
  let drop (d : Dma) : Dma := if ringUse n r d.use then { d with use := .dead } else d
  let b := b.modHub fun h => { h with dmaq := h.dmaq.filter (fun w => !ringUse n r w.use), dma := h.dma.map drop }
  let b := if r = 1 then ringRewind b n else b
  let b := b.modPart n fun p => setRing p r (partRing p r).start
  if r = 0 then b.modPart n fun p => { p with fetchIdx := 0, fetched := [] } else if r = 1 then postAll b n else b
/-- EN is set on a disabled ring: the checks, then the start or the fault. -/
def ringEnable (b : Block) (n r : Nat) : Block :=
  match ringCheck b n r (partRing (b.part n) r) with
  | some (k, st) => if r = 2 then eventRingFault b n st k 0 else ringFault b n r st k 0
  | none => ringStart b n r
/-- A write of RING_CFG[n][r]. While EN = 1 it can only clear EN and FAULT. -/
def writeRingCfg (b : Block) (n r v : Nat) : Block :=
  let b := if bit v 16 then b.modPart n fun p => setRing p r { partRing p r with fault := false } else b
  let x := partRing (b.part n) r
  if x.en then (if bit v 0 then b else b.modPart n fun p => setRing p r { x with en := false })
  else
    let b := b.modPart n fun p => setRing p r (x.config v)
    if bit v 0 then ringEnable b n r else b
/-- The platform ring is a ring of MPA addresses in pages 0 to 511 of one E-die. -/
def platPlace (x : Ring) : Bool := x.base % 64 == 0 && decide (x.base < 1099511627776) && decide (x.base % 274877906944 + 32 * x.size ≤ 1073741824)
/-- EN is set on the disabled platform ring. -/
def platEnable (x : Ring) : Ring := if platPlace x then x.start else { x with fault := true }
/-- A write of the platform ring's CFG. -/
def platConfig (x : Ring) (v : Nat) : Ring :=
  let x := if bit v 16 then { x with fault := false } else x
  if x.en then (if bit v 0 then x else { x with en := false })
  else
    let x : Ring := { x.config v with space := true }
    if bit v 0 then platEnable x else x
def writePlatCfg (b : Block) (v : Nat) : Block := b.modHub fun h => { h with platEvt := platConfig h.platEvt v }

/-! Ends of management requests (R452, R454, R483, R485). -/
/-- The answer of a request on its path: MANSWER while the link is up, the I3C answer, or the word handed to the firmware. -/
def mgmtAnswer (b : Block) (path func tag : Nat) (write : Bool) (st : Status) (data flags : Nat) : Block :=
  match path with
  | 1 => if kwUp b then b.send (.kw 0x04 func tag (if write || st != .done then 0 else 8) st.code 0 data) else b
  | 2 => (b.modHub fun h => { h with i3c := { h.i3c with busy := false, status := st.code, data := if st = .done then data else 0, flags := flags } }).send
      (.i3c ((b.hub.i3c.seq) + st.code * 2 ^ 8 + (if st = .done then data else 0) * 2 ^ 16 + flags * 2 ^ 80))
  | _ => b.send (.fw st.code (if st = .done then data else 0) flags)
/-- The answer of a request that has waited; that of a request of the card from before the link left UP is discarded (R480). -/
def mreqAnswer (b : Block) (q : MReq) (st : Status) (data : Nat) : Block :=
  if q.gone then b else mgmtAnswer b q.path q.func q.tag q.write st data 0
def Block.path (b : Block) (p : Nat) : MPath := mget {} b.hub.paths p
def Block.modPath (b : Block) (p : Nat) (f : MPath → MPath) : Block := b.modHub fun h => { h with paths := mmod {} h.paths p f }
/-- The oldest request of a path that has waited 10 ms ends with TIMEOUT. -/
def mgmtWatchdog (path : Fin 3) (b : Block) : Block :=
  match b.hub.mreqs.find? fun r => r.path == path.val && !r.over_ && decide (r.at_ + 10000000 ≤ b.now) with
  | none => b
  | some r =>
    let b := b.modHub fun h => { h with mreqs := h.mreqs.map fun x => if x == r then { x with over_ := true } else x }
    let b := mreqAnswer b r .timeout 0
    let p := b.path path
    let due : Bool := match p.postAt with | none => true | some t => decide (t + 1000000 ≤ b.now)
    let b := b.modPath path fun p => { p with timeouts := satAdd 16 p.timeouts 1, lastAddr := r.addr }
    if due then
      eventPlat (b.modPath path fun p => { p with postAt := some b.now, sup := 0 }) 0 0x0C05 .timeout 0 chipLoc
        (detail [(16, 1, path.val), (18, 4, r.addr), (22, 2, p.sup)])
    else b.modPath path fun p => { p with sup := p.sup + 1 }

end Sys2Proof.Machine
end

