-- ==== Sys2Proof/Machine/Remit.lean ====
section
/-!
DEFINITION. Machine/Remit.lean: remittance: ports, queue pairs, destinations, packets and their acknowledgement (spec 11).
The layouts of Ethernet, IP, UDP and RoCEv2 headers and the CRC-32 of ICRC and FCS are those of the named standards
(PRESUMED).
-/
namespace Sys2Proof.Machine

/-! Frames on the wire. -/
def crc32Bit (c : Nat) : Nat → Nat
  | 0 => c
  | n + 1 => crc32Bit (if c % 2 = 1 then Nat.xor (c / 2) 0xEDB88320 else c / 2) n
/-- CRC-32 of bytes. -/
def crc32 (l : List Nat) : Nat := Nat.xor (l.foldl (fun c x => crc32Bit (Nat.xor c x) 8) 0xFFFFFFFF) 0xFFFFFFFF
/-- `n` bytes of `v`, most significant first. -/
def be (n v : Nat) : List Nat := (List.range n).map fun i => bits v (8 * (n - 1 - i)) 8
/-- `n` bytes of `v`, least significant first. -/
def le (n v : Nat) : List Nat := (List.range n).map fun i => bits v (8 * i) 8
/-- The Internet checksum of a header. -/
def ipSum (l : List Nat) : Nat :=
  let s := (List.range (l.length / 2)).foldl (fun a i => a + l.getD (2 * i) 0 * 256 + l.getD (2 * i + 1) 0) 0
  let s := s % 65536 + s / 65536
  65535 - (s % 65536 + s / 65536)
/-- Headers, payload, ICRC and FCS of a packet of a queue pair (R320). -/
def frameOf (b : Block) (e : Nat) (q : QP) (k : RPkt) : List Nat :=
  let d := q.desc
  let six := bit (d.u 27 1) 0
  let tos := (d.u 31 1 % 64) * 4 + 2
  let reth := k.op = 0x06 ∨ k.op = 0x0A ∨ k.op = 0x0B
  let bth (m : Bool) : List Nat :=
    [k.op, 0] ++ be 2 0xFFFF ++ [if m then 255 else 0] ++ be 3 (d.u 24 3) ++ [if k.ackReq then 128 else 0] ++ be 3 k.psn
  let ext := (if reth then be 8 k.va ++ be 4 k.rkey ++ be 4 k.dmaLen else []) ++ (if k.op = 0x0B then be 4 k.imm else [])
  let pay := le k.len k.data
  let ulen := 8 + 12 + ext.length + pay.length + 4
  let udp (m : Bool) : List Nat := be 2 (d.u 32 2) ++ be 2 4791 ++ be 2 ulen ++ (if m then [255, 255] else [0, 0])
  let src6 := le 8 (b.reg (remBase e + 0x40 + 16 * q.port)) ++ le 8 (b.reg (remBase e + 0x48 + 16 * q.port))
  let src4 := le 4 (b.reg (remBase e + 0x28 + 8 * q.port))
  let hop := d.u 37 1
  let ip4 (t h s : Nat) : List Nat := [0x45, t] ++ be 2 (20 + ulen) ++ [0, 0, 0x40, 0, h, 17] ++ be 2 s ++ src4 ++ le 4 (d.u 0 4)
  let ip6 (t h : Nat) : List Nat := be 4 (6 * 2 ^ 28 + t * 2 ^ 20 + (if h = 255 then 0xFFFFF else 0)) ++ be 2 ulen ++ [17, h] ++ src6 ++ le 16 (d.u 0 16)
  let ip := if six then be 4 (6 * 2 ^ 28 + tos * 2 ^ 20) ++ be 2 ulen ++ [17, hop] ++ src6 ++ le 16 (d.u 0 16)
    else ip4 tos hop (ipSum (ip4 tos hop 0))
  let masked := if six then ip6 255 255 else ip4 255 255 0xFFFF
  let icrc := crc32 (List.replicate 8 255 ++ masked ++ udp true ++ bth true ++ ext ++ pay)
  let eth := le 6 (d.u 16 6) ++ le 6 (b.reg (remBase e + 0x18 + 8 * q.port)) ++
    (if bit (d.u 27 1) 1 then be 2 0x8100 ++ be 2 (d.u 22 2) else []) ++ be 2 (if six then 0x86DD else 0x0800)
  let body := eth ++ ip ++ udp false ++ bth false ++ ext ++ pay ++ le 4 icrc
  body ++ le 4 (crc32 body)

/-! Queue pairs (R305 to R307). -/
def pmtu (d : Rec) : Nat := 1024 * 2 ^ (d.u 34 1 - 3)
/-- The values a queue-pair descriptor may hold. -/
def qpDescOk (d : Rec) : Bool :=
  let fl := d.u 27 1
  decide (fl < 4) && (bit fl 0 || d.u 4 12 == 0) && decide (d.u 31 1 < 64) && d.u 32 2 != 0 && decide (3 ≤ d.u 34 1) && decide (d.u 34 1 ≤ 5) &&
  decide (1 ≤ d.u 35 1 % 32) && decide (d.u 35 1 % 32 ≤ 20) && decide (d.u 36 1 < 8) && d.u 37 1 != 0 && d.u 38 2 == 0 &&
  decide (4 ≤ d.u 52 1) && decide (d.u 52 1 ≤ 16) && d.u 53 3 == 0 && d.u 60 4 == 0
def qpCount (b : Block) (e n : Nat) : Nat := (b.ed e).qps.countP fun q => q.2.st != 0 && q.2.part == n
def qpQuota (b : Block) (n : Nat) : Nat := bits (b.reg (0xC7F58080 + 8 * n)) 0 13
def freeQp (b : Block) (e : Nat) : Option Nat := (List.range 4096).find? fun i => (b.qp e i).st == 0
def opQpSetup (b : Block) (c : Cmd) : Block :=
  let r := c.desc
  let e := r.u 16 1
  let pva := r.u 24 8
  let ok := pvaOk b c.part .hubRead0 pva 64
  let d : Rec := BitVec.ofNat 512 (pvaRead b c.part .hubRead0 pva 2 64)
  let quota := decide (qpQuota b c.part ≤ qpCount b e c.part) || (freeQp b e).isNone
  checked b c [(!ok, .protection), (pva % 64 != 0 || (ok && d.u 40 8 % 32 != 0), .alignment),
    (!bodyOk r [(16, 2), (24, 8)] || !decide (e < 4) || !decide (r.u 17 1 < 2) || (r.u 17 1 == 1 && !bit (portMode b e) 0) || (ok && !qpDescOk d), .descInvalid),
    (quota, .quota)] fun b =>
    if pvaBad b c.part .hubRead0 pva 64 then finish b c.id .uncorrectable else
    let i := (freeQp b e).getD 0
    let q : QP := { st := 1, part := c.part, port := r.u 17 1, desc := d, nextPsn := d.u 28 3, retries := bits (d.u 35 1) 5 3,
                    rnr := d.u 36 1, rateAt := b.now, ackAt := b.now }
    let b := b.modQp e i fun _ => { q with rate := rateCap b e q }
    finish b c.id .done (e * 4096 + i)
def execQpSetup (n : Fin 16) (r : Rec) (s : State) : Out := act (ringCmd 0x60 opQpSetup n r) s
def opQpReset (b : Block) (c : Cmd) : Block :=
  let qpn := c.desc.u 16 3
  let e := qpn / 4096
  let i := qpn % 4096
  let q := b.qp e i
  checked b c [(decide (qpn < 16384) && q.st != 0 && q.part != c.part, .protection),
    (!bodyOk c.desc [(16, 3)] || !decide (qpn < 16384) || q.st == 0, .descInvalid)] fun b =>
    let b := b.each (remitsOf b e i) fun b r => remitFail b r .cancelled
    finish (b.modQp e i fun _ => {}) c.id .done
def execQpReset (n : Fin 16) (r : Rec) (s : State) : Out := act (ringCmd 0x61 opQpReset n r) s

/-! Destinations (R308, R309). -/
def destDescOk (b : Block) (n : Nat) (d : Rec) : Bool :=
  decide (d.u 36 1 < 8) && decide ((b.model n (d.u 36 1)).pageBytes ≤ d.u 24 4) &&
  decide (d.u 37 1 < 2) && d.u 38 26 == 0 && (List.range 4).all fun e => d.u (28 + 2 * e) 2 == 0xFFFF || decide (d.u (28 + 2 * e) 2 < 4096)
def opDestSet (b : Block) (c : Cmd) : Block :=
  let r := c.desc
  let pva := r.u 24 8
  let ok := pvaOk b c.part .hubRead0 pva 64
  let d : Rec := BitVec.ofNat 512 (pvaRead b c.part .hubRead0 pva 2 64)
  let (base, cnt) := destTable b c.part
  let free := (List.range cnt).find? fun i => !(mget (0, false) b.rem.dests (destKey c.part i)).2
  checked b c [(!ok, .protection), (pva % 64 != 0 || (ok && (d.u 16 8 % 64 != 0 || d.u 24 4 % 64 != 0)), .alignment), (!bodyOk r [(24, 8)] || (ok && !destDescOk b c.part d), .descInvalid),
    (free.isNone, .quota)] fun b =>
    if pvaBad b c.part .hubRead0 pva 64 then finish b c.id .uncorrectable else
    let i := free.getD 0
    let g := (mget (0, false) b.rem.dests (destKey c.part i)).1
    let b := (b.memWrite (base + 64 * i) 64 d.toNat).modRem fun x => { x with dests := mset (0, false) x.dests (destKey c.part i) (g, true) }
    finish b c.id .done (g * 65536 + i)
def execDestSet (n : Fin 16) (r : Rec) (s : State) : Out := act (ringCmd 0x62 opDestSet n r) s
/-- The entry's generation increases at once; the command completes when the old handle's remittances have. -/
def opDestClear (b : Block) (c : Cmd) : Block :=
  let h := c.desc.u 16 4
  let i := h % 65536
  checked b c [(!bodyOk c.desc [(16, 4)] || (destOf b c.part h).isNone, .descInvalid)] fun b =>
    let b := b.modRem fun x => { x with dests := mset (0, false) x.dests (destKey c.part i) ((h / 65536 + 1) % 65536, false),
                                        clears := x.clears ++ [(c.id, c.part, h)] }
    clearsDone (b.each (List.range 4) fun b e => b.modEd e fun x => { x with cache := x.cache.filter (· != (c.part, i, h / 65536)) })
def execDestClear (n : Fin 16) (r : Rec) (s : State) : Out := act (ringCmd 0x63 opDestClear n r) s

/-! Resending (R331, R332). -/
def opResend (b : Block) (c : Cmd) : Block :=
  let r := c.desc
  let h := r.u 16 4
  let x := h % 65536
  let e := b.entry x
  let m := b.model c.part e.model
  let rebind := bit (r.u 24 1) 0
  let nd := r.u 20 4
  let l0 := r.u 26 2
  let ln := r.u 28 2
  let p0 := r.u 32 4
  let pn := r.u 36 4
  let sq := seqCheck b c.part h
  checked b c [(sq == some .protection, .protection),
    (sq == some .descInvalid || !bodyOk r [(16, 9), (26, 4), (32, 8)] || !decide (r.u 24 1 < 2) || !decide (l0 + ln ≤ m.layers) ||
      !decide (p0 + pn ≤ cdiv e.reserved 16) || (rebind && nd != 0xFFFFFFFF && (destOf b c.part nd).isNone), .descInvalid),
    (e.st != 1, .pageAbsent)] fun b =>
    let dest := if rebind then nd else e.dest
    let b := b.modEntry x fun e => { e with dest := dest }
    let pages := (List.range ln).flatMap fun i => (List.range pn).filterMap fun j =>
      let l := mget {} e.leafs (leafKey (l0 + i) (p0 + j))
      let f := b.frame c.part e.model l.frame
      if l.st = 1 ∧ 1 ≤ f.last then some (l0 + i, p0 + j, l.frame, f.last) else none
    let n := if dest = 0xFFFFFFFF then 0 else pages.length
    let b := modCmd b c.id fun c => { c with left := n, result := n }
    let b := b.each pages fun b p => handOff b c.part h dest p.1 p.2.1 e.model p.2.2.1 p.2.2.2 c.attr true (some c.id)
    if n = 0 then finish b c.id .done else b
def execResend (n : Fin 16) (r : Rec) (s : State) : Out := act (ringCmd 0x64 opResend n r) s

/-! From request to egress store (R311, R313). -/
/-- The checks of R311, with the destination descriptor and queue pair. -/
def remitCheck (b : Block) (r : Remit) : Except Status (Rec × Nat) :=
  match destOf b r.part r.dest with
  | none => .error .descInvalid
  | some d =>
    let i := d.u (28 + 2 * r.edie) 2
    let m := b.model r.part r.model
    let last := d.u 0 8 + r.layer * d.u 16 8 + r.page * d.u 24 4 + m.pageBytes
    if d.u 36 1 ≠ r.model ∨ i = 0xFFFF ∨ 2 ^ 64 < last then .error .descInvalid
    else
      let q := b.qp r.edie i
      if q.st = 0 ∨ q.part ≠ r.part then .error .protection
      else if q.st = 2 then .error (.ofCode q.err) else .ok (d, i)
/-- Looks a destination up in the E-die's descriptor cache of 1,024 entries, least recently used out. -/
def destCache (b : Block) (e : Nat) (k : Nat × Nat × Nat) : Bool × Block :=
  let hit := (b.ed e).cache.contains k
  let b := b.modEd e fun x => { x with cache := (k :: x.cache.filter (· != k)).take 1024 }
  (hit, if hit then b else remCount b e 0x838)
def remitHead (b : Block) (e : Nat) : Option Remit := (b.ed e).q.head?.bind fun id => b.rem.remits.find? fun r => r.id == id
def remitData (b : Block) (r : Remit) : Nat := let m := b.model r.part r.model; if r.c = 16 then m.pageBytes else 2 * m.kvHeads * r.c * m.headDim
def modRemit (b : Block) (id : Nat) (f : Remit → Remit) : Block :=
  b.modRem fun x => { x with remits := x.remits.map fun r => if r.id = id then f r else r }
/-- The head request's checks (R311). `fast` notes that the conditions of R319 hold. -/
def remitRequest (e : Fin 4) (b : Block) : Block :=
  match remitHead b e with
  | none => b
  | some r =>
    if r.checked then b else
    let (hit, b) := destCache b e (r.part, r.dest % 65536, r.dest / 65536)
    match remitCheck b r with
    | .error st => remitFail b r st
    | .ok (d, i) =>
      let q := b.qp e i
      let n := remitData b r
      let fast := hit && decide (q.outstanding.length < 4096) && decide (q.freeAt ≤ b.now) && (b.port e q.port).up &&
        decide ((b.port e q.port).busyTill ≤ b.now) && decide ((b.ed e).used + n ≤ egressBytes) &&
        !((b.ed e).qps.any fun x => x.2.port == q.port && decide (x.2.done < x.2.pkts.length))
      modRemit b r.id fun r => { r with checked := true, qp := some i, descr := d, bytes := n, fast := fast }
def execRemitRequest (e : Fin 4) (s : State) : Out := act (remitRequest e) s
/-- The packets of one RDMA WRITE of `len` bytes, from PSN `psn`. -/
def writePkts (mtu va rkey len : Nat) (data : Nat) (id psn : Nat) (first : Bool) : List RPkt :=
  let n := max 1 (cdiv len mtu)
  (List.range n).map fun i =>
    let l := min mtu (len - i * mtu)
    { psn := (psn + i) % 2 ^ 24, op := if n = 1 then 0x0A else if i = 0 then 0x06 else if i + 1 = n then 0x08 else 0x07,
      va := va, rkey := rkey, dmaLen := len, ackReq := i + 1 == n, len := l, data := bits data (8 * i * mtu) (8 * l), remit := id,
      first := first && i == 0 }
/-- The valid bytes of the head request's page enter the egress store, its pin ends, and its packets and notice join the
queue pair (R313 to R315). -/
def remitFrameRead (e : Fin 4) (b : Block) : Block :=
  match remitHead b e with
  | none => b
  | some r =>
    match r.checked, r.qp with
    | true, some i =>
      if egressBytes < (b.ed e).used + r.bytes then b else
      let m := b.model r.part r.model
      let q := b.qp e i
      let base := frameMpa b r.part r.model r.frame
      let part := 16 * m.headDim
      let runs : List (Nat × Nat) := if r.c = 16 then [(0, m.pageBytes)] else (List.range (2 * m.kvHeads)).map fun k => (k * part, r.c * m.headDim)
      let (bad, b) := memChecks b r.part (runs.map fun x => (base + x.1, x.2))
      if bad then remitFail b r .uncorrectable else
      let d := r.descr
      let va := d.u 0 8 + r.layer * d.u 16 8 + r.page * d.u 24 4
      let data := runs.foldl (fun (a : List RPkt) x =>
        a ++ writePkts (pmtu q.desc) (va + x.1) (d.u 8 4) x.2 (b.memRead (base + x.1) x.2) r.id (q.nextPsn + a.length) a.isEmpty) []
      let seq := q.noticeSeq
      let rec_ := d.u 12 4 + r.layer * 2 ^ 32 + r.c * 2 ^ 48 + (b2n r.resend + 2 * b2n (r.c = 16)) * 2 ^ 56 + r.page * 2 ^ 64 +
        r.serial * 2 ^ 128 + r.time * 2 ^ 192
      let notice : List RPkt := if bit (d.u 37 1) 0 then
        [{ psn := (q.nextPsn + data.length) % 2 ^ 24, op := 0x0B, va := q.desc.u 40 8 + 32 * (seq % 2 ^ q.desc.u 52 1), rkey := q.desc.u 48 4,
           dmaLen := 32, imm := seq % 2 ^ 32, ackReq := true, len := 32, data := rec_, remit := r.id }] else []
      let all := data ++ notice
      let b := remitUnpin b r
      let b := modRemit b r.id fun r => { r with read := true, left := all.length, held := r.bytes }
      let b := b.modEd e fun x => { x with q := x.q.filter (· != r.id), used := x.used + r.bytes }
      b.modQp e i fun q => { q with pkts := q.pkts ++ all, nextPsn := (q.nextPsn + all.length) % 2 ^ 24, noticeSeq := q.noticeSeq + notice.length }
    | _, _ => b
def execRemitFrameRead (e : Fin 4) (s : State) : Out := act (remitFrameRead e) s

/-! Sending (R318, R320, R323). -/
/-- The queue pair of a port that sends next: round robin over those with a packet ready. -/
def qpPick (b : Block) (e p : Nat) : Option Nat :=
  let ready := ((b.ed e).qps.filter fun x => x.2.st == 1 && x.2.port == p && decide (x.2.done < x.2.pkts.length) && decide (x.2.done < 4096) &&
    x.2.rnrAt.isNone && decide (x.2.freeAt ≤ b.now)).map (·.1)
  let rr := (b.port e p).rr
  match ready.find? (fun i => decide (rr < i)) with | some i => some i | none => ready.head?
def portReady (b : Block) (e p : Nat) : Bool :=
  (b.port e p).up && (b.port e p).pauseAt.isNone && bit (portMode b e) (1 + p) && b.hub.fatal.isNone
def packetTransmit (e : Fin 4) (p : Fin 2) (b : Block) : Block :=
  if !portReady b e p then b else
  match qpPick b e p with
  | none => b
  | some i =>
    let q := b.qp e i
    match q.pkts[q.done]? with
    | none => b
    | some k =>
      let fr := frameOf b e q k
      let wire := fr.length + 20
      let b := b.send (.eth e p (fr.length, fr.foldr (fun x a => x + 256 * a) 0))
      let b := remCount (remCount b e 0x800) e 0x808 wire
      let b := if k.sent.isSome then remCount b e 0x810 else b
      let b := b.modPort e p fun x => { x with rr := i, busyTill := b.now + wire * 8000 / lineRate b e }
      let r := b.rem.remits.find? fun r => r.id == k.remit
      let b := match r with
        | none => b
        | some r =>
          let b := b.count (0xC7F71000 + 0x100 * r.part + 0x20 * r.attr + 24) wire
          if k.first && !r.wired then
            let ns := b.now - r.handed
            let b := modRemit b r.id fun r => { r with wired := true }
            b.modEd e fun x => { x with wireLast := min 65535 ns, wireMax := if r.fast then max x.wireMax (min 65535 ns) else x.wireMax,
                                        wireOther := if r.fast then x.wireOther else max x.wireOther ns }
          else b
      b.modQp e i fun q => { q with pkts := q.pkts.set q.done { k with sent := some b.now }, done := q.done + 1,
                                    freeAt := b.now + wire * 8000 / max 1 q.rate }
def execPacketTransmit (e : Fin 4) (p : Fin 2) (s : State) : Out := act (packetTransmit e p) s

/-! Acknowledgement (R321, R322, R324). -/
/-- Completes a remittance whose last packet has been acknowledged. -/
def remitDone (b : Block) (r : Remit) : Block :=
  let n := r.part
  let b := partRemCount (partRemCount b n 0) n 1 r.bytes
  let b := if r.c < 16 then partRemCount b n 2 else b
  remitGone b r .done
/-- Packets up to a position of the queue pair have been acknowledged; their payload leaves the egress store (R313). -/
def ackPkts (e i : Nat) : Nat → Block → Block
  | 0, b => b
  | n + 1, b =>
    match (b.qp e i).pkts with
    | [] => b
    | k :: rest =>
      let b := b.modQp e i fun q => { q with pkts := rest, done := q.done - 1 }
      let b := if k.op = 0x0B then partRemCount b (b.qp e i).part 6 else b
      let n' := if k.op = 0x0B then 0 else k.len
      let b := (modRemit b k.remit fun r => { r with left := r.left - 1, held := r.held - n' }).modEd e fun x => { x with used := x.used - n' }
      let b := match b.rem.remits.find? fun r => r.id == k.remit with
        | some r => if r.left = 0 then remitDone b r else b
        | none => b
      ackPkts e i n b
/-- Sending resumes at the oldest unacknowledged packet. -/
def resumeQp (b : Block) (e i : Nat) : Block := b.modQp e i fun q => { q with done := 0, ackAt := b.now }
/-- RNR timer codes in units of 10 µs (PRESUMED: the RoCEv2 RNR timer table). -/
def rnrUnits : List Nat := [65536, 1, 2, 3, 4, 6, 8, 12, 16, 24, 32, 48, 64, 96, 128, 192, 256, 384, 512, 768, 1024, 1536, 2048, 3072, 4096,
  6144, 8192, 12288, 16384, 24576, 32768, 49152]
/-- The received Acknowledge of PSN `psn` with AETH syndrome `syn` for queue pair `i`, from address `ip`. -/
def acknowledge (e : Fin 4) (p : Fin 2) (i : Fin 4096) (psn : BitVec 24) (syn : BitVec 8) (ip : BitVec 128) (b : Block) : Block :=
  let q := b.qp e i
  let bad (b : Block) (j : Nat) : Block :=
    (remCount b e (0x840 + 8 * j)).modPort e p fun x => { x with viol := mmod 0 x.viol j (· + 1) }
  if !(b.port e p).up then b
  else if q.st = 0 ∨ q.port ≠ p.val ∨ ip.toNat ≠ q.desc.u 0 16 then bad b 2
  else if q.st = 2 then bad b 5
  else match q.outstanding.findIdx? fun k => k.psn == psn.toNat with
  | none => bad b 5
  | some j =>
    let kind := bits syn.toNat 5 3
    let code := syn.toNat % 32
    if kind = 0 then
      (ackPkts e i (j + 1) b).modQp e i fun q => { q with retries := bits (q.desc.u 35 1) 5 3, rnr := q.desc.u 36 1 }
    else if kind = 1 then
      let b := remCount (ackPkts e i j b) e 0x820
      if q.rnr = 0 then qpError b e i .remoteNak syn.toNat psn.toNat
      else b.modQp e i fun q => { q with done := 0, ackAt := b.now, rnr := if q.rnr = 7 then 7 else q.rnr - 1, rnrAt := some (b.now + 10000 * rnrUnits.getD code 0) }
    else if kind = 3 ∧ code = 0 then
      let b := remCount (ackPkts e i j b) e 0x828
      if (b.qp e i).retries = 0 then qpError b e i .timeout syn.toNat psn.toNat
      else (resumeQp b e i).modQp e i fun q => { q with retries := q.retries - 1 }
    else if kind = 3 ∧ code ≤ 3 then qpError b e i .remoteNak syn.toNat psn.toNat
    else qpError (bad b 6) e i .remoteNak syn.toNat psn.toNat
def execAcknowledge (e : Fin 4) (p : Fin 2) (i : Fin 4096) (psn : BitVec 24) (syn : BitVec 8) (ip : BitVec 128) (s : State) : Out :=
  act (acknowledge e p i psn syn ip) s
def rnrTimer (e : Fin 4) (i : Fin 4096) (b : Block) : Block :=
  match (b.qp e i).rnrAt with
  | some t => if t ≤ b.now then b.modQp e i fun q => { q with rnrAt := none, ackAt := b.now } else b
  | none => b
def execRnrTimer (e : Fin 4) (i : Fin 4096) (s : State) : Out := act (rnrTimer e i) s
/-- The oldest outstanding packet is unacknowledged for the bound since it was sent, or since sending last resumed (R322). -/
def ackTimeout (e : Fin 4) (i : Fin 4096) (b : Block) : Block :=
  let q := b.qp e i
  match q.outstanding with
  | [] => b
  | k :: _ =>
    if q.st ≠ 1 ∨ q.rnrAt.isSome ∨ !(b.port e q.port).up ∨ b.now < max (k.sent.getD 0) q.ackAt + 4096 * 2 ^ (q.desc.u 35 1 % 32) then b else
    let b := remCount b e 0x818
    if q.retries = 0 then qpError b e i .timeout 0 k.psn
    else (resumeQp b e i).modQp e i fun q => { q with retries := q.retries - 1 }
def execAckTimeout (e : Fin 4) (i : Fin 4096) (s : State) : Out := act (ackTimeout e i) s
/-- A congestion notification packet: acted on at most once per 50 µs, and only counted otherwise (R323, R329). -/
def congestionNotification (e : Fin 4) (p : Fin 2) (i : Fin 4096) (ip : BitVec 128) (b : Block) : Block :=
  let q := b.qp e i
  if !(b.port e p).up then b
  else if q.st = 0 ∨ q.port ≠ p.val ∨ ip.toNat ≠ q.desc.u 0 16 then
    (remCount b e 0x850).modPort e p fun x => { x with viol := mmod 0 x.viol 2 (· + 1) }
  else if q.cnpAt.any fun t => decide (b.now < t + 50000) then remCount b e 0x878
  else (remCount b e 0x830).modQp e i fun q => { q with rate := min q.rate (max 1000 (q.rate / 2)), cnpAt := some b.now, rateAt := b.now }
def execCongestionNotification (e : Fin 4) (p : Fin 2) (i : Fin 4096) (ip : BitVec 128) (s : State) : Out :=
  act (congestionNotification e p i ip) s
def rateRecovery (e : Fin 4) (i : Fin 4096) (b : Block) : Block :=
  let q := b.qp e i
  if q.st = 0 ∨ b.now < q.rateAt + 50000 then b else
  let cap := rateCap b e q
  b.modQp e i fun q => { q with rate := min cap (q.rate + cap / 8), rateAt := b.now }
def execRateRecovery (e : Fin 4) (i : Fin 4096) (s : State) : Out := act (rateRecovery e i) s

/-! Received frames (R304, R329, R330). -/
/-- Which counter of R329's table a received frame that is no Acknowledge adds to: 0 bad frame, 1 not RoCEv2, 2 unknown
queue pair, 3 request, 4 other response; none for an Acknowledge or a congestion notification. -/
def rxClass (b : Block) (e p : Nat) (fr : Bytes) : Option Nat :=
  let n := fr.len
  let at_ (i k : Nat) : Nat := (List.range k).foldl (fun a j => a * 256 + bits fr.val (8 * (i + j)) 8) 0
  let l : List Nat := le n fr.val
  if n < 64 ∨ 9216 < n then some 0
  else if crc32 (l.take (n - 4)) ≠ ofLe (l.drop (n - 4)) then some 0
  else
    let vlan := at_ 12 2 = 0x8100
    let o := if vlan then 18 else 14
    let ety := at_ (o - 2) 2
    let six := ety = 0x86DD
    let u := o + (if six then 40 else 20)
    let proto := if six then at_ (o + 6) 1 else at_ (o + 9) 1
    let mac := ofLe (l.take 6) = bits (b.reg (remBase e + 0x18 + 8 * p)) 0 48
    let ip := if six then b.reg (remBase e + 0x40 + 16 * p) + b.reg (remBase e + 0x48 + 16 * p) * 2 ^ 64 else b.reg (remBase e + 0x28 + 8 * p) % 2 ^ 32
    let own := ip ≠ 0 ∧ ofLe (if six then (l.drop (o + 24)).take 16 else (l.drop (o + 16)).take 4) = ip
    let ihl := six ∨ at_ o 1 = 0x45
    if (ety ≠ 0x0800 ∧ ¬six) ∨ ¬ihl ∨ proto ≠ 17 ∨ at_ (u + 2) 2 ≠ 4791 then some 1
    else
      let t := u + 8
      let ulen := at_ (u + 4) 2
      let head := (l.drop o).take (u - o)
      let mask := if six then
          (List.range head.length).map fun i => if i = 0 then Nat.lor (head.getD 0 0) 15 else if i < 4 ∨ i = 7 then 255 else head.getD i 0
        else (List.range head.length).map fun i => if [1, 8, 10, 11].contains i then 255 else head.getD i 0
      let udp := (l.drop u).take 6 ++ [255, 255]
      let bth := (List.range 12).map fun i => if i = 4 then 255 else l.getD (t + i) 0
      let rest := (l.drop (t + 12)).take (ulen - 8 - 12 - 4)
      let icrc := ofLe ((l.drop (u + ulen - 4)).take 4)
      if ulen < 24 ∨ n < u + ulen + 4 ∨ crc32 (List.replicate 8 255 ++ mask ++ udp ++ bth ++ rest) ≠ icrc then some 0
      else if ¬mac ∨ ¬own then some 1
      else
        let op := at_ t 1
        let qpn := at_ (t + 5) 3
        let q := b.qp (qpn / 4096) (qpn % 4096)
        let from_ := if six then ofLe ((l.drop (o + 8)).take 16) else ofLe ((l.drop (o + 12)).take 4)
        if qpn / 4096 ≠ e ∨ q.st = 0 ∨ q.port ≠ p ∨ from_ ≠ q.desc.u 0 16 ∨ bit (q.desc.u 27 1) 0 ≠ decide six then some 2
        else if op = 0x11 ∨ op = 0x81 then none
        else if op % 32 ≤ 0x0C ∨ op % 32 = 0x13 ∨ op % 32 = 0x14 ∨ op % 32 = 0x16 ∨ op % 32 = 0x17 then some 3 else some 4
where
  ofLe (l : List Nat) : Nat := l.foldr (fun x a => x + 256 * a) 0
def rxFrame (e : Fin 4) (p : Fin 2) (fr : Bytes) (b : Block) : Block :=
  if !(b.port e p).up then b else
  match rxClass b e p fr with
  | some j => (remCount b e (0x840 + 8 * j)).modPort e p fun x => { x with viol := mmod 0 x.viol j (· + 1) }
  | none => b
def execRxFrame (e : Fin 4) (p : Fin 2) (fr : Bytes) (s : State) : Out := act (rxFrame e p fr) s
/-- A received priority pause of `ns` nanoseconds on class `cls`; zero ends a pause. -/
def priorityPause (e : Fin 4) (p : Fin 2) (cls : Fin 8) (ns : Nat) (b : Block) : Block :=
  if !(b.port e p).up || bits (portMode b e) 3 3 != cls.val then b
  else b.modPort e p fun x => { x with pauseAt := if ns = 0 then none else some (b.now + ns) }
def execPriorityPause (e : Fin 4) (p : Fin 2) (cls : Fin 8) (ns : Nat) (s : State) : Out := act (priorityPause e p cls ns) s
def pauseExpiry (e : Fin 4) (p : Fin 2) (b : Block) : Block :=
  match (b.port e p).pauseAt with
  | some t => if t ≤ b.now then b.modPort e p fun x => { x with pauseAt := none } else b
  | none => b
def execPauseExpiry (e : Fin 4) (p : Fin 2) (s : State) : Out := act (pauseExpiry e p) s
def peerViolation (e : Fin 4) (p : Fin 2) (b : Block) : Block :=
  let x := b.port e p
  let d := (List.range 7).map fun j => min 65535 (mget 0 x.viol j - mget 0 x.violSeen j)
  if d.all (· == 0) || (x.violAt.any fun t => decide (b.now < t + 10000000)) then b else
  let b := b.modPort e p fun x => { x with violSeen := x.viol, violAt := some b.now }
  eventPlat b 0 0x0604 .done 0 (regionLoc (20 + e)) (detail ((16, 1, p.val) :: (List.range 7).map fun j => (18 + 2 * j, 2, d.getD j 0)))
def execPeerViolation (e : Fin 4) (p : Fin 2) (s : State) : Out := act (peerViolation e p) s

/-! Links (R303, R326, R548). -/
/-- Whether port `p` exists in the mode and is enabled. -/
def portOn (b : Block) (e p : Nat) : Bool := bit (portMode b e) (1 + p) && (p == 0 || bit (portMode b e) 0)
/-- The electrical interface of a port (R535): the strap's, or with strap 0 what auto-negotiation chose of CR and KR. -/
def portIface (b : Block) (auto : Nat) : Nat := match b.pins.iface with
  | 1 => 1
  | 2 => 2
  | 3 => 0
  | _ => auto % 2
def portLinkUp (e : Fin 4) (p : Fin 2) (iface : Fin 3) (b : Block) : Block :=
  let x := b.port e p
  let d := mget {} b.clk.doms (8 * (20 + e) + 3)
  if !portOn b e p || x.up || !d.locked || d.stopped || d.inReset then b else
  let us := (b.now - x.since) / 1000
  let b := portEvent (b.modPort e p fun x => { x with up := true, iface := portIface b iface, since := b.now, lostAt := none }) e p true us
  b.each ((b.ed e).qps.filter fun q => q.2.st == 1 && q.2.port == p.val) fun b q => resumeQp b e q.1
def execPortLinkUp (e : Fin 4) (p : Fin 2) (iface : Fin 3) (s : State) : Out := act (portLinkUp e p iface) s
def execPortLinkDown (e : Fin 4) (p : Fin 2) (s : State) : Out := act (fun b => portDown b e p) s
def holdMs (b : Block) (e : Nat) : Nat := bits (b.reg (remBase e + 0x60) 50) 0 10
def portHoldExpiry (e : Fin 4) (p : Fin 2) (b : Block) : Block :=
  match (b.port e p).lostAt with
  | some t =>
    if b.now < t + 1000000 * holdMs b e then b else
    let b := b.modPort e p fun x => { x with lostAt := none }
    b.each ((b.ed e).qps.filter fun q => q.2.st == 1 && q.2.port == p.val) fun b q =>
      qpError b e q.1 .linkDown 0 ((q.2.pkts.headD { psn := q.2.nextPsn, op := 0, len := 0, data := 0, remit := 0 }).psn)
  | none => b
def execPortHoldExpiry (e : Fin 4) (p : Fin 2) (s : State) : Out := act (portHoldExpiry e p) s
/-- A write of PORT_MODE (R303): a change of MODE while EN is not 0 is not performed and sets MODE_REFUSED. -/
def writePortMode (b : Block) (e v : Nat) : Block :=
  let old := portMode b e
  let clear := if bit v 6 then 0 else bits old 6 1
  if bit v 0 != bit old 0 && bits old 1 2 != 0 then b.setReg (remBase e) 24 (bits old 0 6 + 64)
  else
    let b := b.setReg (remBase e) 24 (bits v 0 6 + clear * 64)
    b.each [0, 1] fun b p =>
      if bit old (1 + p) && !bit v (1 + p) then portDown b e p
      else if !bit old (1 + p) && bit v (1 + p) then b.modPort e p fun x => { x with since := b.now } else b

end Sys2Proof.Machine
end

