-- ==== Sys2Proof/Machine/Clock.lean ====
section
/-!
DEFINITION. Machine/Clock.lean: references, PLLs, stopped clocks, resets, module time, start-up (spec 16), and the input
power of the module (spec 20).
-/
namespace Sys2Proof.Machine

/-! Domains (R444 to R446). -/
/-- Whether die `r` has domain `d`: ACLK on C-dies; MCLK, ECLK, FCLK on E-dies; KCLK, QCLK on the H-die; NCLK on all. -/
def hasDom (r d : Nat) : Bool :=
  d == 1 || (decide (r < 20) && d == 0) || (decide (20 ≤ r) && decide (r < 24) && decide (2 ≤ d) && decide (d ≤ 4)) || (r == 24 && (d == 5 || d == 6))
/-- Whether the reference that feeds a domain of die `r` is absent. -/
def refAbsent (b : Block) (r d : Nat) : Bool := if d = 3 then mget false b.clk.absent156 r else mget false b.clk.absent100 r
def lockDom (b : Block) (r d : Nat) : Block := b.modDom r d fun x => { x with locked := true, on := true }

/-! Module reset (R455, R457, R535). -/
/-- Everything but what a reset keeps: fuses and flash, the pins, references and input, RESET_CAUSE, and the model's own
counts. -/
def resetBlock (b : Block) (cause dom reg : Nat) : Block :=
  let c := b.clk
  { now := b.now, aclk := b.aclk, mtOff := b.mtOff, sent := b.sent, free := b.free, hub := { nextId := b.hub.nextId }, kept := b.kept,
    pins := { b.pins with faultKept := b.pins.faultKept || b.hub.fatal.isSome, ir := if 4 ≤ b.pins.ir then 1 else b.pins.ir },
    clk := { absent100 := c.absent100, absent156 := c.absent156, power := c.power, powerAt := c.powerAt, pgood := c.pgood, latched := c.latched,
             modResetN := c.modResetN, stepAt := c.stepAt, cause := cause, causeDom := dom, causeReg := reg } }
/-- FAULT_N is asserted (R536). -/
def faultDriven (b : Block) : Bool := b.clk.failed || b.hub.fatal.isSome || b.pins.faultKept
/-- A PWR_ALERT_N that is still asserted when the module comes out of reset holds again; it was counted at its assertion (R439, R540). -/
def alertKeep (b : Block) : Block :=
  if b.pins.alert then { b with pow := { b.pow with alert := some b.now, alertHold := true, alertEmer := true } } else b
/-- Boot step 1 starts when power is good, MOD_RESET_N is released, no thermal trip is latched and REFCLK_100 is present. -/
def bootStart (b : Block) : Block :=
  let c := b.clk
  if !c.power || !c.pgood || c.latched || !c.modResetN || b.pins.tripped || c.up || c.absent100.any (·.2) then b else
  let k := b.kept.releases
  let b : Block := { b with mtOff := 2 ^ 64 - b.now % 2 ^ 64,
                            pins := { b.pins with addr := (Config.addrStrap k).toNat, iface := (Config.ifaceStrap k).toNat } }
  alertKeep ((b.modKept fun x => { x with releases := k + 1 }).modClk fun c => { c with up := true, step := 1, stepAt := b.now })
/-- What a reset or the loss of power releases: READY_N, and FAULT_N where a failed boot step alone asserts it or `all` do (R536,
R538). -/
def pinsRelease (b : Block) (all : Bool) : Block :=
  let on := faultDriven b && (all || (b.hub.fatal.isNone && !b.pins.faultKept))
  let b := if b.clk.ready && b.hub.fatal.isNone then b.send (.pin 0 false) else b
  if on then b.send (.pin 1 false) else b
/-- A module reset: its pins are released, all state is lost, and boot starts again as soon as it may. -/
def moduleReset (b : Block) (cause dom reg : Nat) : Block :=
  let b := pinsRelease b false
  bootStart (resetBlock b cause dom reg)

/-! References (R445). -/
/-- 200 ns without edges: the flag is set and every PLL that the input feeds drops its lock; REFCLK_100 resets the module. -/
def refclkAbsent (r : Fin 25) (eth : Bool) (b : Block) : Block :=
  if eth then
    if r.val < 20 ∨ r.val = 24 then b else
    (b.modClk fun c => { c with absent156 := mset false c.absent156 r true }).modDom r 3 fun x => { x with locked := false }
  else
    let b := b.modClk fun c => { c with absent100 := mset false c.absent100 r true }
    if hubUp b then moduleReset b 3 0 0 else b
def execRefclkAbsent (r : Fin 25) (eth : Bool) (s : State) : Out := run (refclkAbsent r eth) s
/-- 100 µs of edges: the flag clears; a module that waits for REFCLK_100 boots. -/
def refclkReturn (r : Fin 25) (eth : Bool) (b : Block) : Block :=
  if eth then b.modClk fun c => { c with absent156 := mset false c.absent156 r false }
  else bootStart (b.modClk fun c => { c with absent100 := mset false c.absent100 r false })
def execRefclkReturn (r : Fin 25) (eth : Bool) (s : State) : Out := act (refclkReturn r eth) s
/-- The cells of a region. -/
def regionCells (r : Nat) : List Nat := (List.range 40).map (40 * r + ·)
/-- Freezes or releases what a domain clocks: a C-die's cells, the Kwasar link. -/
def freeze (b : Block) (r d : Nat) (on : Bool) : Block := match d with
  | 0 => if !on && b.hub.fatal.isSome then b else b.each (regionCells r) fun b k => b.modCell k fun c => { c with stopped := on }
  | 5 => b.modHub fun h => { h with kw := { h.kw with frozen := on } }
  | _ => b
/-- A PLL whose input is present locks, and its clock is released. -/
def pllLock (r : Fin 25) (d : Fin 7) (b : Block) : Block :=
  if !hubUp b || decide (b.clk.step < 4) || !hasDom r d || (b.dom r d).locked || refAbsent b r d then b else
  let was := b.dom r d
  let b := lockDom b r d
  if was.stopped && !was.inReset then freeze (b.modDom r d fun x => { x with stopped := false }) r d false else b
/-- A domain's clock stops: its reference is absent, or its PLL has lost lock. MCLK, NCLK and QCLK reset the module. -/
def clockStopped (r : Fin 25) (d : Fin 7) (b : Block) : Block :=
  let x := b.dom r d
  if !hubUp b || !hasDom r d || !x.on || x.stopped || x.inReset then b else
  let b := b.modDom r d fun x => { x with locked := false, stopped := true, stopAt := b.now }
  let b := eventPlat b 0 0x0B01 .done 2 (regionLoc r) (detail [(16, 1, d.val), (17, 1, b2n (!refAbsent b r d))])
  match d.val with
  | 0 | 5 => freeze b r d true
  | 3 => portDown (portDown b (r.val - 20) 0) (r.val - 20) 1
  | 4 => b
  | _ => moduleReset b 4 d r
def execClockStopped (r : Fin 25) (d : Fin 7) (s : State) : Out := run (clockStopped r d) s

/-! Domain resets (R453, R455, R456, R550). -/
/-- The clock domain of a management register: region and code. -/
def regDomain (a : Nat) : Nat × Nat :=
  let r := a / 2 ^ 27
  let blk := bits a 24 3
  let cell := bits a 20 4
  let off := a % 2 ^ 20
  if r = 24 then (24, 6)
  else if 20 ≤ r then
    if 0x30040 ≤ off && off < 0x30080 then (r, 4)
    else if 0x30800 ≤ off && off < 0x30A00 then (r, 4)
    else if 0x20008 ≤ off && off < 0x20018 then (r, 3)
    else (r, 1)
  else if blk < 5 && cell < 8 then (r, 0)
  else (r, 1)
/-- Answers the management requests that wait for a domain with LINK_DOWN, and how many. -/
def flushRequests (b : Block) (r d : Nat) : Nat × Block :=
  let mine := b.hub.mreqs.filter fun q => regDomain q.addr == (r, d)
  let live := mine.filter fun q => !q.over_
  let b := b.modHub fun h => { h with mreqs := h.mreqs.filter fun q => regDomain q.addr != (r, d) }
  let b := b.each (mine.filter fun q => q.over_) fun b q => b.modPath q.path fun p => { p with late := true }
  (live.length, b.each live fun b q => mreqAnswer b q .linkDown 0)
/-- What a domain reset does beyond the flush: partitions aborted, and requests answered LINK_DOWN. -/
def resetEffect (b : Block) (r d : Nat) : Nat × Nat × Block := match d with
  | 0 =>
    let parts := (List.range 16).filter fun n => (b.part n).st == .active && (List.range 5).any fun k => bit (b.part n).blocks (5 * r + k)
    let b := b.each parts fun b n => killPart b n 2
    (parts.length, 0, b.each (regionCells r) fun b k => coinReturn (b.modCell k fun c => { (c.startZero b.cycles) with stopped := true }) k)
  | 3 => (0, 0, portDown (portDown b (r - 20) 0) (r - 20) 1)
  | 4 => (0, 0, b.each ((List.range 6).map (6 * (r - 20) + ·)) fun b p => if (b.link p).st = 0 ∨ (b.link p).st = 4 then b else linkDown b p 2)
  | 5 =>
    let n := b.hub.dma.length + b.hub.dmaq.length
    (0, n, if b.hub.kw.st = 4 then b else kwFlush (kwTo b 4 4))
  | _ => (0, 0, b)
/-- A domain enters reset; a second cause only keeps it there. -/
def enterReset (b : Block) (r d cause : Nat) : Block :=
  if (b.dom r d).inReset then b.modDom r d fun x => { x with causes := x.causes ++ [cause] } else
  let b := b.modDom r d fun x => { x with inReset := true, causes := [cause] }
  let (n, b) := flushRequests b r d
  let (parts, m, b) := resetEffect b r d
  eventPlat b 0 0x0B02 (if n + m = 0 then .done else .linkDown) 2 (regionLoc r)
    (detail [(16, 1, d), (17, 1, 1), (18, 1, cause), (20, 4, n + m), (24, 4, parts)])
def holdResetMs (b : Block) : Nat := b.reg 0xC7F90218 20
/-- CLK_STOP_HOLD_MS after a stop the domain is put into reset. -/
def clkStopHoldExpiry (r : Fin 25) (d : Fin 7) (b : Block) : Block :=
  let x := b.dom r d
  if !x.stopped || x.inReset || decide (b.now < x.stopAt + 1000000 * holdResetMs b) then b else enterReset b r d 0
def execClkStopHoldExpiry (r : Fin 25) (d : Fin 7) (s : State) : Out := run (clkStopHoldExpiry r d) s
/-- The domains of die `r` that a write of DOMAIN_RESET can reset. -/
def resetDoms (r : Nat) : List Nat := if r < 20 then [0] else if r < 24 then [3, 4] else [5]
/-- A write of DOMAIN_RESET, which acts from boot step 6. -/
def writeDomainReset (b : Block) (r v : Nat) : Block := b.each ((resetDoms r).filter fun d => bit v d) fun b d => enterReset b r d 1
/-- The cleanup of a C-die's cells before ACLK is released: each is zeroed in 1,536 cycles, and one that was being zeroed reports it
(R157, R456). -/
def cellsCleanup (b : Block) (r : Nat) : Block :=
  b.each (regionCells r) fun b k =>
    let c := b.cell k
    let b := b.modCell k fun c => { c with store := [], serr := [], tags := [], ranges := [], refetch := [], bufs := [], codeKib := 0, codeCount := 0,
                                           zeroing := false }
    if c.zeroing then eventPlat b c.part 0x0206 .done 0 (cellLoc k 3) (detail [(16, 1, c.part), (20, 4, 1536)]) else b
/-- Every cause has cleared and the PLL is locked: the cleanup is done and the domain is released. -/
def domainResetRelease (r : Fin 25) (d : Fin 7) (b : Block) : Block :=
  let x := b.dom r d
  if !x.inReset || !x.locked || refAbsent b r d then b else
  let b := b.modDom r d fun x => { x with inReset := false, stopped := false, causes := [] }
  let b := match d.val with
    | 0 => freeze (cellsCleanup b r) r 0 false
    | 5 => kwTo (freeze b r 5 false) 1 0
    -- an Ethernet port counts its time from here (R548)
    | 3 => if r.val < 20 ∨ r.val = 24 then b else b.each [0, 1] fun b p => b.modPort (r.val - 20) p fun x => { x with since := b.now }
    | _ => b
  eventPlat b 0 0x0B02 .done 0 (regionLoc r) (detail [(16, 1, d.val), (18, 1, x.causes.headD 0)])
def execDomainResetRelease (r : Fin 25) (d : Fin 7) (s : State) : Out := act (domainResetRelease r d) s

/-! Input power and MOD_RESET_N (R455, R527, R528). -/
/-- The input passes 39.5 V: boot step 0 begins, with module reset held. -/
def powerInputRise (b : Block) : Block :=
  if b.clk.power || b.clk.latched then b else
  (resetBlock b 0 0 0).modClk fun c => { c with power := true, powerAt := b.now, pgood := false, step := 0, stepAt := b.now }
def execPowerInputRise (s : State) : Out := act powerInputRise s
/-- Every regulator stops at once. -/
def unpowered (b : Block) (latched : Bool) : Block :=
  let b := resetBlock (if b.clk.power then pinsRelease b true else b) b.clk.cause b.clk.causeDom b.clk.causeReg
  b.modClk fun c => { c with power := false, pgood := false, latched := latched }
/-- The input is below 38.5 V for 100 µs: the module is unpowered; the latches of an overvoltage and a thermal trip clear. -/
def powerInputLoss (b : Block) : Block :=
  let b := unpowered (if b.pins.tripped then b.send (.pin 2 false) else b) false
  { b with pins := { b.pins with tripped := false, faultKept := false } }
def execPowerInputLoss (s : State) : Out := act powerInputLoss s
/-- The input is above 62 V for 10 µs: a shut-off that latches until the input has been lost. -/
def overvoltage (b : Block) : Block := if b.clk.power then unpowered b true else b
def execOvervoltage (s : State) : Out := act overvoltage s
/-- Filtered assertion of MOD_RESET_N. -/
def modResetNAssert (b : Block) : Block :=
  let b := b.modClk fun c => { c with modResetN := false }
  if hubUp b then moduleReset b 1 0 0 else b
def execModResetNAssert (s : State) : Out := act modResetNAssert s
/-- EXTEST, which the port takes only while MOD_RESET_N is asserted, acts as BYPASS from here (R505). -/
def modResetNRelease (b : Block) : Block :=
  bootStart ({ b with pins := { b.pins with ir := if b.pins.ir = 3 then 1 else b.pins.ir } }.modClk fun c => { c with modResetN := true })
def execModResetNRelease (s : State) : Out := act modResetNRelease s

/-! Boot (R460 to R463, R536). -/
/-- Bytes of LPDDR6. -/
def memBytes : Nat := 4 * Config.pagesPerEdie * 2 ^ 21
/-- The bound of a boot step in ns. -/
def bootBound : Nat → Nat
  | 0 => 25000000 | 1 => 200000 | 2 => 200000000 | 3 => 5000000 | 4 => 60000000 | 5 => 10000000 + memBytes / 1600 | _ => 1000000
/-- A boot step fails: FAILED with its status, FAULT_N, and the in-band interrupt 0x03. -/
def bootFail (b : Block) (st : Status) (sub : Nat) : Block :=
  let b := (b.modClk fun c => { c with failed := true, status := st.code, subch := sub }).send (.pin 1 true)
  if b.hub.i3c.ibi then b.send (.ibi 3) else b
/-- The memory rate (R462): the image's if it is one of the four, capped by MEM_MAX; else the highest of the four below it. -/
def memRateOf (v : Nat) : Nat :=
  if v = 0 ∨ Config.memMax < v then Config.memMax
  else (([8533, 9600, 10667, 12800].filter fun x => decide (x ≤ v)).getLast?).getD 8533
/-- READY (R460 step 6). -/
def bootReady (b : Block) : Block :=
  let ms := (b.clk.times.foldl (fun a t => a + t.2) 0) / 1000
  let b := b.modClk fun c => { c with ready := true }
  let c := b.clk
  let b := eventPlat b 0 0x0B04 .done 0 chipLoc
    (detail [(16, 1, c.cause), (17, 1, c.causeDom), (18, 1, c.causeReg), (20, 4, ms), (24, 4, c.memRate)])
  let b := if b.hub.i3c.ibi then b.send (.ibi 2) else b
  let b := secureReady b
  ({ b with pins := { b.pins with faultKept := false } }.send (.pin 0 true)).send (.pin 1 false)
/-- What a boot step that passes does; `bad` are the flash reads that fail in step 2. -/
def bootEffect (b : Block) (bad : Nat) : Except Status Block := match b.clk.step with
  | 1 => .ok (lockDom (lockDom (lockDom b 24 1) 24 5) 24 6)
  | 2 => secureBoot b bad
  | 3 =>
    let doms := (List.range 24).flatMap fun r => (List.range 5).filterMap fun d => if hasDom r d && !refAbsent b r d then some (r, d) else none
    let b := b.each doms fun b x => lockDom b x.1 x.2
    .ok (kwTo b 1 0)
  | 4 => .ok (b.modClk fun c => { c with memRate := memRateOf b.sec.rate })
  | 5 => .ok { b with mem := [], merr := [] }
  | _ => .ok b
/-- The current boot step ends, passed or with the status and subchannel of its failure; after its bound it has ended with TIMEOUT, and
step 4 fails with UNCORRECTABLE (R460, R463). -/
def bootStepDone (st : BitVec 8) (sub : Fin 192) (bad : BitVec 4) (b : Block) : Block :=
  let c := b.clk
  if !c.power || c.failed || c.ready then b else
  let took (b : Block) : Block := b.modClk fun x => { x with times := mset 0 x.times c.step ((b.now - c.stepAt) / 1000) }
  if !c.up && c.pgood then b
  else if c.stepAt + bootBound c.step < b.now then bootFail (took b) .timeout 0
  else if st ≠ 0 then
    if c.up && c.step == 4 then bootFail (took b) .uncorrectable sub else bootFail (took b) (.ofCode st.toNat) 0
  else if !c.up then bootStart ((took b).modClk fun c => { c with pgood := true })
  else match bootEffect b bad.toNat with
    | .error st => bootFail (took b) st 0
    | .ok b =>
      if c.step = 6 then bootReady (took b)
      else (took b).modClk fun c => { c with step := c.step + 1, stepAt := b.now }
def execBootStepDone (st : BitVec 8) (sub : Fin 192) (bad : BitVec 4) (s : State) : Out := act (bootStepDone st sub bad) s
/-- A boot step passes its bound. -/
def bootStepTimeout (b : Block) : Block :=
  let c := b.clk
  if !c.power || c.failed || c.ready || (!c.up && c.pgood) || decide (b.now ≤ c.stepAt + bootBound c.step) then b else bootFail b .timeout 0
def execBootStepTimeout (s : State) : Out := act bootStepTimeout s

/-! Module time and calibration (R449, R457, R463). -/
/-- A periodic event of the hub, by key: due, and marked. -/
def calDue (b : Block) (key period : Nat) : Bool := hubUp b && decide (mget 0 b.clk.calib key + period ≤ b.now)
def calMark (b : Block) (key : Nat) : Block := b.modClk fun c => { c with calib := mset 0 c.calib key b.now }
def overAddr (r : Nat) : Nat := regionBase r + 0x90008
/-- The hub corrects a die's copy of MODULE_TIME every 1 µs. `lost` names the crossings of the die that have lost a state or
saturated a count since the last correction; CROSS_OVERRUN reports them at most once per die per millisecond. -/
def moduleTimeCorrection (r : Fin 25) (lost : BitVec 8) (b : Block) : Block :=
  if !calDue b (100 + r) 1000 then b else
  let b := calMark b (100 + r)
  if lost = 0 then b else
  let v := Nat.lor (b.reg (overAddr r)) lost.toNat
  let b := b.setReg (overAddr r) 0 v
  let n := mget 0 b.clk.overrun r + (List.range 8).countP fun k => bit lost.toNat k
  if !calDue b (200 + r) 1000000 then b.modClk fun c => { c with overrun := mset 0 c.overrun r n } else
  let b := (calMark b (200 + r)).modClk fun c => { c with overrun := mset 0 c.overrun r 0 }
  eventPlat b 0 0x0B03 .done 0 (regionLoc r) (detail [(16, 1, ((List.range 8).find? fun k => bit lost.toNat k).getD 0), (18, 2, min 65535 n)])
def execModuleTimeCorrection (r : Fin 25) (lost : BitVec 8) (s : State) : Out := act (moduleTimeCorrection r lost) s
/-- An E-die's memory controllers read the WCK oscillator every 1 ms, or run ZQ calibration every 32 ms; neither changes MCLK. -/
def memCalibration (e : Fin 4) (zq : Bool) (b : Block) : Block :=
  let key := 300 + 2 * e.val + b2n zq
  if calDue b key (if zq then 32000000 else 1000000) then calMark b key else b
def execMemCalibration (e : Fin 4) (zq : Bool) (s : State) : Out := act (memCalibration e zq) s

/-! The clock (R457, R459): one QCLK cycle. -/
/-- 2 ns pass, with the ACLK cycles of the operating point in force; every 100 ns a slew moves MODULE_TIME by 1 ns. -/
def timePass (b : Block) : Block :=
  let t : Block := { b with now := b.now + 2, aclk := b.aclk + 2 * pointMhz b.pow.point }
  if b.clk.slew = 0 ∨ t.now % 100 ≥ 2 then t
  else if 0 < b.clk.slew then { t with mtOff := b.mtOff + 1, clk := { b.clk with slew := b.clk.slew - 1 } }
  else { t with mtOff := (b.mtOff + 2 ^ 64 - 1) % 2 ^ 64, clk := { b.clk with slew := b.clk.slew + 1 } }
/-- An idle cycle: time passes, and the Kwasar link sends what it can. -/
def tick (b : Block) : Block := kwPump (timePass b)

end Sys2Proof.Machine
end

