-- ==== Sys2Proof/Machine/Reliability.lean ====
section
/-!
DEFINITION. Machine/Reliability.lean: replay, recovery, the memory scrub, fencing and the end of a module-fatal stop
(spec 19), and the debug port (spec 18, 20).
-/
namespace Sys2Proof.Machine

/-! Replay (R516 to R520). -/
/-- Status of a replay trigger: 0 transit, 1 parity, 2 timeout, 3 flush. -/
def trigStatus : Nat → Status
  | 2 => .timeout
  | 3 => .linkDown
  | _ => .uncorrectable
/-- A replay trigger from the hardware is counted and reported with the severity of its outcome (R526, R544): a word poisoned
with TRANSIT, or a parity error. The LOC of a poisoned word is that of the hop that detected it (R26, R511); the command names no hop,
and the router of the cell's own die is taken (DESIGN CHOICE, log entry 95). -/
def trigReport (b : Block) (k trig sev : Nat) : Block := match trig with
  | 0 => cellEvent (b.count 0xC7FC1810) k 0x0E02 .uncorrectable sev (regionLoc (k / 40)) (detail [(16, 1, 0xFF), (17, 1, 2), (24, 1, 2)])
  | _ => b
/-- A parity error that recurs in a cell's array queue, or in its bank-side queue, within one second fences the cell (R523). -/
def parityFence (b : Block) (k : Nat) (bank : Bool) (trig : Nat) : Block :=
  if trig ≠ 1 then b else
  let last := if bank then (b.cell k).bankParityAt else (b.cell k).parityAt
  let again : Bool := match last with | some t => decide (b.now ≤ t + 1000000000) | none => false
  let b := b.modCell k fun c => if bank then { c with bankParityAt := some b.now } else { c with parityAt := some b.now }
  if again then escalate b 1 k 1 else b
/-- REPLAY_EXHAUSTED, and the partition enters recovery (R518, R521). -/
def replayExhausted (b : Block) (k thr tok tries trig item unit : Nat) : Block :=
  let st := trigStatus trig
  let b := cellEvent (b.count 0xC7FC1828) k 0x0E04 st 3 (cellLoc k unit)
    (detail [(16, 1, thr), (17, 1, tok), (18, 1, min 255 tries), (19, 1, trig), (20, 2, item)])
  enterRecovery b (b.cell k).part st
/-- ESCALATED, and the abort of the partition (R519). -/
def replayEscalate (b : Block) (k trig : Nat) : Block :=
  let n := (b.cell k).part
  let b := eventBoth (b.count 0xC7FC1830) n 0x0E05 .aborted 3 chipLoc (detail [(16, 1, n), (17, 1, trig), (18, 2, cellLoc k 2)])
  escalate b 0 n trig
/-- A chain restarts at the first product of row tile 0, with the records of every row it has held at their initial value. -/
def chainRestart (b : Block) (k : Nat) (c : Chain) (r : Run) : Block :=
  let b := match ({ enc := c.hold, len := 1, write := true } : Ext).at_ (b.cell k) |>.bind fun p => (b.cell k).rangeAt p with
    | some g => b.each r.heldRows fun b hr => b.modCell k fun cl => cl.rearm g hr
    | none => b
  modRun b k fun r => { r with rt := 0, ct := 0, stage := 0, dry := 0, appends := [], heldRows := [], port := none }
/-- The array's command of a cell meets a trigger: the one recorded when a timeout was found, or `trig` from the hardware. A
command that still waits for its tally or its coins has issued nothing to run again; a parity error then only counts towards
the fence of R523. -/
def arrReplay (b : Block) (k trig : Nat) : Block :=
  match runOf b k with
  | none => if trig = 1 ∧ (b.cell k).arrq ≠ [] then parityFence b k false 1 else b
  | some r =>
    let known := r.replayDue.isSome
    if trig = 1 ∧ r.phase = .coins ∧ r.status = .done then parityFence b k false 1 else
    if r.phase != .running || r.status != .done || (!known && trig == 2) then b else
    let t := if known then r.trigger else trig
    let out := decide (replayLimit b ≤ r.replays)
    let b := if known then b else trigReport b k t (if r.nonReplay then 3 else 2)
    let b := modRun b k fun r => { r with replayDue := none, trigger := t }
    let b := parityFence b k false t
    if r.nonReplay then replayEscalate b k t
    else if out then
      let b := replayExhausted b k r.e.thr r.e.tok r.replays t (if r.e.kind == .chain then r.rt else r.cur) 2
      -- the write that has had no answer, where that is the trigger
      let p := if t = 2 then r.port.getD { sent := 0, space := 0, addr := 0 } else { sent := 0, stage := if r.e.kind == .chain then chainStage r else 0, space := 0, addr := 0 }
      if r.e.kind == .chain then chainFail k b (trigStatus t) p.stage p.space p.addr else attnFail k b (trigStatus t) p.stage p.space p.addr
    else
      let b := modRun (b.count 0xC7FC1820) k fun r => { r with replays := r.replays + 1 }
      let b := if r.e.kind == .chain then match chainOf r.e with | some c => chainRestart b k c r | none => b else modRun b k attnRestart
      arrGo b k
/-- A b.fill or b.copy meets a trigger and runs again from its start. -/
def bankReplay (b : Block) (k i trig : Nat) : Block :=
  match (b.cell k).bankq[i]? with
  | none => b
  | some e =>
    if !e.started || decide (2 ≤ e.op) || trig == 2 then b else
    let b := parityFence (trigReport b k trig 2) k true trig
    if replayLimit b ≤ e.replays then
      let b := replayExhausted b k e.thr e.tok e.replays trig 0 3
      b.modCell k fun c => ({ c with bankq := c.bankq.filter (·.id != e.id) } : Cell).tokenDone e.thr e.tok (trigStatus trig) {}
    else (b.count 0xC7FC1820).modCell k fun c => { c with bankq := c.bankq.map fun x => if x.id = e.id then
        { x with due := b.cycles + (x.due - x.run), run := b.cycles, replays := x.replays + 1, trigger := trig } else x }
def execReplayStart (k : Fin 800) (bank : Option (Fin 8)) (trig : Fin 4) (s : State) : Out := run (fun b => match bank with
  | none => arrReplay b k trig
  | some i => bankReplay b k i trig) s

/-! Recovery (R521). -/
def opRecoveryDone (b : Block) (c : Cmd) : Block :=
  checked b c [(!bodyOk c.desc [], .descInvalid)] fun b =>
    let p := b.part c.part
    if !p.inRecovery then finish b c.id .done else
    let was := bounded b c.part
    let b := b.modPart c.part fun p => { p with inRecovery := false }
    let b := recoveryEvent (modeChange b c.part was 2) c.part
    finish (b.modPart c.part fun p => { p with recEnded := 0, recStatus := 0 }) c.id .done p.recEnded
def execRecoveryDone (n : Fin 16) (r : Rec) (s : State) : Out := act (ringCmd 0x30 opRecoveryDone n r) s

/-! The scrub of LPDDR6 (R513). -/
/-- Whether a physical page is mapped as a page of weights. -/
def weightPage (b : Block) (key : Nat) : Bool := match pageOwner b key with
  | none => false
  | some n => (List.range 524288).any fun v => let e := mttEntry b n v; mttV e && mttKind e == 1 && mttKey e == key
/-- One word of the scrub. -/
def scrubWord (b : Block) (e : Nat) (w : Nat × BitVec 72) : Block := match readWord 0 w.2 with
  | .clean _ => b
  | .corrected _ s => memCorrected b w.1 s
  | .bad s =>
    let a := 8 * w.1
    let put (d : DieErr) : DieErr := { d with loc := regionLoc (20 + e), syn := s, kind := uncorrKind s, valid := true, uncorr := satAdd 16 d.uncorr 1 }
    let b := (b.modHub fun h => { h with die := mmod {} h.die (20 + e) put }).count 0xC7FC1808
    let b : Block := if weightPage b (pageKey e (a % 2 ^ 38 / 2 ^ 21)) then { b with merr := mset 0 b.merr w.1 poisonFlips } else b
    eventPlat b 0 0x0E02 .uncorrectable 1 (regionLoc (20 + e)) (detail [(16, 1, s), (17, 1, uncorrKind s), (18, 6, a), (24, 1, 1)])
/-- The memory controller of an E-die scrubs its next page; a pass of every page takes 24 hours. -/
def memScrub (e : Fin 4) (b : Block) : Block :=
  let page := mget 0 b.hub.scrubPos e
  if !isReady b || !calDue b (400 + e.val) (86400000000000 / Config.pagesPerEdie) then b else
  let base := pageMpa (pageKey e page)
  let errs := b.merr.filter fun w => decide (base ≤ 8 * w.1) && decide (8 * w.1 < base + 2 ^ 21)
  let b := (calMark b (400 + e.val)).each errs fun b w => scrubWord b e w
  let last := decide (Config.pagesPerEdie ≤ page + 1)
  let b := b.modHub fun h => { h with scrubPos := mset 0 h.scrubPos e (if last then 0 else page + 1) }
  if last then b.count 0xC7FC1840 else b
def execMemScrub (e : Fin 4) (s : State) : Out := act (memScrub e) s

/-! Module-fatal stop and fences (R522, R523). -/
/-- 1 ms after a module-fatal stop the module reset starts. -/
def fatalResetTimer (b : Block) : Block :=
  match b.hub.fatal with
  | none => b
  | some (cause, _, t) => if b.now < t + 1000000 then b else moduleReset b (if cause = 4 then 5 else 6) 0 0
def execFatalResetTimer (s : State) : Out := run fatalResetTimer s
/-- A block's handler finds that a cell has not answered for 2 µs. -/
def execCellNotAnswering (k : Fin 800) (s : State) : Out := run (fun b => fenceCell b k 2) s
/-- Fences that a write of 1s clears: blocks that are free. -/
def clearFences (b : Block) (v : Nat) : Block :=
  let go := (List.range 100).filter fun k => bit v k && bit b.hub.fence k && (blockOwner b k).isNone
  (b.modHub fun h => { h with fence := h.fence - (go.map (2 ^ ·)).sum }).each (go.flatMap blockCells) fun b k =>
    b.modCell k fun c => { c with fenced := false }

/-! The debug port (R505, R540). -/
/-- A TAP instruction: 0 IDCODE, 1 BYPASS, 2 SAMPLE/PRELOAD, 3 EXTEST, 4 debug of the hub firmware, 5 management access. What
the policy of R505 does not allow acts as BYPASS; while TRST_N is held nothing takes effect. -/
def jtagInstruction (i : Fin 6) (b : Block) : Block :=
  if b.now < b.pins.trstAt + 1000 ∧ b.pins.trstAt ≠ 0 then b else
  let ok : Bool := match i.val with
    | 3 => !b.clk.modResetN
    | 4 | 5 => b.sec.debugActive
    | _ => true
  { b with pins := { b.pins with ir := if ok then i else 1 } }
def execJtagInstruction (i : Fin 6) (s : State) : Out := act (jtagInstruction i) s
/-- IDCODE. -/
def idcode : Nat := Config.hwMajor.toNat * 2 ^ 28 + 0x2580 * 2 ^ 12 + 0x535 * 2 + 1
/-- Filtered TRST_N: the TAP is in Test-Logic-Reset; `chatter` says that the raw level changed under the release filter. -/
def trstNAssert (chatter : Bool) (b : Block) : Block :=
  ({ b with pins := { b.pins with ir := 0, trstAt := b.now } } : Block).modSec fun s => { s with chatterTrst := s.chatterTrst || chatter }
def execTrstNAssert (chatter : Bool) (s : State) : Out := act (trstNAssert chatter) s

end Sys2Proof.Machine
end

