-- ==== Sys2Proof/Machine/Regs.lean ====
section
/-!
DEFINITION. Machine/Regs.lean: rows of the management registers, one for each register table of the spec, and those of the
cells, walkers, C-dies and E-dies (spec 02 to 08, 11, 13, 15, 16, 19).
-/
namespace Sys2Proof.Machine

/-- What an access of a register row is given: the unit (cell, walker's block, or die), the two indices, the register's own
address, the requesting manager's partition (none: the platform) and whether it came over I3C. -/
structure RegAt where
  u : Nat
  i : Nat := 0
  j : Nat := 0
  a : Nat
  who : Option Nat := none
  i3c : Bool := false

/-- One register table: offset, count and stride of its two indices, who may read it (0 the platform; 1 any partition manager;
2 the manager of partition `i`), and which of its fields can be written (0 none; 1 by the platform only; 2 some by a partition
manager too). -/
structure RegRow where
  off : Nat
  d1 : Nat × Nat := (1, 8)
  d2 : Nat × Nat := (1, 8)
  rd : Nat := 0
  wr : Nat := 0
  read : RegAt → Block → Nat × Block
  write : RegAt → Nat → Block → Block := fun _ _ b => b

/-- The indices under which an offset lies in a row. -/
def RegRow.find (r : RegRow) (off : Nat) : Option (Nat × Nat) :=
  if off < r.off then none else
  let x := off - r.off
  let i := x / r.d1.2
  let y := x % r.d1.2
  let j := y / r.d2.2
  if i < r.d1.1 ∧ j < r.d2.1 ∧ y % r.d2.2 = 0 then some (i, j) else none

/-- Packs fields: least bit, width, value (R6: every other bit reads zero). -/
def pack (l : List (Nat × Nat × Nat)) : Nat := l.foldl (fun a f => a + (f.2.2 % 2 ^ f.2.1) <<< f.1) 0
/-- A read that changes nothing. -/
def ro (f : RegAt → Block → Nat) : RegAt → Block → Nat × Block := fun c b => (f c b, b)
/-- A read whose value the model leaves free: a count of time that the model does not keep. -/
def freeRead (w : Nat) : RegAt → Block → Nat × Block := fun _ b => let (x, b) := b.draw; (x % 2 ^ w, b)
/-- A register that a write stores whole, after `fix` has dropped reserved bits and clamped its fields. -/
def stored (off : Nat) (rd wr reset : Nat) (fix : Nat → Nat) (d1 : Nat × Nat := (1, 8)) (d2 : Nat × Nat := (1, 8)) : RegRow :=
  { off := off, d1 := d1, d2 := d2, rd := rd, wr := wr, read := ro fun c b => b.reg c.a reset,
    write := fun c v b => b.setReg c.a reset (fix v) }
/-- Keeps the low `n` bits. -/
def low (n v : Nat) : Nat := v % 2 ^ n

/-! Cells (spec 03 to 08): `u` is the physical cell. -/
def cellRow (off rd : Nat) (f : Cell → RegAt → Block → Nat) (d1 : Nat × Nat := (1, 8)) : RegRow :=
  { off := off, d1 := d1, rd := rd, read := ro fun c b => f (b.cell c.u) c b }
/-- Counters of a cell, cleared at program load. -/
def cellCnt (off n : Nat) : RegRow := cellRow off 1 (fun c x _ => mget 0 c.cnt (x.a % 2 ^ 20)) (n, 8)
def cellFree (off n : Nat) : RegRow := { off := off, d1 := (n, 8), rd := 1, read := freeRead 64 }
/-- THREAD_STATE's codes. -/
def TState.code : TState → Nat
  | .idle => 0 | .run => 1 | .wait => 2 | .halt => 3 | .fault => 4
def threadState (t : Thread) : Nat :=
  pack [(0, 3, t.st.code), (3, 4, if t.st = .wait then t.wait.code else if t.stalled.isSome then 7 else 0), (7, 15, t.pc),
        (22, 16, (List.range 16).foldl (fun a k => a + if (mget {} t.tok k).busy then 2 ^ k else 0) 0)]
def threadFaultReg (f : ThreadFault) : Nat := pack [(0, 8, f.status), (8, 15, f.pc), (23, 4, f.cls), (27, 8, f.op), (35, 1, b2n f.valid)]
def bufReg (e : Buf) : Nat := pack [(0, 23, e.base), (23, 23, e.len), (46, 1, b2n e.weight), (47, 1, b2n e.valid)]
/-- Unit 0 and the buffer table. -/
def coreRows : List RegRow := [
  cellRow 0x00000 1 fun c _ _ => pack [(0, 16, 6144), (16, 9, c.codeKib), (25, 4, 8), (29, 1, b2n c.loaded)],
  cellRow 0x00008 1 fun c _ _ => c.waitLimit % 2 ^ 20,
  cellRow 0x00010 1 fun c _ _ => pack [(0, 10, c.lcell), (10, 4, c.part), (14, 1, b2n c.assigned)],
  cellRow 0x00100 1 (fun c x _ => threadState (c.thread x.i)) (8, 8),
  cellRow 0x00200 1 (fun c x _ => threadFaultReg (c.thread x.i).tfault) (8, 8),
  cellRow 0x00300 1 (fun c x _ => (c.thread x.i).accMask.toNat) (8, 8),
  cellCnt 0x00400 1, cellFree 0x00408 4, cellCnt 0x00428 1,
  cellCnt 0x10000 3,
  cellRow 0x70000 1 (fun c x _ => bufReg (mget {} c.bufs x.i)) (256, 8)]

/-- STORE_SCRUB: the interval clamped to 1,000 to 1,000,000. -/
def fixScrub (v : Nat) : Nat := clamp 1000 1000000 (bits v 0 20) + bits v 20 1 * 2 ^ 20
/-- A write of STORE_INJECT with ARM set (R553); flips outside 0 to 71 arm nothing. -/
def writeInject (k v : Nat) (b : Block) : Block :=
  let f0 := bits v 23 8
  let f1 := bits v 31 8
  if bit v 39 && decide (f0 < 72) && (decide (f1 < 72) || f1 == 0xFF) then
    b.modCell k fun c => { c with inject := some { off := bits v 0 23 / 8 * 8, flip0 := f0, flip1 := f1 } }
  else b
def rangeOf (c : Cell) (i : Nat) : Option Range := c.ranges[i]?
def rangeA (g : Range) : Nat :=
  pack [(0, 23, g.base), (23, 23, g.len), (46, 1, 1), (47, 1, b2n g.stat), (48, 1, b2n g.fast), (49, 4, g.fmt), (53, 6, g.frac),
        (59, 1, b2n g.sat), (60, 1, b2n g.multi)]
def rangeB (g : Range) : Nat := pack [(0, 23, g.recBase), (23, 1, g.statKind), (24, 17, g.rowElems % 65536)]
def errLogReg (e : ErrLog) : Nat := pack [(0, 23, e.off), (23, 6, e.bank), (29, 8, e.syn), (37, 2, e.kind), (39, 1, b2n e.valid)]
/-- Unit 3: the store. -/
def storeRows : List RegRow := [
  cellRow 0x30000 1 fun c _ _ => pack [(0, 4, c.coal.length), (4, 5, c.ranges.length), (9, 1, b2n c.zeroing), (10, 1, b2n (!c.refetching.isEmpty))],
  stored 0x30008 0 1 (50000 + 2 ^ 20) fixScrub,
  stored 0x30010 1 2 0 (low 6),
  { off := 0x30018, rd := 1, read := freeRead 64 },
  { off := 0x30020, rd := 1, wr := 2, read := ro fun c b => errLogReg (b.cell c.u).errLog,
    write := fun c v b => if bit v 39 then b.modCell c.u fun x => { x with errLog := { x.errLog with valid := false } } else b },
  { off := 0x30028, wr := 1, read := ro fun _ _ => 0, write := fun c v b => writeInject c.u v b },
  cellRow 0x30100 1 (fun c x _ => match rangeOf c x.i with | some g => rangeA g | none => 0) (16, 8),
  cellRow 0x30180 1 (fun c x _ => match rangeOf c x.i with | some g => rangeB g | none => 0) (16, 8),
  cellRow 0x30200 1 (fun c x _ => match rangeOf c x.i with | some g => g.scale % 2 ^ 32 | none => 0) (16, 8),
  cellRow 0x31000 1 (fun c x _ => pack ((List.range 32).map fun j => (2 * j, 2, c.tag (32 * x.i + j)))) (192, 8),
  cellFree 0x30800 7, cellCnt 0x30840 2, cellFree 0x30850 1, cellCnt 0x30858 9]

def streamStatus (b : Block) (k : Nat) (o : Bool) : Nat :=
  let s := (b.cell k).strm o
  let waits : Bool := match watchOf b k (if o then 9 else 8) with | some w => !w.told | none => false
  pack [(0, 2, if s.halted then 2 else if s.q.isEmpty && s.zombies.isEmpty then 0 else 1), (2, 5, s.q.length),
        (7, 5, s.q.countP (·.started)), (12, 4, (s.q.map fun e => e.win.countP fun x => x.st == .flight).sum), (16, 4, s.zombies.length),
        (20, 1, b2n (match s.q.head? with | some e => e.fence | none => false)), (21, 1, b2n waits), (22, 1, b2n s.ctrlIgnored)]
def haltReg (h : Halt) : Nat := pack [(0, 8, h.status), (8, 3, h.thr), (11, 4, h.tok), (15, 24, h.row), (39, 23, h.byte), (62, 1, b2n h.valid)]
def haltAddrReg (h : Halt) : Nat := pack [(0, 42, h.addr), (42, 2, h.space), (44, 7, h.mask)]
def engineDims : Nat × Nat := (2, 0x10000)
/-- Units 4 and 5: the stream engines; `i` is 1 for outbound. -/
def streamRows : List RegRow := [
  { off := 0x40000, d1 := engineDims, rd := 1, wr := 2, read := ro fun c b => streamStatus b c.u (c.i == 1),
    write := fun c v b => if bit v 22 then modStream b c.u (c.i == 1) fun s => { s with ctrlIgnored := false } else b },
  stored 0x40008 1 2 4 (fun v => clamp 1 16 (bits v 0 5)) engineDims,
  stored 0x40010 1 2 1000 (low 16) engineDims,
  cellRow 0x40018 1 (fun c x _ => haltReg (c.strm (x.i == 1)).halt) engineDims,
  cellRow 0x40020 1 (fun c x _ => haltAddrReg (c.strm (x.i == 1)).halt) engineDims,
  { off := 0x40028, d1 := engineDims, wr := 2, read := ro fun _ _ => 0, write := fun c v b => streamCtrl b c.u (c.i == 1) v },
  { off := 0x40800, d1 := engineDims, d2 := (6, 8), rd := 1, read := ro fun c b => mget 0 (b.cell c.u).cnt (c.a % 2 ^ 20) },
  { off := 0x40830, d1 := engineDims, rd := 1, read := freeRead 64 },
  { off := 0x40838, d1 := engineDims, d2 := (4, 8), rd := 1, read := ro fun c b => mget 0 (b.cell c.u).cnt (c.a % 2 ^ 20) }]

def popcnt (x : Nat) : Nat := (List.range 8).countP fun k => bit x k
def arrayStatus (c : Cell) (b : Block) (k : Nat) : Nat := match c.run with
  | none => pack [(2, 3, c.arrq.length), (35, 8, c.heldTiles b.cycles)]
  | some r =>
    pack [(0, 2, if r.phase = .coins then 3 else if r.e.kind = .attn then 2 else if r.e.kind = .chain then 1 else 0), (2, 3, c.arrq.length), (5, 4, r.stage),
          (9, 9, r.rt), (18, 10, r.ct), (28, 7, if hasCoins b k then r.coins else 0), (35, 8, c.heldTiles b.cycles), (43, 1, b2n (r.phase == .drydown))]
def arrFaultWord (f : ArrFault) : Nat :=
  pack [(0, 8, f.status), (8, 3, f.thr), (11, 4, f.tok), (15, 4, f.stage), (19, 9, f.rt), (28, 10, f.ct), (38, 1, b2n f.valid)]
def attnStatus (c : Cell) : Nat := match c.run with
  | none => 0
  | some r =>
    if r.e.kind ≠ .attn then 0 else
    pack [(0, 2, r.aphase), (2, 10, r.cur), (12, 14, match r.items[r.cur]? with | some x => x.block | none => 0),
          (26, 5, r.items.countP fun x => x.slot.isSome), (31, 1, b2n r.mergeWait), (32, 1, b2n r.recordWait), (33, 1, b2n r.absent)]
def attnPark (c : Cell) (i : Nat) : Nat := match c.run with
  | none => 0
  | some r => match (r.items.zipIdx).find? fun x => x.1.slot == some i with
    | some (x, k) => pack [(0, 16, x.seq), (16, 10, k), (26, 14, x.block), (40, 1, 1)]
    | none => 0
/-- Unit 2: the array and the attention engine. -/
def arrayRows : List RegRow := [
  cellRow 0x20000 1 fun c x b => arrayStatus c b x.u,
  { off := 0x20008, rd := 1, wr := 2, read := ro fun c b => arrFaultWord (b.cell c.u).arrFault,
    write := fun c v b => if bit v 38 then b.modCell c.u fun x => { x with arrFault := { x.arrFault with valid := false } } else b },
  cellCnt 0x20800 2, cellFree 0x20810 5, cellCnt 0x20838 3,
  cellRow 0x21000 1 fun c _ _ => attnStatus c,
  { off := 0x21008, wr := 2, read := ro fun _ _ => 0, write := fun c v b => if bit v 0 then attnAbandon b c.u else b },
  cellRow 0x21040 1 (fun c x _ => attnPark c x.i) (16, 8),
  cellCnt 0x21800 6, cellFree 0x21830 1, cellCnt 0x21838 1]
def cellRows : List RegRow := coreRows ++ storeRows ++ streamRows ++ arrayRows

/-! The walker of a block (spec 08): `u` is the block. -/
def walkerRows : List RegRow := [
  { off := 0x60000, rd := 1, read := ro fun c b => let w := b.walker c.u
                                     pack [(0, 5, w.walks.length), (5, 9, w.lab.length), (14, 6, w.misses.length), (20, 1, b2n w.slotWait)] },
  { off := 0x60008, rd := 1, wr := 2,
    read := ro fun c b => let w := b.walker c.u; pack [(0, 16, w.errEntry), (16, 16, w.errGroup), (32, 8, w.errStatus), (40, 1, b2n w.errValid)],
    write := fun c v b => if bit v 40 then b.modWalker c.u fun w => { w with errValid := false } else b },
  { off := 0x60800, d1 := (4, 8), rd := 1, read := ro fun c b => mget 0 (b.walker c.u).cnt (c.a % 2 ^ 20) },
  { off := 0x60820, rd := 1, read := freeRead 64 }]

/-! Every die (spec 16, 19): `u` is the region. -/
/-- The bits of a die's domains for which `f` holds. -/
def domBits (b : Block) (r : Nat) (f : Dom → Bool) : Nat := (List.range 7).foldl (fun a d => a + if hasDom r d && f (b.dom r d) then 2 ^ d else 0) 0
def dieErr (b : Block) (r : Nat) : DieErr := mget {} b.hub.die r
def modDie (b : Block) (r : Nat) (f : DieErr → DieErr) : Block := b.modHub fun h => { h with die := mmod {} h.die r f }
def dieRows : List RegRow := [
  { off := 0x90000, rd := 1, read := ro fun c b =>
      pack [(0, 7, domBits b c.u (·.locked)), (8, 7, domBits b c.u (·.stopped)), (16, 7, domBits b c.u (·.inReset)),
            (24, 1, b2n (mget false b.clk.absent100 c.u)), (25, 1, b2n (decide (20 ≤ c.u) && decide (c.u < 24) && mget false b.clk.absent156 c.u))] },
  { off := 0x90008, rd := 1, wr := 1, read := ro fun c b => b.reg c.a, write := fun c v b => b.setReg c.a 0 (b.reg c.a - Nat.land (b.reg c.a) (low 8 v)) },
  { off := 0x90010, rd := 1, read := freeRead 16 },
  { off := 0x90018, wr := 1, read := ro fun _ _ => 0, write := fun c v b => writeDomainReset b c.u v },
  { off := 0xC0000, rd := 1, wr := 2,
    read := ro fun c b => let d := dieErr b c.u; pack [(0, 16, d.loc), (16, 8, d.syn), (24, 2, d.kind), (26, 1, b2n d.valid)],
    write := fun c v b => if bit v 26 then modDie b c.u fun d => { d with valid := false } else b },
  { off := 0xC0008, rd := 1, read := fun c b => let d := dieErr b c.u
                                     (pack [(0, 32, d.corrected), (32, 16, d.uncorr)], modDie b c.u fun d => { d with corrected := 0, uncorr := 0 }) }]
/-- A counter at its own address. -/
def cntRow (off rd : Nat) (d1 d2 : Nat × Nat) : RegRow := { off := off, d1 := d1, d2 := d2, rd := rd, read := ro fun c b => b.cnt c.a }

/-! The region purse of a C-die (spec 15). -/
def purseRows : List RegRow := [
  { off := 0x10000, rd := 1, read := ro fun c b => let p := b.purse c.u
      pack [(0, 13, p.cap), (13, 13, p.heldCoins), (26, 6, p.waiters.length), (32, 7, match p.waiters.head? with | some w => w.2.1 | none => 0), (39, 1, b2n b.pow.guard)] },
  stored 0x10008 1 1 4095 (fun v => max 80 (bits v 0 13)),
  cntRow 0x10800 0 (6, 8) (1, 8)]

/-! The Ethernet ports, remittance engine and Sniedor ports of an E-die (spec 11, 13). -/
def qpRead (b : Block) (e k : Nat) (who : Option Nat) : Nat :=
  let i := b.reg (remBase e + 0x78) % 4096
  let q := b.qp e i
  if who.any fun n => q.st == 0 || q.part != n then 0 else match k with
  | 0 => pack [(0, 2, q.st), (2, 4, q.part), (6, 1, q.port), (7, 8, q.err), (15, 24, q.nextPsn), (39, 24, match q.pkts.head? with | some p => p.psn | none => q.nextPsn)]
  | 1 => pack [(0, 13, q.pkts.countP fun p => p.sent.isSome), (13, 3, q.retries), (16, 3, q.rnr), (19, 22, q.rate)]
  | 2 => q.noticeSeq % 2 ^ 64
  | _ => (b.rem.remits.countP fun r => r.edie == e && r.qp == some i)
def portRead (c : RegAt) (b : Block) : Nat × Block :=
  let e := c.u - 20
  let x := b.port e c.i
  (pack [(0, 1, b2n x.up), (1, 1, b2n x.pauseAt.isSome), (2, 2, x.iface), (4, 32, x.fecC), (36, 16, x.fecU)],
   b.modPort e c.i fun x => { x with fecC := 0, fecU := 0 })
def remitRows : List RegRow := [
  { off := 0x20000, wr := 1, read := ro fun c b => portMode b (c.u - 20), write := fun c v b => writePortMode b (c.u - 20) v },
  { off := 0x20008, d1 := (2, 8), rd := 1, read := portRead },
  stored 0x20018 0 1 0 (low 48) (2, 8),
  stored 0x20028 0 1 0 (low 32) (2, 8),
  stored 0x20040 0 1 0 (low 64) (2, 16) (2, 8),
  stored 0x20060 0 1 50 (fun v => min 1000 (bits v 0 10)),
  { off := 0x20068, rd := 1, read := ro fun c b => let e := b.ed (c.u - 20)
      let head : Bool := match e.q.head? with | some id => (match b.rem.remits.find? fun r => r.id == id with | some r => r.checked && !r.read | none => false) | none => false
      pack [(0, 16, e.q.length), (16, 25, e.used / 64), (41, 1, b2n head)] },
  { off := 0x20070, rd := 1, read := fun c b => let e := b.ed (c.u - 20)
      (pack [(0, 16, e.wireMax), (16, 16, e.wireLast), (32, 32, e.wireOther)], b.modEd (c.u - 20) fun e => { e with wireMax := 0, wireOther := 0 }) },
  { off := 0x20078, rd := 1, wr := 2, read := ro fun c b =>
      let i := b.reg c.a
      let q := b.qp (c.u - 20) i
      pack [(0, 12, i), (12, 1, b2n (match c.who with | some n => q.st != 0 && q.part == n | none => true))],
    write := fun c v b => b.setReg c.a 0 (low 12 v) },
  { off := 0x20080, d1 := (4, 8), rd := 1, read := ro fun c b => qpRead b (c.u - 20) c.i c.who },
  cntRow 0x20800 0 (16, 8) (1, 8)]
def linkRead (c : RegAt) (b : Block) : Nat × Block :=
  let p := 6 * (c.u - 20) + c.i
  let l := b.link p
  (pack [(0, 3, l.st), (3, 13, l.peerNode), (16, 5, l.peerPort), (21, 1, b2n l.identFault), (22, 8, l.retrains)], b.modLink p fun l => { l with retrains := 0 })
def routeAddr (c : RegAt) (b : Block) : Nat := (c.u - 20) * 8192 + b.reg (c.a - 8) % 8192
def fabricRows : List RegRow := [
  stored 0x30000 0 1 0 (low 13),
  { off := 0x30008, wr := 1, read := ro fun c b => mget 0 b.fab.routes (routeAddr c b),
    write := fun c v b => b.modFab fun f => { f with routes := mset 0 f.routes (routeAddr c b) (low 26 v) } },
  { off := 0x30010, rd := 1, read := fun c b =>
      (pack [(0, 10, 512 - mget 0 b.fab.rmemUsed (c.u - 20)), (10, 10, mget 0 b.fab.rmemPeak (c.u - 20))],
       b.modFab fun f => { f with rmemPeak := mset 0 f.rmemPeak (c.u - 20) 0 }) },
  { off := 0x30040, d1 := (6, 8), rd := 1, read := linkRead },
  { off := 0x30080, d1 := (6, 8), wr := 1, read := ro fun c b => b.reg c.a, write := fun c v b => linkCtrl b (6 * (c.u - 20) + c.i) v },
  cntRow 0x30800 0 (6, 0x40) (5, 8),
  { off := 0x30828, d1 := (6, 0x40), read := freeRead 64 },
  cntRow 0x30A00 0 (12, 8) (1, 8)]

end Sys2Proof.Machine
end

