-- ==== Sys2Proof/Machine/HubRegs.lean ====
section
/-!
DEFINITION. Machine/HubRegs.lean: the management registers of region 24, chapter by chapter (spec 00, 02, 09 to 20).
-/
namespace Sys2Proof.Machine

/-- Registers of one partition: `i` is the partition, 8 bytes apart. -/
def P8 : Nat × Nat := (16, 8)
def P80 : Nat × Nat := (16, 0x80)
def one8 : Nat × Nat := (1, 8)

/-! Spec 00, 02: identity, MTT bases. -/
/-- PART_MTT_BASE: a multiple of 4 MiB (R56; bits [21:0] read as zero, log entry 55). Every cached translation of the old table is
dropped (R401). -/
def writeMttBase (b : Block) (n v : Nat) : Block :=
  dropXlate (b.modPart n fun p => { p with mttBase := bits v 22 18 * 2 ^ 22, mttEn := bit v 63 }) n fun _ => true
def baseRows : List RegRow := [
  { off := 0x00000, read := ro fun _ _ => moduleId },
  { off := 0x02000, d1 := P8, wr := 1, read := ro fun c b => let p := b.part c.i; pack [(0, 40, p.mttBase), (63, 1, b2n p.mttEn)],
    write := fun c v b => writeMttBase b c.i v }]

/-! Spec 09: the ledger. -/
/-- A ledger entry as ENTRY_VIEW shows it. -/
def entryWord (b : Block) (x : Nat) : Nat :=
  let e := b.entry x
  let pinned := e.walks.length + b.cells.countP fun c => match c.2.run with
    | some r => !r.pins.isEmpty && r.rows.any fun y => y.entry == x
    | none => false
  let isOpen (k : Nat) (l : Leaf) : Bool := if l.st = 1 then (b.frame e.owner e.model l.frame).open_.isSome else (mget {} e.opens k).open_.isSome
  pack [(0, 16, e.gen), (16, 8, e.st), (24, 4, e.owner), (28, 3, e.model), (31, 1, b2n e.compactOk), (32, 16, e.tgen), (48, 16, e.sink),
        (64, 32, e.lenCap), (96, 32, e.reserved), (128, 32, e.qrot), (160, 32, e.krot), (192, 32, e.root), (224, 32, e.recent),
        (256, 32, e.dest), (288, 32, e.pfx), (320, 32, e.forkAt), (352, 32, e.leafs.countP fun l => l.2.st == 2), (384, 32, pinned),
        (416, 32, e.leafs.countP fun l => isOpen l.1 l.2)]
def entryOwned (b : Block) (n : Nat) : Bool := let e := b.entry (b.part n).entrySel; e.st != 0 && e.owner == n
/-- A write of LEDGER_QUOTA (R248). -/
def writeLedQuota (n v : Nat) (b : Block) : Block :=
  if 65536 < bits v 0 17 + otherQuota b n (·.ledQuota) then b else b.modPart n fun p => { p with ledQuota := bits v 0 17 }
def ledgerRows : List RegRow := [
  { off := 0x50000, d1 := P8, rd := 2, wr := 1, read := ro fun c b => pack [(0, 17, (b.part c.i).ledQuota), (17, 17, ledUsed b c.i)],
    write := fun c v b => writeLedQuota c.i v b },
  { off := 0x50080, d1 := P8, wr := 1, read := ro fun c b => let p := b.part c.i; pack [(0, 40, p.poolMpa), (40, 11, p.poolPages)],
    write := fun c v b => b.modPart c.i fun p => { p with poolMpa := bits v 0 40, poolPages := bits v 40 11 } },
  { off := 0x50100, d1 := P8, rd := 2, read := ro fun c b => let p := b.part c.i; pack [(0, 24, blocksUsedSum p), (24, 24, p.shadows.length)] },
  { off := 0x50200, d1 := (16, 64), d2 := (8, 8), rd := 2, read := ro fun c b => let m := b.model c.i c.j
      pack [(0, 11, m.layers), (11, 5, m.kvHeads), (16, 8, m.headDim), (24, 4, m.fmt), (28, 20, m.pageBytes)] },
  { off := 0x50600, d1 := (16, 64), d2 := (8, 8), rd := 2, read := ro fun c b => let m := b.model c.i c.j; pack [(0, 19, m.poolVpn), (19, 19, m.poolPages)] },
  { off := 0x50A00, d1 := (16, 64), d2 := (8, 8), rd := 2, read := ro fun c b => let m := b.model c.i c.j
      pack [(0, 27, m.frames_ - m.inUse), (27, 27, m.frames_)] },
  { off := 0x51000, d1 := P80, rd := 2, wr := 2, read := ro fun c b => pack [(0, 16, (b.part c.i).entrySel), (16, 1, b2n (entryOwned b c.i))],
    write := fun c v b => b.modPart c.i fun p => { p with entrySel := low 16 v } },
  { off := 0x51008, d1 := P80, d2 := (8, 8), rd := 2, read := ro fun c b =>
      if entryOwned b c.i then bits (entryWord b (b.part c.i).entrySel) (64 * c.j) 64 else 0 },
  cntRow 0x52000 2 (16, 0x100) (13, 8)]

/-! Spec 10: Clearing. -/
def clearingRows : List RegRow := [
  { off := 0x54000, d1 := P8, rd := 2, wr := 1,
    read := ro fun c b => let p := b.part c.i; pack [(0, 1, b2n p.clearMode), (1, 1, b2n p.inRecovery), (2, 1, b2n (bounded b c.i))],
    write := fun c v b => writeClearMode b c.i v },
  { off := 0x54080, d1 := P8, rd := 2, read := ro fun c b => let p := b.part c.i
      pack [(0, 32, p.lastBatch), (32, 1, b2n p.ahead.isSome), (33, 1, b2n p.running.isSome), (34, 8, p.lastStatus)] },
  { off := 0x54100, d1 := P8, rd := 2, wr := 2, read := ro fun c b => let f := (b.part c.i).placeFail
      pack [(0, 3, f.kind), (3, 16, f.index), (19, 8, f.status), (27, 1, b2n f.valid)],
    write := fun c v b => if bit v 27 then b.modPart c.i fun p => { p with placeFail := { p.placeFail with valid := false } } else b },
  cntRow 0x54800 2 P80 (5, 8),
  { off := 0x54828, d1 := P80, rd := 2, read := freeRead 64 }]

/-! Spec 11: remittance. -/
def qpsOf (b : Block) (e n : Nat) : Nat := (b.ed e).qps.countP fun q => q.2.st != 0 && q.2.part == n
def remitHubRows : List RegRow := [
  stored 0x58000 2 1 0 (low 56) P8,
  stored 0x58080 2 1 0 (fun v => min 4096 (bits v 0 13)) P8,
  { off := 0x58100, d1 := P8, rd := 2, read := ro fun c b => pack ((List.range 4).map fun e => (13 * e, 13, qpsOf b e c.i)) },
  { off := 0x58180, rd := 1, read := ro fun _ b => b.rem.serial % 2 ^ 64 },
  cntRow 0x58800 2 P80 (7, 8)]

/-! Spec 12: tallies and windows. -/
/-- A write of WIN_QUOTA (R343): the quotas together stay within 2,048. -/
def writeWinQuota (n v : Nat) (b : Block) : Block :=
  if 2048 < bits v 0 12 + otherQuota b n (·.winQuota) then b else b.modPart n fun p => { p with winQuota := bits v 0 12 }
def winView (w : Win) : Nat → Nat
  | 0 => pack [(0, 16, w.gen), (16, 2, w.space), (18, 3, w.flags), (21, 13, w.tally), (34, 30, w.len / 64)]
  | 1 => w.addr % 2 ^ 64
  | 2 => pack [(0, 32, w.arrivals), (32, 32, w.expected)]
  | _ => pack [(0, 32, w.late), (32, 32, w.refused)]
def tallyRows : List RegRow := [
  { off := 0x5C000, d1 := P8, rd := 2, wr := 2, read := ro fun c b => let p := b.part c.i; pack [(0, 13, p.tallyQuota), (13, 1, b2n p.quotaLocked)],
    write := fun c v b =>
      if c.who.isNone then writeTallyQuota b c.i v
      else if bit v 13 then b.modPart c.i fun p => { p with quotaLocked := false } else b },
  { off := 0x5C080, d1 := P8, rd := 2, wr := 2, read := ro fun c b => let x := (b.part c.i).tallySel
      pack [(0, 12, x), (12, 1, b2n (tallyOk b c.i x)), (13, 1, b2n (tallyOk b c.i x && (b.tally c.i x).armed))],
    write := fun c v b => b.modPart c.i fun p => { p with tallySel := low 12 v } },
  { off := 0x5C100, d1 := P8, rd := 2, read := ro fun c b => let x := (b.part c.i).tallySel
      if tallyOk b c.i x then pack [(0, 32, (b.tally c.i x).val), (32, 32, (b.tally c.i x).thresh)] else 0 },
  { off := 0x5C180, d1 := P8, rd := 2, wr := 1, read := ro fun c b => pack [(0, 12, (b.part c.i).winQuota), (12, 12, winsOpen b c.i)],
    write := fun c v b => writeWinQuota c.i v b },
  stored 0x5C200 0 1 10 fun v => max 1 (bits v 0 8),
  { off := 0x5C280, d1 := P8, rd := 2, wr := 2, read := ro fun c b => let x := (b.part c.i).winSel; pack [(0, 11, x), (11, 1, b2n (b.win c.i x).opened)],
    write := fun c v b => b.modPart c.i fun p => { p with winSel := low 11 v } },
  { off := 0x5C300, d1 := (16, 0x40), d2 := (4, 8), rd := 2, read := ro fun c b => let p := b.part c.i
      if p.winSel < p.winQuota then winView (b.win c.i p.winSel) c.j else 0 },
  cntRow 0x5C800 2 P80 (7, 8)]

/-! Spec 13: the fabric. -/
def fixFabric (v : Nat) : Nat :=
  pack [(0, 6, max 1 (bits v 0 6)), (6, 8, max 1 (bits v 6 8)), (14, 10, clamp 10 1000 (bits v 14 10)), (24, 4, max 1 (bits v 24 4)),
        (28, 16, max 1 (bits v 28 16)), (44, 8, max 1 (bits v 44 8))]
def groupsHeld (b : Block) (n : Nat) : Nat := (List.range 1024).countP fun g => (groupOf b n g).isSome
/-- A write of GROUP_QUOTA (R368): the quotas together stay within 1,024. -/
def writeGroupQuota (n v : Nat) (b : Block) : Block :=
  if 1024 < bits v 0 11 + otherQuota b n (·.groupQuota) then b else b.modPart n fun p => { p with groupQuota := bits v 0 11 }
def fabricHubRows : List RegRow := [
  stored 0x60000 1 1 0 (low 14),
  stored 0x60008 1 1 fabCfgReset fixFabric,
  { off := 0x60100, d1 := P8, rd := 2, wr := 1, read := ro fun c b => pack [(0, 11, (b.part c.i).groupQuota), (11, 11, groupsHeld b c.i)],
    write := fun c v b => writeGroupQuota c.i v b },
  { off := 0x60180, d1 := P8, rd := 2, read := ro fun c b => let p := b.part c.i
      let q := b.fab.colls.countP fun x => x.part == c.i
      pack [(0, 3, q), (3, 1, b2n (b.fab.ringWait.contains c.i)), (4, 7, b.fab.rdv.countP fun x => x.part == c.i),
            (11, 1, b2n (q != 0 && p.ahead.isSome && p.running.isNone))] },
  stored 0x60200 2 2 0 (low 10) P8,
  { off := 0x60280, d1 := P8, rd := 2, read := ro fun c b => match groupOf b c.i (b.reg (c.a - 0x80) % 1024) with
      | some g => pack [(0, 32, g.tag), (32, 13, g.members.length), (45, 13, g.rank), (58, 5, g.fanin), (63, 1, 1)]
      | none => 0 },
  { off := 0x60300, d1 := P8, rd := 2, read := ro fun c b => let i := b.reg (c.a - 0x100) % 1024
      match groupOf b c.i i with
      | some g => pack [(0, 32, g.seq), (32, 3, b.fab.colls.countP fun x => x.part == c.i && x.group == i)]
      | none => 0 },
  cntRow 0x60800 2 P80 (6, 8)]

/-! Spec 14: partitions. -/
/-- A write of PART_CTRL (R391): two partitions never bind one function. -/
def writePartCtrl (n v : Nat) (b : Block) : Block :=
  let f := bits v 2 4
  if bit v 6 && (List.range 16).any fun k => k != n && (b.part k).mgrEn && (b.part k).mgrFunc == f then b.modHub fun h => { h with ptRefused := true }
  else
    let b := b.modPart n fun p => { p with mgrFunc := f, mgrEn := bit v 6 }
    if bit v 6 then fetchAll b n else b
/-- A write of PART_BLOCKS_LO or _HI (R403). -/
def writeBlocks (n : Nat) (new : Nat → Nat) (b : Block) : Block :=
  if (b.part n).st ≠ .free then b.modHub fun h => { h with ptRefused := true } else b.modPart n fun p => { p with blocks := new p.blocks }
/-- PART_OP_STATUS.BUSY: the last SYNC, or the stop step of a kill, is in progress. -/
def opBusy (b : Block) : Bool := b.hub.syncing.isSome || (List.range 16).any fun n => (b.part n).st == .killing
/-- A write of PART_OP (R400, R402, R404); OP 0 is recorded and does nothing. -/
def writePartOp (v : Nat) (b : Block) : Block := match bits v 0 2 with
  | 0 => opStatus b 0 (bits v 2 4) 3
  | 1 => assign b (bits v 2 4)
  | 2 => killOp b (bits v 2 4)
  | _ => syncOp b (bits v 2 4)
def partRows : List RegRow := [
  { off := 0x70000, d1 := P8, rd := 2, wr := 1, read := ro fun c b => let p := b.part c.i
      pack [(0, 2, p.st.code), (2, 4, p.mgrFunc), (6, 1, b2n p.mgrEn), (7, 2, p.killCause), (9, 1, b2n p.cellsZeroed), (10, 1, b2n p.memZeroed)],
    write := fun c v b => writePartCtrl c.i v b },
  { off := 0x70080, d1 := P8, rd := 2, wr := 1, read := ro fun c b => bits (b.part c.i).blocks 0 64,
    write := fun c v b => writeBlocks c.i (fun x => low 64 v + bits x 64 36 * 2 ^ 64) b },
  { off := 0x70100, d1 := P8, rd := 2, wr := 1, read := ro fun c b => bits (b.part c.i).blocks 64 36,
    write := fun c v b => writeBlocks c.i (fun x => bits x 0 64 + low 36 v * 2 ^ 64) b },
  { off := 0x70180, d1 := P8, rd := 2, wr := 1, read := ro fun c b => pack [(0, 19, (b.part c.i).pageQuota), (19, 19, usedPages b c.i)],
    write := fun c v b => b.modPart c.i fun p => { p with pageQuota := min 391168 (bits v 0 19) } },
  { off := 0x70200, wr := 1, read := ro fun _ _ => 0, write := fun _ v b => writePartOp v b },
  { off := 0x70208, wr := 1, read := ro fun _ b => b2n (opBusy b) + low 10 b.hub.opStatus + 1024 * b2n b.hub.ptRefused,
    write := fun _ v b => if bit v 10 then b.modHub fun h => { h with ptRefused := false } else b },
  { off := 0x70280, read := ro fun c b => b.cnt c.a },
  { off := 0x71000, d1 := (16, 0x100), d2 := (8, 0x20), rd := 2, read := ro fun c b => b.cnt c.a },
  { off := 0x71008, d1 := (16, 0x100), d2 := (8, 0x20), rd := 2, read := freeRead 64 },
  { off := 0x71010, d1 := (16, 0x100), d2 := (8, 0x20), rd := 2, read := freeRead 64 },
  { off := 0x71018, d1 := (16, 0x100), d2 := (8, 0x20), rd := 2, read := ro fun c b => b.cnt c.a }]

/-! Spec 15: power. -/
def fixCap (v : Nat) : Nat := pack [(0, 13, min 4800 (bits v 0 13)), (13, 13, min 5600 (bits v 13 13)), (26, 8, min 95 (bits v 26 8))]
def fixCfg (v : Nat) : Nat := bits v 0 3 + max 1 (bits v 3 10) * 8
def fixJob (v : Nat) : Nat := low 30 v + clamp 200 1000 (bits v 30 10) * 2 ^ 30 + max 2 (bits v 40 8) * 2 ^ 40
def silentMembers (b : Block) : Nat :=
  if jobEn b && isMaster b then (members b).countP fun n => match b.pow.reqs.find? (·.1 == n) with
    | some (_, _, _, t) => decide (t + 1000000 * silentMs b < b.now)
    | none => true
  else 0
/-- POINT_TABLE is computed in boot step 3 (R415, R460). -/
def pointReg (b : Block) (k : Nat) : Nat :=
  if b.clk.step < 4 then pointMhz k else pack [(0, 12, pointMhz k), (12, 12, pointMv k), (24, 13, pointScale k), (37, 11, pointBase k)]
def powerRows : List RegRow := [
  stored 0x80000 1 1 (4800 + 5600 * 2 ^ 13 + 95 * 2 ^ 26) fixCap,
  stored 0x80008 1 1 (512 * 8) fixCfg,
  { off := 0x80010, rd := 1, read := ro fun _ b => let p := b.pow
      pack [(0, 3, p.point), (3, 3, p.committed), (6, 3, p.requested), (9, 2, p.lock), (11, 1, b2n p.frozen), (12, 1, b2n p.lost),
            (13, 1, b2n p.alert.isSome), (14, 9, p.reason), (23, 3, p.memThr)] },
  { off := 0x80018, rd := 1, read := ro fun _ b => let p := b.pow
      pack [(0, 16, p.est), (16, 16, if p.lost then 0 else p.telem), (32, 16, capPower p), (48, 16, p.avg1s)] },
  { off := 0x80020, rd := 1, read := ro fun _ b => let p := b.pow
      pack [(0, 16, p.kCal), (16, 10, effFuse), (26, 16, match p.divSince with | some t => min 65535 ((b.now - t) / 1000000) | none => 0)] },
  { off := 0x80040, d1 := (8, 8), rd := 1, read := ro fun c b => pointReg b c.i },
  stored 0x80080 1 1 (500 * 2 ^ 30 + 10 * 2 ^ 40) fixJob,
  stored 0x80088 0 1 0 (low 54),
  { off := 0x80090, rd := 1, read := ro fun _ b =>
      pack [(0, 32, match b.pow.lastSent with | some c => max c.serial b.pow.serial | none => b.pow.serial), (32, 14, silentMembers b)] },
  { off := 0x80100, d1 := (25, 8), rd := 1, read := fun c b =>
      (pack [(0, 8, mget 0 b.pow.temps c.i), (8, 8, mget 0 b.pow.peaks c.i), (16, 4, mget 0 b.pow.invalid c.i)],
       b.modPow fun p => { p with peaks := mset 0 p.peaks c.i 0 }) },
  cntRow 0x80200 1 one8 one8,
  cntRow 0x80800 1 (13, 8) one8]

/-! Spec 16: reset, boot and time. -/
def writeModuleReset (v : Nat) (b : Block) : Block := if low 8 v = 0xA5 then moduleReset b 2 0 0 else b
def clockRows : List RegRow := [
  { off := 0x90100, rd := 1, read := ro fun _ b => pack [(0, 4, b.clk.cause), (4, 4, b.clk.causeDom), (8, 5, b.clk.causeReg)] },
  { off := 0x90108, wr := 1, read := ro fun _ _ => 0, write := fun _ v b => writeModuleReset v b },
  { off := 0x90110, rd := 1, read := ro fun _ b => pack [(0, 3, b.clk.step), (3, 1, b2n b.clk.failed), (4, 8, b.clk.status), (12, 8, b.clk.subch)] },
  { off := 0x90140, d1 := (7, 8), rd := 1, read := ro fun c b => mget 0 b.clk.times c.i % 2 ^ 32 },
  { off := 0x90200, rd := 1, read := ro fun _ b => b.mtime },
  stored 0x90208 0 1 0 fun v => bits v 0 2 + min 23 (bits v 2 5) * 4,
  { off := 0x90210, rd := 1, read := ro fun _ b => pack [(0, 1, b2n b.clk.aligned), (1, 1, b2n (b.clk.slew != 0)), (2, 32, wrapN 32 b.clk.offset)] },
  stored 0x90218 0 1 20 fun v => clamp 11 1000 (bits v 0 10),
  { off := 0x90220, rd := 1, read := ro fun _ b => pack [(0, 16, b.clk.memRate), (16, 16, Config.memMax)] }]

/-! Spec 17: rings, apertures, the Kwasar link. -/
def ringCfgReg (r : Ring) : Nat :=
  pack [(0, 1, b2n r.en), (1, 1, b2n r.space), (2, 5, r.log2), (7, 1, b2n r.notify), (8, 8, r.vector), (16, 1, b2n r.fault), (17, 32, r.lost)]
def writePlatBase (v : Nat) (b : Block) : Block :=
  if b.hub.platEvt.en then b else b.modHub fun h => { h with platEvt := { h.platEvt with base := low 64 v } }
/-- The platform frees space in its event ring. -/
def writePlatHead (v : Nat) (b : Block) : Block :=
  if b.hub.platEvt.en then platLost (b.modHub fun h => { h with platEvt := { h.platEvt with head := low 32 v } }) else b
def writeRingBase (n r v : Nat) (b : Block) : Block :=
  if (partRing (b.part n) r).en then b else b.modPart n fun p => setRing p r { partRing p r with base := low 64 v }
def ringDim : Nat × Nat := (16, 0x100)
def ringIdx : Nat × Nat := (3, 0x20)
def ringRows : List RegRow := [
  { off := 0xA0000, d1 := ringDim, d2 := ringIdx, rd := 2, wr := 2, read := ro fun c b => (partRing (b.part c.i) c.j).base,
    write := fun c v b => writeRingBase c.i c.j v b },
  { off := 0xA0008, d1 := ringDim, d2 := ringIdx, rd := 2, wr := 2,
    read := fun c b => (ringCfgReg (partRing (b.part c.i) c.j), b.modPart c.i fun p => setRing p c.j { partRing p c.j with lost := 0 }),
    write := fun c v b => writeRingCfg b c.i c.j v },
  { off := 0xA0010, d1 := ringDim, d2 := ringIdx, rd := 2, wr := 2, read := ro fun c b => (partRing (b.part c.i) c.j).head,
    write := fun c v b => if c.j = 0 then b else (doorbell b c.i c.j (low 32 v)).2 },
  { off := 0xA0018, d1 := ringDim, d2 := ringIdx, rd := 2, wr := 2, read := ro fun c b => (partRing (b.part c.i) c.j).tail,
    write := fun c v b => if c.j = 0 then (doorbell b c.i 0 (low 32 v)).2 else b },
  { off := 0xA1000, wr := 1, read := ro fun _ b => b.hub.platEvt.base, write := fun _ v b => writePlatBase v b },
  { off := 0xA1008, wr := 1, read := fun _ b => (ringCfgReg b.hub.platEvt, b.modHub fun h => { h with platEvt := { h.platEvt with lost := 0 } }),
    write := fun _ v b => writePlatCfg b v },
  { off := 0xA1010, wr := 1, read := ro fun _ b => b.hub.platEvt.head, write := fun _ v b => writePlatHead v b },
  { off := 0xA1018, read := ro fun _ b => b.hub.platEvt.tail },
  { off := 0xA1100, d1 := (4, 0x20), d2 := (4, 8), read := ro fun c b => bits (b.hub.lastEvents.getD c.i 0) (64 * c.j) 64 },
  stored 0xA2000 2 1 0 (fun v => low 64 v / 4096 * 4096) (16, 0x400) (128, 8)]
/-- MGMT_PATH_STATUS. -/
def pathRead (c : RegAt) (b : Block) : Nat × Block :=
  let p := b.path c.i
  (pack [(0, 16, p.timeouts), (16, 1, b2n p.unmapped), (17, 1, b2n p.late), (18, 32, p.lastAddr)], b.modPath c.i fun p => { p with timeouts := 0 })
def pathWrite (c : RegAt) (v : Nat) (b : Block) : Block :=
  b.modPath c.i fun p => { p with unmapped := p.unmapped && !bit v 16, late := p.late && !bit v 17 }
def kwRows : List RegRow := [
  { off := 0xA6000, d1 := (3, 8), wr := 1, read := pathRead, write := pathWrite },
  { off := 0xA7000, rd := 1, read := fun _ b => let k := b.hub.kw
      (pack [(0, 3, k.st), (3, 8, k.rev), (11, 5, k.funcs), (16, 8, k.retrains), (24, 9, b.hub.dma.length)],
       b.modHub fun h => { h with kw := { h.kw with retrains := 0 } }) },
  stored 0xA7008 0 1 2000 fun v => max 100 (low 16 v),
  cntRow 0xA7800 0 (10, 8) one8]

/-! Spec 18: security. -/
/-- A write of FW_STAGE_CTRL. -/
def writeStage (c : RegAt) (v : Nat) (b : Block) : Block :=
  let b := b.setReg c.a 0 (low 29 v)
  if bit v 29 then stageGo b else b
def secRows : List RegRow := [
  { off := 0xB0000, rd := 1, read := ro fun _ b => secStatus b },
  { off := 0xB0008, rd := 1, read := ro fun _ _ => deviceId },
  { off := 0xB0100, d1 := (5, 0x40), d2 := (6, 8), rd := 1, read := ro fun c b => bits (b.meas c.i).toNat (64 * c.j) 64 },
  { off := 0xB0400, d1 := (16, 0x40), d2 := (6, 8), rd := 2, read := ro fun c b => bits (mget 0 b.sec.partMeas c.i).toNat (64 * c.j) 64 },
  stored 0xB0800 2 2 0 (low 64) (16, 0x40) (6, 8),
  stored 0xB0C00 2 2 0 (low 64) (16, 0x40) (6, 8),
  stored 0xB1000 2 2 0 (low 64) P8,
  { off := 0xB1080, d1 := P8, rd := 2, wr := 2, read := ro fun c b => let a := b.attest c.i; pack [(3, 1, b2n a.busy), (4, 8, a.status), (12, 32, a.extends_)],
    write := fun c v b => attestCtrl b c.i v },
  { off := 0xB2000, d1 := (1024, 8), wr := 1, read := ro fun _ _ => 0, write := fun c v b => b.modSec fun s => { s with dirWin := s.dirWin.write (8 * c.i) 8 v } },
  { off := 0xB4000, wr := 1, read := ro fun _ b => pack [(2, 8, b.sec.dirStatus), (10, 4, b.sec.dirCheck)],
    write := fun c v b => if bit v 0 then submitDirective b c.i3c else b },
  { off := 0xB4008, d1 := (4, 8), read := ro fun c b => bits b.sec.nonce.toNat (64 * c.i) 64 },
  stored 0xB4100 0 1 0 (low 64),
  { off := 0xB4108, wr := 1, read := ro fun c b => pack [(0, 29, b.reg c.a), (30, 1, b2n b.sec.stage.busy), (31, 8, b.sec.stage.status)], write := writeStage }]

/-! Spec 19, 20: reliability and the sideband. -/
def fixReplay (v : Nat) : Nat := bits v 0 3 + max 1 (bits v 8 8) * 256 + max 1 (bits v 16 16) * 65536
def sideband (b : Block) : Nat × Block :=
  let (raw, b) := b.draw
  let down := faultDriven b
  (pack [(0, 1, b2n b.pow.alert.isSome), (1, 1, raw), (2, 1, b2n (b.clk.ready && b.hub.fatal.isNone)), (3, 1, b2n down), (4, 2, b.pins.addr),
         (6, 2, b.pins.iface), (8, 1, b2n b.sec.chatterAlert), (9, 1, b2n b.sec.chatterTrst)], b)
def relRows : List RegRow := [
  stored 0xC1000 1 1 (2 + 4 * 256 + 3600 * 65536) fixReplay,
  { off := 0xC1008, rd := 1, wr := 1, read := ro fun _ b => bits b.hub.fence 0 64, write := fun _ v b => clearFences b (low 64 v) },
  { off := 0xC1010, rd := 1, wr := 1, read := ro fun _ b => bits b.hub.fence 64 36, write := fun _ v b => clearFences b (low 36 v * 2 ^ 64) },
  { off := 0xC1040, d1 := (8, 8), rd := 1, read := ro fun c b => match b.hub.fenceLog[c.i]? with
      | some f => pack [(0, 10, f.cell), (10, 2, f.cause), (12, 4, f.part), (16, 1, 1), (17, 47, f.us)]
      | none => 0 },
  { off := 0xC1080, d1 := P8, rd := 2, read := ro fun c b => let p := b.part c.i; pack [(0, 1, b2n p.inRecovery), (1, 8, p.recStatus), (9, 32, p.recEnded)] },
  cntRow 0xC1800 0 (9, 8) one8,
  { off := 0xD0000, rd := 1, wr := 1, read := fun _ b => sideband b,
    write := fun _ v b => b.modSec fun s => { s with chatterAlert := s.chatterAlert && !bit v 8, chatterTrst := s.chatterTrst && !bit v 9 } }]
def hubRows : List RegRow :=
  baseRows ++ ledgerRows ++ clearingRows ++ remitHubRows ++ tallyRows ++ fabricHubRows ++ partRows ++ powerRows ++ clockRows ++ ringRows ++ kwRows ++
  secRows ++ relRows

end Sys2Proof.Machine
end

