-- ==== Sys2Proof/Machine/Mgmt.lean ====
section
/-!
DEFINITION. Machine/Mgmt.lean: management requests (R52 to R57, R391, R451 to R454, R461, R469, R470, R483, R485), and the
commands that are writes of one register.
-/
namespace Sys2Proof.Machine

/-! Address decode (R52). -/
/-- The rows that the unit at an address has, and the unit's number: cells, walkers, and the region-common space of each die. -/
def regUnit (a : Nat) : Option (List RegRow × Nat) :=
  let r := a / 2 ^ 27
  let blk := bits a 24 3
  let cell := bits a 20 4
  if r < 20 ∧ blk < 5 then
    if cell < 8 then some (cellRows, 40 * r + 8 * blk + cell)
    else if cell = 15 then some (walkerRows, 5 * r + blk) else none
  else if r ≤ 24 ∧ blk = 7 ∧ cell = 15 then
    some ((if r = 24 then hubRows else if 20 ≤ r then remitRows ++ fabricRows else purseRows) ++ dieRows, r)
  else none
/-- The row of a register, its indices and its unit; `none` for an unimplemented offset. -/
def regFind (a : Nat) : Option (RegRow × RegAt) :=
  match regUnit a with
  | none => none
  | some (rows, u) => rows.findSome? fun r => (r.find (a % 2 ^ 20)).map fun x => (r, { u := u, i := x.1, j := x.2, a := a })

/-! Privilege (R54, R391, R470). -/
/-- Who a request comes from: the platform, the manager of a partition, or a function bound to none. -/
inductive Who3 where
  | platform
  | manager (n : Nat)
  | nobody
  deriving DecidableEq, Repr
def requester (b : Block) : Path → Who3
  | .kwasar f _ => match funcPart b f with | some n => .manager n | none => .nobody
  | _ => .platform
/-- Whether an address lies in a cell or block that partition `n` holds. -/
def ownUnit (b : Block) (n a : Nat) : Bool :=
  let r := a / 2 ^ 27
  decide (r < 20) && decide (bits a 24 3 < 5) && blockOwner b (5 * r + bits a 24 3) == some n
/-- Whether the requester may make the access. A manager reaches the registers of its own cells and blocks, and reads those that are
partition-readable (R54), the rings' and apertures' for its own partition only (spec 17). It writes what it reaches of its own
partition, and nothing that only the platform can write. -/
def mgmtAllowed (b : Block) (w : Who3) (a : Nat) (write : Bool) : Bool := match w with
  | .platform => true
  | .nobody => false
  | .manager n =>
    let mine := ownUnit b n a
    match regFind a with
    | none => mine
    | some (r, x) =>
      let inCell := decide (a / 2 ^ 27 < 20) && decide (bits a 24 3 < 5)
      let own := if inCell then mine else r.rd == 1 || (r.rd == 2 && x.i == n)
      if write then own && r.wr != 1
      else mine || r.rd == 1 || (r.rd == 2 && (x.i == n || !(decide (0xA0000 ≤ a % 2 ^ 20) && decide (a % 2 ^ 20 < 0xA8000))))

/-! One access. -/
def pathCode : Path → Nat
  | .firmware => 0 | .kwasar _ _ => 1 | .i3c _ => 2
def pathFunc : Path → Nat
  | .kwasar f _ => f | _ => 0
def pathTag : Path → Nat
  | .kwasar _ t => t.toNat | .i3c s => s.toNat | _ => 0
/-- Reads or writes a register that is implemented, accessible and clocked; the pair is the data read and the state. -/
def regAccess (b : Block) (who : Option Nat) (i3c : Bool) (a : Nat) (write : Bool) (data : Nat) : Nat × Block :=
  match regFind a with
  | none => (0, b)
  | some (r, x) =>
    let x := { x with who := who, i3c := i3c }
    if write then (0, r.write x data b) else r.read x b
/-- Whether a write acts only from READY (R461): PART_OP, DOMAIN_RESET, DIRECTIVE_CTRL.SUBMIT, FW_STAGE_CTRL.GO. -/
def readyOnly (a data : Nat) : Bool :=
  a == 0xC7F70200 || (decide (a / 2 ^ 27 ≤ 24) && a % 2 ^ 27 == 0x7F90018) || (a == 0xC7FB4000 && bit data 0) || (a == 0xC7FB4108 && bit data 29)
/-- Whether a request needs a later boot step (R461). -/
def tooEarly (b : Block) (a : Nat) (write : Bool) (data : Nat) : Bool :=
  (a / 2 ^ 27 != 24 && decide (b.clk.step < 4)) || (write && !b.clk.ready && readyOnly a data)
def whoPart : Who3 → Option Nat
  | .manager n => some n | _ => none
/-- Performs a request and answers it; a module reset leaves no request to answer. -/
def mgmtDo (b : Block) (q : MReq) (who : Option Nat) : Block :=
  let (v, b') := regAccess b who (q.path == 2) q.addr q.write q.data
  if b'.kept.releases != b.kept.releases || !hubUp b' then b' else mreqAnswer b' q .done v
/-- Whether an entry point hears a request now: the module is up; after a failed boot or a fatal stop only the I3C target
answers; the card needs its link. -/
def pathOpen (b : Block) (p : Nat) : Bool :=
  hubUp b && (p == 2 || (!b.clk.failed && b.hub.fatal.isNone)) && (p != 1 || kwUp b)
/-- Requests that an entry point holds outstanding, and its limit (R485). -/
def pathFull (b : Block) (p : Nat) : Bool :=
  decide ((match p with | 0 => 16 | 1 => 64 | _ => 1) ≤ b.hub.mreqs.countP fun r => r.path == p && !r.over_)
/-- A domain's clock does not run: it has stopped, or it is an ECLK that has had no reference since boot (R451, R460). -/
def clockOff (b : Block) (r d : Nat) : Bool := (b.dom r d).stopped || (d == 3 && !(b.dom r d).on)
/-- An access of a register that a requester may make: it waits for a stopped clock, ends with LINK_DOWN in a domain that is
held in reset, or is performed. -/
def mgmtReach (b : Block) (p : Path) (a : Nat) (write : Bool) (data : Nat) : Block :=
  let done (st : Status) : Block := mgmtAnswer b (pathCode p) (pathFunc p) (pathTag p) write st 0 0
  let d := regDomain a
  if tooEarly b a write data then done .timeout
  else if (b.dom d.1 d.2).inReset then done .linkDown
  else
    let q : MReq := { path := pathCode p, func := pathFunc p, tag := pathTag p, addr := a, write := write, data := data, at_ := b.now }
    if clockOff b d.1 d.2 then b.modHub fun h => { h with mreqs := h.mreqs ++ [q] } else mgmtDo b q (whoPart (requester b p))
/-- A management request of `size` bytes: size and alignment, privilege, implemented offset, in that order (R57). A Kwasar
message of another payload is answered DESCRIPTOR_INVALID (R481). -/
def mgmtReq (p : Path) (a size : Nat) (write : Bool) (data : Nat) (b : Block) : Block :=
  if !pathOpen b (pathCode p) || pathFull b (pathCode p) then b else
  let b := if (pathCode p) = 2 then b.modHub fun h => { h with i3c := { h.i3c with busy := true, seq := (pathTag p), status := 0xFF } } else b
  let done (b : Block) (st : Status) (fl : Nat) : Block := mgmtAnswer b (pathCode p) (pathFunc p) (pathTag p) write st 0 fl
  if (pathCode p) = 1 ∧ size ≠ 8 then done (kwCount b 3) .descInvalid 0
  else if size ≠ 8 ∨ a % 8 ≠ 0 then done b .alignment 0
  else if !mgmtAllowed b (requester b p) a write then done b .protection 0
  else if (regFind a).isNone then done (b.modPath (pathCode p) fun x => { x with unmapped := true }) .done 1
  else mgmtReach b p a write data
/-- REGISTER_READ. -/
def execRegisterRead (p : Path) (addr : BitVec 32) (size : BitVec 4) (s : State) : Out := act (mgmtReq p addr.toNat size.toNat false 0) s
/-- REGISTER_WRITE. -/
def execRegisterWrite (p : Path) (addr : BitVec 32) (size : BitVec 4) (data : Word) (s : State) : Out :=
  fabRun (mgmtReq p addr.toNat size.toNat true data.toNat) s
/-- A write of one register, for the commands of the table that name it. -/
def regWrite (p : Path) (a v : Nat) (s : State) : Out := fabRun (mgmtReq p a 8 true v) s

/-! The clock returns to a stopped domain: requests that waited there are performed, and an abandoned one's answer is
discarded (R451, R452). -/
def serveOne (b : Block) (q : MReq) : Block :=
  let who := if q.path = 1 then funcPart b q.func else none
  let b := b.modHub fun h => { h with mreqs := h.mreqs.erase q }
  if q.over_ then (regAccess b who (q.path == 2) q.addr q.write q.data).2.modPath q.path fun p => { p with late := true }
  else mgmtDo b q who
def pllLockServe (r : Fin 25) (d : Fin 7) (b : Block) : Block :=
  let b := pllLock r d b
  if domHeld b r d then b else b.each (b.hub.mreqs.filter fun q => regDomain q.addr == (r.val, d.val)) serveOne

/-! I3C (R482, R483). -/
/-- A private write: OP, SEQ, address and, for a write, data. Any other OP or length is discarded; while a request is in
progress it is NACKed. -/
def execI3cRequest (op seq : BitVec 8) (addr : BitVec 32) (data : Option Word) (s : State) : Out := match op.toNat, data with
  | 1, none => act (mgmtReq (.i3c seq) addr.toNat 8 false 0) s
  | 2, some v => fabRun (mgmtReq (.i3c seq) addr.toNat 8 true v.toNat) s
  | _, _ => .next s
/-- The provisional ID carries the PART_CODE; its other bits, BCR and DCR are fused. -/
def i3cPid : Nat := (Config.fuse 0x300).toNat / 65536 % 2 ^ 32 * 65536 + 0x2580
def modI3c (b : Block) (f : I3c → I3c) : Block := b.modHub fun h => { h with i3c := f h.i3c }
/-- A common command: addresses are given and dropped, in-band interrupts enabled, limits set and read. -/
def i3cCcc (c : Ccc) (b : Block) : Block :=
  if !hubUp b then b else match c with
  | .enec int => modI3c b fun x => { x with ibi := x.ibi || int }
  | .disec int => modI3c b fun x => { x with ibi := x.ibi && !int }
  | .entdaa a | .setdasa a => if b.hub.i3c.dynAddr = 0 then modI3c b fun x => { x with dynAddr := a.toNat } else b
  | .rstdaa => modI3c b fun x => { x with dynAddr := 0 }
  | .setmwl n => modI3c b fun x => { x with mwl := n.toNat }
  | .getmwl => b.send (.i3c b.hub.i3c.mwl)
  | .getmrl => b.send (.i3c 11)
  | .getpid => b.send (.i3c i3cPid)
  | .getbcr => b.send (.i3c ((Config.fuse 0x301).toNat % 256))
  | .getdcr => b.send (.i3c ((Config.fuse 0x302).toNat % 256))
  | .getstatus => let (x, b) := b.draw; b.send (.i3c (x % 65536))
def execI3cCcc (c : Ccc) (s : State) : Out := act (i3cCcc c) s

/-! Commands that are a write of one register. -/
def execStoreInject (p : Path) (k : Fin 800) (data : Word) (s : State) : Out := regWrite p (cellBase k + 0x30028) data.toNat s
def streamCtrlAddr (k : Nat) (o : Bool) : Nat := cellBase k + if o then 0x50028 else 0x40028
def execStreamResume (p : Path) (k : Fin 800) (o : Bool) (s : State) : Out := regWrite p (streamCtrlAddr k o) 1 s
/-- ABANDON acts also where RESUME is set beside it. -/
def execStreamAbandon (p : Path) (k : Fin 800) (o both : Bool) (s : State) : Out := regWrite p (streamCtrlAddr k o) (2 + b2n both) s
def execAttnAbandon (p : Path) (k : Fin 800) (s : State) : Out := regWrite p (cellBase k + 0x21008) 1 s
def execClearingModeWrite (p : Path) (n : Fin 16) (mode : Bool) (s : State) : Out := regWrite p (0xC7F54000 + 8 * n) (b2n mode) s
def execPortModeWrite (p : Path) (e : Fin 4) (data : Word) (s : State) : Out := regWrite p (remBase e) data.toNat s
def execTallyQuotaWrite (p : Path) (n : Fin 16) (data : Word) (s : State) : Out := regWrite p (0xC7F5C000 + 8 * n) data.toNat s
def execLinkEnable (p : Path) (port : Fin 24) (en : Bool) (s : State) : Out := regWrite p (linkCtrlAddr port) (b2n en) s
def execLinkRetrain (p : Path) (port : Fin 24) (s : State) : Out := regWrite p (linkCtrlAddr port) 3 s
/-- Ring 0 to 2 of a partition, or (n = 16) the platform's event ring, with EN set. -/
def execRingEnable (p : Path) (n : Fin 17) (r : Fin 3) (cfg : BitVec 16) (s : State) : Out :=
  regWrite p (if n.val = 16 then 0xC7FA1008 else 0xC7FA0008 + 0x100 * n + 0x20 * r) (cfg.toNat / 2 * 2 + 1) s
def partOpAddr : Nat := 0xC7F70200
def execAssign (p : Path) (n : Fin 16) (s : State) : Out := regWrite p partOpAddr (1 + 4 * n) s
def execKill (p : Path) (n : Fin 16) (s : State) : Out := regWrite p partOpAddr (2 + 4 * n) s
def execSync (p : Path) (n : Fin 16) (s : State) : Out := regWrite p partOpAddr (3 + 4 * n) s
def execDomainResetAssert (p : Path) (r : Fin 25) (doms : BitVec 7) (s : State) : Out := regWrite p (regionBase r + 0x90018) doms.toNat s
def execModuleReset (p : Path) (key : BitVec 8) (s : State) : Out := regWrite p 0xC7F90108 key.toNat s
def attestAddr (n : Nat) : Nat := 0xC7FB1080 + 8 * n
/-- REPORT, with or without EXTEND in the same write. -/
def execReport (p : Path) (n : Fin 16) (extend : Bool) (s : State) : Out := regWrite p (attestAddr n) (1 + 4 * b2n extend) s
def execCerts (p : Path) (n : Fin 16) (extend : Bool) (s : State) : Out := regWrite p (attestAddr n) (2 + 4 * b2n extend) s
def execExtend (p : Path) (n : Fin 16) (s : State) : Out := regWrite p (attestAddr n) 4 s
def execSubmit (p : Path) (s : State) : Out := regWrite p 0xC7FB4000 1 s
def execGo (p : Path) (len : BitVec 25) (func : BitVec 4) (s : State) : Out :=
  regWrite p 0xC7FB4108 (len.toNat + func.toNat * 2 ^ 25 + 2 ^ 29) s

end Sys2Proof.Machine
end

