-- ==== Sys2Proof/Machine/KwFlits.lean ====
section
/-!
DEFINITION. Machine/KwFlits.lean: flits and messages that arrive on the Kwasar link: their checks, its four virtual channels with
their receive buffers and credits (R467 to R469, R481).
-/
namespace Sys2Proof.Machine

/-! Messages (R469). A message stands as a packet with a header of 16 bytes. -/
def Pkt.mFunc (m : Pkt) : Nat := bits m.h 8 4
def Pkt.mTag (m : Pkt) : Nat := bits m.h 16 16
def Pkt.mStatus (m : Pkt) : Nat := bits m.h 48 8
def Pkt.mAddr (m : Pkt) : Nat := bits m.h 64 64
/-- The virtual channel of a message of the card; none for a type that the card does not send. -/
def Pkt.kwVc (m : Pkt) : Option Nat := match m.typ with
  | 1 | 2 | 3 => some 2
  | 6 | 8 => some 1
  | _ => none
/-- Whether a message's reserved bits are zero and its LENGTH is right for its type. -/
def Pkt.mOk (m : Pkt) : Bool :=
  bits m.h 12 4 == 0 && bits m.h 56 8 == 0 &&
  (match m.typ with
    | 1 => m.mLen == 0 && m.mStatus == 0 && m.mAddr == bits m.mAddr 0 2 + bits m.mAddr 16 32 * 2 ^ 16
    | 2 => m.mLen == 0 && m.mStatus == 0 && decide (m.mAddr < 2 ^ 32)
    | 3 => m.mLen == 8 && m.mStatus == 0 && decide (m.mAddr < 2 ^ 32)
    | 6 => decide (m.mLen ≤ 512) && decide (m.mAddr < 2 ^ 16)
    | 8 => m.mLen == 0 && m.mAddr == 0
    | _ => false)
/-- What a message does. One that breaks R469 is discarded and counted, a management request answered (R481). -/
def kwMessage (b : Block) (m : Pkt) : Block :=
  let f : Fin 16 := Fin.ofNat 16 m.mFunc
  let path : Path := .kwasar f (BitVec.ofNat 16 m.mTag)
  if !m.mOk then
    let b := kwCount b 3
    if m.typ = 2 ∨ m.typ = 3 then mgmtAnswer b 1 m.mFunc m.mTag (m.typ == 3) .descInvalid 0 0 else b
  else match m.typ with
    | 1 => doorbellMsg f (BitVec.ofNat 2 m.mAddr) (BitVec.ofNat 32 (m.mAddr / 2 ^ 16)) b
    | 2 => mgmtReq path m.mAddr 8 false 0 b
    | 3 => mgmtReq path m.mAddr 8 true m.data b
    -- tags are numbered below 256: any other is free
    | 6 => if 256 ≤ m.mTag then kwCount b 6
           else dmaData (BitVec.ofNat 8 m.mTag) (BitVec.ofNat 8 m.mStatus) (BitVec.ofNat 16 m.mAddr) { len := m.mLen, val := m.data } b
    | _ => if 256 ≤ m.mTag then kwCount b 6 else dmaWrAck (BitVec.ofNat 8 m.mTag) (BitVec.ofNat 8 m.mStatus) b

/-! Receive buffers and credits (R358, R359, R468). -/
/-- Messages leave the receive buffers in the order of each channel, and their credits go back to the card; a request of the card
waits while the entry point holds all that it can (R485). -/
def kwDrain : Nat → Block → Block
  | 0, b => b
  | fuel + 1, b =>
    let wait (m : Pkt) : Bool := m.kwVc == some 2 && pathFull b 1
    if !kwUp b then b else
    match (b.link 24).rx.find? fun m => !wait m with
    | none => b
    | some m =>
      let vc := m.kwVc.getD 0
      let b := b.modLink 24 fun l => { l with rx := l.rx.erase m, rxUsed := mmod 0 l.rxUsed vc (· - m.mCredits) }
      kwDrain fuel (kwMessage (sendCtl b 24 0 vc m.mCredits 0) m)
def kwDrainAll (b : Block) : Block := kwDrain (b.link 24).rx.length b
/-- A complete message enters the 16 KiB receive buffer of its channel, or breaks the credits: RECOVER (R359). -/
def kwArrive (b : Block) (m : Pkt) : Block := match m.kwVc with
  | none => kwMessage b m
  | some vc =>
    if !kwUp b then b
    else if 256 < mget 0 (b.link 24).rxUsed vc + m.mCredits then kwFlush (kwTo (kwCount b 2) 3 3)
    else b.modLink 24 fun l => { l with rx := l.rx ++ [m], rxUsed := mmod 0 l.rxUsed vc (· + m.mCredits) }
/-- Reads the 16-byte slots of a data flit: bytes of the message in progress first, then the messages that begin at slot `first`. -/
def kwSlots (first : Nat) : List Nat → Nat → Block → Block
  | [], _, b => b
  | i :: is, v, b =>
    let (n, a) := (b.link 24).rxBuf
    let slot := v % 2 ^ 128
    let b := if n = 0 ∧ (i < first ∨ slot % 256 = 0) then b else
      let a := a + slot * 2 ^ (8 * n)
      let n := n + 16
      let m : Pkt := { h := a % 2 ^ 128, data := a / 2 ^ 128 }
      if 16 + m.mPayload ≤ n then
        kwArrive (b.modLink 24 fun l => { l with rxBuf := (0, 0) }) { m with data := m.data % 2 ^ (8 * m.mPayload) }
      else b.modLink 24 fun l => { l with rxBuf := (n, a) }
    kwSlots first is (v / 2 ^ 128) b

/-! Flits (R467). -/
/-- A NAK: every flit left in the replay buffer is sent again; one already sent 9 times ends in RECOVER (R357). -/
def kwNak (b : Block) : Block :=
  let l := (b.link 24).replay
  if l.any fun f => decide (9 ≤ f.sends) then kwFlush (kwTo b 3 1)
  else resendFlits (b.modLink 24 fun x => { x with replay := l.map fun f => { f with sends := f.sends + 1 } }) 24 l
/-- 272 wire bytes arrive on the Kwasar link: checked as on a Sniedor port, with HELLO in place of IDENT, FTYPE 4 reserved and a CVC
of 0 to 3. -/
def kwFlit (w : BitVec 2176) (b : Block) : Block :=
  if !kwUp b || domHeld b 24 5 then b else
  let bad (b : Block) : Block := nakFlit b 24
  match wireFlit w.toNat with
  | none => bad (kwCount b 0)
  | some (f, _) =>
    let first := bits f 41 5
    if crc64 248 (f % 2 ^ 1984) ≠ bits f 1984 64 then bad (kwCount b 0)
    else if 3 < bits f 0 4 ∨ 3 < bits f 28 3 ∨ (14 < first ∧ first ≠ 31) then bad (kwCount b 1)
    else
      let b := b.modLink 24 fun l => { (l.acked (bits f 16 12)) with goodAt := b.now, credits := mmod 0 l.credits (bits f 28 3) (· - bits f 31 10) }
      if bits f 0 4 = 2 then kwNak b
      else if bits f 0 4 ≠ 1 ∨ bits f 4 12 ≠ (b.link 24).rxSeq then b else
      let b := b.modLink 24 fun l => { l with rxSeq := (l.rxSeq + 1) % 4096 }
      kwDrainAll (sendCtl (kwSlots first (List.range 15) (bits f 64 1920) b) 24 0 0 0 0)
/-- FLIT_RECEIVE, on a Sniedor port or on the Kwasar link. -/
def execFlitReceive (p : Fin 25) (w : BitVec 2176) (s : State) : Out :=
  if h : p.val < 24 then act (flitReceive ⟨p.val, h⟩ w) s else fabRun (kwFlit w) s

/-! Ends of management requests, which let those that wait in the receive buffer go on. -/
def execMgmtWatchdog (path : Fin 3) (s : State) : Out := fabRun (fun b => kwDrainAll (mgmtWatchdog path b)) s
def execPllLock (r : Fin 25) (d : Fin 7) (s : State) : Out := fabRun (fun b => kwDrainAll (pllLockServe r d b)) s

end Sys2Proof.Machine
end

