-- ==== Sys2Proof/Machine/Ordered.lean ====
section
/-!
DEFINITION. Machine/Ordered.lean: the start of a ring command that was set aside until every earlier command of its ring had
committed (R394).
-/
namespace Sys2Proof.Machine

/-- The operation of each opcode (R393). -/
def opOf (op : Nat) : Block → Cmd → Block := match op with
  | 0x01 => opMap | 0x02 => opUnmap | 0x03 => opWeightLoad | 0x04 => opCancel
  | 0x10 => opHostCopy | 0x11 => opHostNotify | 0x30 => opRecoveryDone
  | 0x40 => opLedModel | 0x41 => opLedPool | 0x42 => opAdmit | 0x43 => opReserve | 0x44 => opSeal | 0x45 => opFork
  | 0x46 => opImport | 0x47 => opPreempt | 0x48 => opResume | 0x49 => opCompact | 0x4A => opRelease
  | 0x50 => opProgLoad | 0x51 => opProgUnload | 0x52 => opBatch
  | 0x60 => opQpSetup | 0x61 => opQpReset | 0x62 => opDestSet | 0x63 => opDestClear | 0x64 => opResend
  | 0x70 => opTallySet | 0x71 => opTallyThresh | 0x72 => opWinOpen | 0x73 => opWinClose
  | 0x80 => opGroupSet | 0x81 => opGroupClear | 0x82 => opColl
  | _ => opNop
/-- Whether partition `n` has an admitted batch, for which a PROG_UNLOAD waits (R298). -/
def batchHeld (b : Block) (n : Nat) : Bool := (b.part n).ahead.isSome || (b.part n).running.isSome
/-- The first command of partition `n` that was set aside and waits no longer. -/
def asideReady (b : Block) (n : Nat) : Option Cmd :=
  b.hub.cmds.find? fun c => c.part == n && c.st == .aside && !earlier b n c.id && !(c.op == 0x51 && batchHeld b n)
/-- ORDERED_START: its validation and start. -/
def orderedStart (n : Fin 16) (b : Block) : Block :=
  if b.hub.fatal.isSome then b else
  match asideReady b n with
  | none => b
  | some c =>
    let b := modCmd b c.id fun c => { c with st := .running }
    match stateCheck (b.part n) with
    | some st => finish b c.id st
    | none => opOf c.op b { c with st := .running }
def execOrderedStart (n : Fin 16) (s : State) : Out := fabRun (orderedStart n) s

end Sys2Proof.Machine
end

