-- ==== Sys2Proof/Machine/Power.lean ====
section
/-!
DEFINITION. Machine/Power.lean: purses, the power limits, telemetry, the job-wide lock, the alert wire and the thermal
controller (spec 15).
-/
namespace Sys2Proof.Machine

/-! The ticks of the hub (R420, R424 to R428). -/
/-- The reservations of R420 in tenths of a watt. -/
def reserve (b : Block) : Nat :=
  let snd := ((List.range 24).filter fun p => bit (b.reg (linkCtrlAddr p)) 0).length
  let eth := ((List.range 4).filter fun e => bits (b.reg (regionBase (20 + e) + 0x20000) 24) 1 2 != 0).length
  80 * snd + 75 * eth + 80 + 2960
/-- capacity = floor((PEAK_W · EFF − reservations − BASE_W) / (20 · coin_w)), with coin_w = 0.1 W · SCALE ÷ 4,096 · K (R419,
R420): both sides scaled by 10 · 1,024 · 4,096 · 4,096. -/
def purseCapacity (b : Block) (r : Nat) : Nat :=
  let k := b.pow.point
  if b.pow.guard then 0 else
    let num : Int := (peakW b * effFuse * 10 : Nat) - ((reserve b + 10 * pointBase k) * 1024 : Nat)
    let den : Int := (20 * pointScale k * b.pow.kCal * 1024 : Nat)
    let c : Int := if den = 0 then 0 else (num * 4096 * 4096) / den
    min (max c 0).toNat (purseCeil b r)
/-- Memory throttling (R426): one more eighth at most once per 1 ms under the guard or per 10 ms otherwise, one eighth back
per 10 ms once both conditions have been clear for 10 ms. -/
def memThrottle (b : Block) : Block :=
  let p := b.pow
  let g := p.guard && decide (p.guardAt + 500000 ≤ b.now) && decide (97 * peakW b < 100 * p.avg2)
  let s := p.committed == 7 && decide (susW b < p.avg1s)
  let since (d : Nat) : Bool := match p.memAt with | none => true | some t => decide (t + d ≤ b.now)
  if g || s then
    let b := b.modPow fun p => { p with memClear := none }
    if since (if g then 1000000 else 10000000) && decide (p.memThr < 6) then
      b.modPow fun p => { p with memThr := p.memThr + 1, memAt := some b.now }
    else b
  else match p.memClear with
  | none => b.modPow fun p => { p with memClear := some b.now }
  | some t =>
    if decide (t + 10000000 ≤ b.now) && since 10000000 && decide (0 < p.memThr) then
      b.modPow fun p => { p with memThr := p.memThr - 1, memAt := some b.now }
    else b
/-- Every 50 µs: the peak guard, the capacities and memory throttling (R420, R424, R426). -/
def purseTick (b : Block) : Block :=
  if !tickDue b 0 50000 then b else
  let b := tickMark b 0
  let a := b.pow.avg2
  let on := decide (97 * peakW b < 100 * a)
  let off := decide (100 * a < 92 * peakW b)
  let b := b.modPow fun p => { p with guard := if on then true else if off then false else p.guard,
                                      guardAt := if on && !p.guard then b.now else p.guardAt }
  let b := b.each (List.range 20) fun b r => b.modPurse r fun x => { x with cap := purseCapacity b r }
  throttleAccount (memThrottle b)
def execPurseTick (s : State) : Out := act purseTick s
/-- Every 1 ms: the sustained point (R425) and memory throttling. -/
def sustainedTick (b : Block) : Block :=
  if !tickDue b 1 1000000 then b else
  let b := tickMark b 1
  let b := b.modPow fun p => { p with h1s := (capPower p :: p.h1s).take 1000 }
  let p := b.pow
  let a := p.avg1s
  let b :=
    if susW b < a + 50 then
      let ok : Bool := match p.susAt with | none => true | some t => decide (t + 10000000 ≤ b.now)
      b.modPow fun p => { p with susLow := none, susPoint := if ok then min 7 (p.susPoint + 1) else p.susPoint,
                                 susAt := if ok then some b.now else p.susAt }
    else if a + 300 < susW b then
      match p.susLow with
      | none => b.modPow fun p => { p with susLow := some b.now }
      | some t => if t + 100000000 ≤ b.now then b.modPow fun p => { p with susLow := some b.now, susPoint := p.susPoint - 1 } else b
    else b.modPow fun p => { p with susLow := none }
  throttleAccount (memThrottle b)
def execSustainedTick (s : State) : Out := act sustainedTick s
/-- Every 10 µs the estimate is computed (R427): `w` is the load power in watts of the units' activity, links and memory at
the fused energy weights, which the spec gives no values for; the base power and the efficiency are added here. -/
def estimateTick (w : Nat) (b : Block) : Block :=
  if !tickDue b 2 10000 then b else
  let b := tickMark b 2
  let raw := (w + pointBase b.pow.point) * 1024 / max 1 effFuse
  let b := b.modPow fun p => { p with raw := raw, est := raw * p.kCal / 4096 }
  let b := b.modPow fun p => { p with cap := capPower p, h2 := (capPower p :: p.h2).take 200 }
  throttleAccount b
def execEstimateTick (w : Nat) (s : State) : Out := act (estimateTick w) s
/-- Every 100 µs the input stages are read: millivolts and milliamperes of each, or no valid reading (R428). K follows the
ratio of telemetry to the estimate through a first-order filter of 100 ms, by at most 0.01 % a reading. -/
def telemetryRead (stages : List (Option (Nat × Nat))) (b : Block) : Block :=
  if !tickDue b 3 100000 then b else
  let b := tickMark b 3
  let b := b.each (List.range stages.length) fun b i => match stages.getD i none with
    | some _ => b.modPow fun p => { p with stageAt := mset 0 p.stageAt i (b.now + 1) }
    | none => b.modPow fun p => { p with stageAt := if mget 0 p.stageAt i = 0 then mset 0 p.stageAt i (b.now + 1) else p.stageAt }
  if stages.any (·.isNone) then b else
  let t := stages.foldl (fun a s => match s with | some (v, i) => a + v * i | none => a) 0 / 1000000
  let b := b.modPow fun p => { p with telem := t }
  let p := b.pow
  let agree := decide (4 * (max t p.est - min t p.est) ≤ p.est)
  let b := b.modPow fun p =>
    { p with divSince := if agree then none else match p.divSince with | none => some b.now | x => x,
             agreeSince := if agree then (match p.agreeSince with | none => some b.now | x => x) else none }
  if p.frozen || p.lost || p.raw = 0 then b else
    let target : Int := (t * 4096 * 65536 / p.raw : Nat)
    let step : Int := (target - p.k) / 1000
    let lim : Int := p.k / 10000
    let k : Int := (p.k : Int) + max (-lim) (min lim step)
    b.modPow fun p => { p with k := (max (3277 * 65536) (min (5120 * 65536) k)).toNat }
def execTelemetryRead (stages : List (Option (Nat × Nat))) (s : State) : Out := act (telemetryRead stages) s
def divEvent (b : Block) (on : Bool) : Block :=
  eventPlat b 0 0x0A03 .done 0 chipLoc (detail [(16, 1, b2n on), (18, 2, b.pow.est), (20, 2, b.pow.telem), (22, 2, b.pow.kCal)])
/-- Divergence begins after 10 ms and ends after 100 ms of agreement (R429). -/
def modelDivergence (b : Block) : Block :=
  let p := b.pow
  match p.diverged, p.divSince, p.agreeSince with
  | false, some t, _ => if t + 10000000 < b.now ∧ !p.lost then divEvent (b.modPow fun p => { p with diverged := true, frozen := true }) true else b
  | true, _, some t => if t + 100000000 ≤ b.now then divEvent (b.modPow fun p => { p with diverged := false, frozen := p.lost }) false else b
  | _, _, _ => b
def execModelDivergence (s : State) : Out := act modelDivergence s
/-- Telemetry is lost when an input stage has given no valid reading for 1 ms, and returns when all have (R430). -/
def telemetryLost (stage : Fin 64) (b : Block) : Block :=
  let p := b.pow
  let old := (p.stageAt.filter fun x => decide (x.2 + 1000000 ≤ b.now + 1)).map (·.1)
  let ev (b : Block) (on : Bool) (st : Nat) : Block := eventPlat b 0 0x0A04 .done 0 chipLoc (detail [(16, 1, b2n on), (17, 1, st)])
  if !p.lost && old.contains stage.val then ev (b.modPow fun p => { p with lost := true, frozen := true, telem := 0 }) true stage
  else if p.lost && old.isEmpty then ev (b.modPow fun p => { p with lost := false, frozen := p.diverged }) false stage
  else b
def execTelemetryLost (stage : Fin 64) (s : State) : Out := act (telemetryLost stage) s
/-- A detector sees the rail below its level, or the rail has been above it for 64 cycles (R417): `ns` is the time that the
stretch has added. -/
def droop (r : Fin 20) (ns : Nat) (b : Block) : Block :=
  if !hubUp b then b else
  let on := mget false b.pow.droop r
  let a := purseBase r
  let b := b.modPow fun p => { p with droop := mset false p.droop r (!on) }
  if on then b.count (a + 0x828) ns else b.count (a + 0x820)
def execDroop (r : Fin 20) (ns : Nat) (s : State) : Out := act (droop r ns) s

/-! The job-wide lock (R432 to R438). -/
/-- An EPOCH packet. -/
def epochPkt (b : Block) (dst kind point : Nat) (urgent : Bool) (serial at_ : Nat) : Pkt :=
  mkPkt 9 2 dst (nodeId b) 0 0 0 [(16, 1, kind), (17, 1, point + 8 * b2n urgent), (18, 2, jobNum b), (20, 4, serial), (24, 8, at_)]
/-- EPOCH packets travel outside any connection; to this module they arrive in its own inbox. -/
def sendEpoch (b : Block) (dst : Nat) (k : Pkt) : Block :=
  if dst = nodeId b then b.modFab fun f => { f with inbox := f.inbox ++ [{ pkt := k, conn := none }] }
  else match routeSend b (dst % 4) (stamp b k) with | some b => b | none => fabCount b (dst % 4) 4
/-- A member acts on a commit: it schedules the switch and starts any ramp from the rails' voltage; a COMMIT ends LOST (R435, R437). A
member whose own slower point is in force acts on a repeated COMMIT too, and so returns to the job's point. -/
def commitArrive (b : Block) (serial point at_ : Nat) : Block :=
  let p := b.pow
  let lock := if emergency b && decide (p.committed < 7) then 2 else 1
  let b := b.modPow fun p => { p with commitAt := b.now, lock := if p.lock = 3 then lock else p.lock }
  let b := if p.lock = 3 then
      eventPlat b 0 0x0A08 .done 0 chipLoc (detail [(16, 1, lock), (17, 1, 3), (18, 2, jobMaster b), (20, 4, serial)])
    else b
  let again := decide (serial = p.serial ∧ p.slowPoint ≠ 0) && p.commit.isNone
  if serial ≤ p.serial ∧ ¬again then b else
  let late := decide (at_ < b.mtime)
  let b := if late then powCount b 10 else b
  let v := railMv b
  rampSet (b.modPow fun p => { p with serial := serial, volt := some v, rampFrom := none,
                                      commit := some { serial := serial, point := point, at_ := at_, late := late } })
/-- Nanoseconds of the ramp from a voltage to a point's, at 2 mV/µs (R435). -/
def rampNs (mv to_ : Nat) : Nat := (pointMv to_ - mv) * 500
/-- The switch at AT, or when the ramp finishes (R435). A switch whose AT follows the end of an emergency ends its hold on P7
(R28, R439). -/
def pointSwitch (b : Block) : Block :=
  match b.pow.commit with
  | none => b
  | some c =>
    if b.mtime < c.at_ then b else
    let rampDone := match b.pow.rampFrom with
      | none => true
      | some (t, v) => decide (t + rampNs v c.point ≤ b.now)
    if !rampDone then b else
    let lateRamp := match b.pow.rampFrom with
      | some (t, v) => !c.late && decide (c.at_ < (t + rampNs v c.point + b.mtOff) % 2 ^ 64)
      | none => false
    let b := if lateRamp then powCount b 11 else b
    let hold := b.pow.forced || decide (c.at_ ≤ b.pow.relTime)
    let back := emergency b && !hold
    let v := if b.pow.forced then min (railMv b) (pointMv c.point) else pointMv c.point
    applyPoint (b.modPow fun p => { p with commit := none, rampFrom := none, committed := c.point, slowPoint := 0, volt := some v,
                                           alertEmer := p.alertEmer && hold, heatEmer := p.heatEmer && hold }) (if back then 2 else 0)
def execPointSwitch (s : State) : Out := act pointSwitch s
/-- The job point the master sets, and its commit (R434). -/
def masterEval (b : Block) : Block :=
  let p := b.pow
  let cur := match p.lastSent with | some c => c.point | none => p.committed
  let nodes := if jobEn b then members b else [0]
  let req (n : Nat) : Nat := match p.reqs.find? (·.1 == n) with
    | some (_, r, _, t) => if t + 1000000 * silentMs b < b.now ∧ jobEn b then cur else r
    | none => cur
  let new := if nodes.isEmpty then cur else nodes.foldl (fun a n => max a (req n)) 0
  let b := if new = cur then b else
    b.modPow fun p => { p with lastSent := some { serial := (match p.lastSent with | some c => max c.serial p.serial | none => p.serial) + 1,
                                                  point := new, at_ := (b.mtime + 1000 * leadUs b) % 2 ^ 64 } }
  match b.pow.lastSent with
  | none => b
  | some c =>
    if jobEn b then b.each nodes fun b n => sendEpoch b n (epochPkt b n 1 c.point false c.serial c.at_)
    else commitArrive b c.serial c.point c.at_
/-- Every 1 ms, and at once on a change, a member sends its request to its master (R433). -/
def epochRequestSend (b : Block) : Block :=
  if !isReady b then b else
  let r := ownRequest b
  let u := b.pow.forced
  let b := b.modPow fun p => { p with requested := r }
  if !(tickDue b 4 1000000 || r ≠ b.pow.sentReq || (u && !b.pow.urgentSent)) then b else
  let b := (tickMark b 4).modPow fun p => { p with sentReq := r, urgentSent := u }
  if jobEn b then sendEpoch b (jobMaster b) (epochPkt b (jobMaster b) 0 r u b.pow.serial 0)
  else
    let b := b.modPow fun p => { p with reqs := [(0, (r, u, b.now))] }
    if u then masterEval b else b
def execEpochRequestSend (s : State) : Out := run epochRequestSend s
def masterEvaluate (b : Block) : Block := if isReady b && isMaster b && tickDue b 5 1000000 then masterEval (tickMark b 5) else b
def execMasterEvaluate (s : State) : Out := run masterEvaluate s
/-- The next arrived EPOCH packet of a kind. -/
def takeEpoch (b : Block) (kind : Nat) : Option (Pkt × Block) :=
  match b.fab.inbox.find? fun x => x.pkt.typ == 9 && x.pkt.u 16 1 == kind with
  | none => none
  | some x => some (x.pkt, b.modFab fun f => { f with inbox := f.inbox.erase x })
/-- The master records a request and evaluates at once when it is URGENT (R434, R438). -/
def epochRequest (b : Block) : Block :=
  match takeEpoch b 0 with
  | none => b
  | some (k, b) =>
    if !jobEn b || !isMaster b || k.u 18 2 != jobNum b || bits (k.u 17 1) 4 4 != 0 then fabCount b (k.src % 4) 2 else
    let u := bit (k.u 17 1) 3
    let b := b.modPow fun p => { p with reqs := mset (0, false, 0) p.reqs k.src (k.u 17 1 % 8, u, b.now) }
    if u && isReady b then masterEval b else b
def execEpochRequest (s : State) : Out := run epochRequest s
def epochCommit (b : Block) : Block :=
  match takeEpoch b 1 with
  | none => b
  | some (k, b) =>
    if !jobEn b || k.u 18 2 != jobNum b || k.src != jobMaster b then fabCount b (k.src % 4) 2
    else commitArrive b (k.u 20 4) (k.u 17 1 % 8) (k.u 24 8)
def execEpochCommit (s : State) : Out := act epochCommit s
/-- No COMMIT for SILENT_MS: the member is LOST (R437), and moves only to a slower point of its own, beside the committed one. -/
def lockSilent (b : Block) : Block :=
  let p := b.pow
  if !jobEn b || !isReady b || decide (b.now < p.commitAt + 1000000 * silentMs b) then b else
  let b := if p.lock = 3 then b else
    let silent := if isMaster b then ((members b).filter fun n => match p.reqs.find? (·.1 == n) with
      | some (_, _, _, t) => decide (t + 1000000 * silentMs b < b.now) | none => true).length else 0
    eventPlat (b.modPow fun p => { p with lock := 3 }) 0 0x0A08 .done 0 chipLoc
      (detail [(16, 1, 3), (17, 1, p.lock), (18, 2, jobMaster b), (20, 4, p.serial), (24, 2, silent)])
  if max b.pow.committed b.pow.slowPoint < ownRequest b then
    let v := railMv b
    applyPoint (b.modPow fun p => { p with slowPoint := ownRequest b, volt := some (min v (pointMv (ownRequest b))), rampFrom := none }) 0
  else b
def execLockSilent (s : State) : Out := act lockSilent s

/-! The alert wire (R439, R440). -/
def pwrAlertAssert (b : Block) : Block :=
  let b := { b with pins := { b.pins with alert := true } }
  if !hubUp b || b.pow.alert.isSome then b else
  let b := powCount (b.modPow fun p => { p with alert := some b.now, alertRel := none, alertHold := true, alertEmer := true, stuckAt := none }) 12
  let b := applyPoint (rampSet b) 1
  if isReady b then epochRequestSend b else b
def execPwrAlertAssert (s : State) : Out := run pwrAlertAssert s
/-- After release the module leaves P7 at the first COMMIT whose AT follows it; `chatter` says that the raw level changed
while the release filter held the input asserted (R540). -/
def pwrAlertRelease (chatter : Bool) (b : Block) : Block :=
  let b := { b with pins := { b.pins with alert := false } }
  if b.pow.alert.isNone then b else
  let b := b.modSec fun s => { s with chatterAlert := s.chatterAlert || chatter }
  let b := b.modPow fun p => { p with alert := none, alertRel := some b.now, relTime := b.mtime }
  applyPoint (rampSet b) 2
def execPwrAlertRelease (chatter : Bool) (s : State) : Out := act (pwrAlertRelease chatter) s
/-- After 100 ms of assertion and every 10 s, from READY on (R439, R540). -/
def alertStuck (b : Block) : Block :=
  match b.pow.alert with
  | none => b
  | some t =>
    if !isReady b then b else
    let due := match b.pow.stuckAt with | none => t + 100000000 | some u => u + 10000000000
    if b.now < due then b else
    eventPlat (b.modPow fun p => { p with stuckAt := some b.now }) 0 0x0A05 .done 0 chipLoc (detail [(16, 4, (b.now - t) / 1000000000)])
def execAlertStuck (s : State) : Out := act alertStuck s
/-- After 10 ms without a break the alert's hold on the request is lifted, and so is that of a thermal emergency (R440). -/
def causeClear (b : Block) : Block :=
  let clear (t : Option Nat) : Bool := match t with | some t => decide (t + 10000000 ≤ b.now) | none => false
  b.modPow fun p =>
    let a := clear p.alertRel && p.alert.isNone
    let h := clear p.thEmerEnd && !p.thEmer
    { p with alertHold := p.alertHold && !a, alertRel := if a then none else p.alertRel, thEmerEnd := if h then none else p.thEmerEnd }
def execCauseClear (s : State) : Out := act causeClear s

/-! Temperature (R441, R442). -/
/-- Every 100 µs: the four readings of each of 25 dies, or no valid reading. An emergency that ends leaves the module at P7 until the
next epoch (R28). -/
def thermalRead (t : List (List (Option Nat))) (b : Block) : Block :=
  if !tickDue b 6 100000 then b else
  let b := tickMark b 6
  let lim := thermLimit b
  let die (r : Nat) : List (Option Nat) := t.getD r []
  let hot (r : Nat) : Option (Nat × Nat) := (List.range 4).foldl (fun (a : Option (Nat × Nat)) s => match (die r).getD s none with
    | some x => (match a with | none => some (x, s) | some (y, q) => if y < x then some (x, s) else some (y, q))
    | none => a) none
  let inv (r : Nat) : Nat := (List.range 4).foldl (fun a s => a + b2n ((die r).getD s none).isNone * 2 ^ s) 0
  -- a die's reading: an invalid sensor counts as the hottest valid one plus 5, a die with none as L - 1
  let b := b.each (List.range 25) fun b r =>
    let old := mget 0 b.pow.invalid r
    let b := b.each ((List.range 4).filter fun s => bit (inv r) s && !bit old s) fun b s =>
      eventPlat b 0 0x0A09 .done 0 (regionLoc r) (detail [(16, 1, r), (17, 1, s)])
    let mx := match hot r with | some (x, _) => x | none => 0
    b.modPow fun p => { p with invalid := mset 0 p.invalid r (inv r), temps := mset 0 p.temps r mx, peaks := mset 0 p.peaks r (max (mget 0 p.peaks r) mx) }
  let eff (r : Nat) : Nat × Nat := match hot r with
    | some (x, s) => if inv r = 0 then (x, s) else (x + 5, s)
    | none => (lim - 1, 0)
  let top := (List.range 25).foldl (fun (a : Nat × Nat × Nat) r => if a.1 < (eff r).1 then ((eff r).1, r, (eff r).2) else a) (0, 0, 0)
  let m := top.1
  let p := b.pow
  let slow := decide (lim ≤ m + 5)
  let slowOk : Bool := match p.thAt with | none => true | some x => decide (x + 10000000 ≤ b.now)
  let b := b.modPow fun p =>
    { p with hotAt := top,
             hotSince := if lim + 5 ≤ m then (match p.hotSince with | none => some b.now | x => x) else none,
             thPoint := if slow && slowOk then min 7 (p.thPoint + 1) else p.thPoint,
             thAt := if slow && slowOk then some b.now else p.thAt,
             thCool := if m + 8 < lim then (match p.thCool with | none => some b.now | x => x) else none }
  let b := match b.pow.thCool with
    | some x => if x + 100000000 ≤ b.now then b.modPow fun p => { p with thPoint := p.thPoint - 1, thCool := some b.now } else b
    | none => b
  let hotEv (b : Block) (on : Bool) : Block := eventPlat b 0 0x0A06 .done 0 (regionLoc top.2.1)
    (detail [(16, 1, top.2.1), (17, 1, top.2.2), (18, 1, m), (19, 1, b2n on)])
  let b :=
    if !p.thEmer && decide (lim ≤ m + 1) then
      let b := applyPoint (rampSet (hotEv (b.modPow fun p => { p with thEmer := true, thEmerEnd := none }) true)) 1
      if isReady b then epochRequestSend b else b
    else if p.thEmer && decide (m + 6 < lim) then
      rampSet (hotEv (b.modPow fun p => { p with thEmer := false, thEmerEnd := some b.now, heatEmer := true, relTime := b.mtime }) false)
    else b
  throttleAccount b
def execThermalRead (t : List (List (Option Nat))) (s : State) : Out := run (thermalRead t) s
/-- Tmax at L + 5 for 1 ms: the trip output is asserted and the module stops (R441, R522). -/
def thermalTrip (b : Block) : Block :=
  match b.pow.hotSince with
  | none => b
  | some t =>
    if b.now < t + 1000000 ∨ b.hub.fatal.isSome then b else
    let (m, r, s) := b.pow.hotAt
    let b := eventPlat b 0 0x0A07 .aborted 4 (regionLoc r) (detail [(16, 1, r), (17, 1, s), (18, 1, m)])
    fatalStop { b.send (.pin 2 true) with pins := { b.pins with tripped := true } } 4 (regionLoc r)
def execThermalTrip (s : State) : Out := act thermalTrip s

end Sys2Proof.Machine
end

