-- ==== Sys2Proof/Machine/Dispatch.lean ====
section
/-!
DEFINITION. Machine/Dispatch.lean: each command of the table with its meaning.
-/
namespace Sys2Proof.Machine

/-- The effect of a command on everything but the queue of waiting commands. -/
def exec (i : Instr) (s : State) : Host.Outcome State Fault Refusal :=
  match i with
  | .registerWrite p addr size data => Sys2Proof.Machine.execRegisterWrite p addr size data s
  | .sAdd f => Sys2Proof.Machine.execSAdd f s
  | .sSub f => Sys2Proof.Machine.execSSub f s
  | .sMul f => Sys2Proof.Machine.execSMul f s
  | .sMulh f => Sys2Proof.Machine.execSMulh f s
  | .sAnd f => Sys2Proof.Machine.execSAnd f s
  | .sOr f => Sys2Proof.Machine.execSOr f s
  | .sXor f => Sys2Proof.Machine.execSXor f s
  | .sShl f => Sys2Proof.Machine.execSShl f s
  | .sShr f => Sys2Proof.Machine.execSShr f s
  | .sSra f => Sys2Proof.Machine.execSSra f s
  | .sMin f => Sys2Proof.Machine.execSMin f s
  | .sMax f => Sys2Proof.Machine.execSMax f s
  | .sMinu f => Sys2Proof.Machine.execSMinu f s
  | .sMaxu f => Sys2Proof.Machine.execSMaxu f s
  | .sSlt f => Sys2Proof.Machine.execSSlt f s
  | .sSltu f => Sys2Proof.Machine.execSSltu f s
  | .sSel f => Sys2Proof.Machine.execSSel f s
  | .sPopc f => Sys2Proof.Machine.execSPopc f s
  | .sClz f => Sys2Proof.Machine.execSClz f s
  | .sAddi f => Sys2Proof.Machine.execSAddi f s
  | .sAndi f => Sys2Proof.Machine.execSAndi f s
  | .sOri f => Sys2Proof.Machine.execSOri f s
  | .sXori f => Sys2Proof.Machine.execSXori f s
  | .sShli f => Sys2Proof.Machine.execSShli f s
  | .sShri f => Sys2Proof.Machine.execSShri f s
  | .sSrai f => Sys2Proof.Machine.execSSrai f s
  | .sSlti f => Sys2Proof.Machine.execSSlti f s
  | .sSltiu f => Sys2Proof.Machine.execSSltiu f s
  | .sLi f => Sys2Proof.Machine.execSLi f s
  | .sLui f => Sys2Proof.Machine.execSLui f s
  | .sLd f => Sys2Proof.Machine.execSLd f s
  | .sLds f => Sys2Proof.Machine.execSLds f s
  | .sSt f => Sys2Proof.Machine.execSSt f s
  | .sCsrr f => Sys2Proof.Machine.execSCsrr f s
  | .sCsrw f => Sys2Proof.Machine.execSCsrw f s
  | .vAdd f => Sys2Proof.Machine.execVAdd f s
  | .vSub f => Sys2Proof.Machine.execVSub f s
  | .vMul f => Sys2Proof.Machine.execVMul f s
  | .vFma f => Sys2Proof.Machine.execVFma f s
  | .vMin f => Sys2Proof.Machine.execVMin f s
  | .vMax f => Sys2Proof.Machine.execVMax f s
  | .vAbs f => Sys2Proof.Machine.execVAbs f s
  | .vNeg f => Sys2Proof.Machine.execVNeg f s
  | .vAnd f => Sys2Proof.Machine.execVAnd f s
  | .vOr f => Sys2Proof.Machine.execVOr f s
  | .vXor f => Sys2Proof.Machine.execVXor f s
  | .vShl f => Sys2Proof.Machine.execVShl f s
  | .vShr f => Sys2Proof.Machine.execVShr f s
  | .vSra f => Sys2Proof.Machine.execVSra f s
  | .vSel f => Sys2Proof.Machine.execVSel f s
  | .vCmp f => Sys2Proof.Machine.execVCmp f s
  | .vPand f => Sys2Proof.Machine.execVPand f s
  | .vPor f => Sys2Proof.Machine.execVPor f s
  | .vPxor f => Sys2Proof.Machine.execVPxor f s
  | .vPnot f => Sys2Proof.Machine.execVPnot f s
  | .vPlt f => Sys2Proof.Machine.execVPlt f s
  | .vPcnt f => Sys2Proof.Machine.execVPcnt f s
  | .vBcast f => Sys2Proof.Machine.execVBcast f s
  | .vExt f => Sys2Proof.Machine.execVExt f s
  | .vIns f => Sys2Proof.Machine.execVIns f s
  | .vMov f => Sys2Proof.Machine.execVMov f s
  | .vIota f => Sys2Proof.Machine.execVIota f s
  | .vPerm f => Sys2Proof.Machine.execVPerm f s
  | .vRot f => Sys2Proof.Machine.execVRot f s
  | .vRsum f => Sys2Proof.Machine.execVRsum f s
  | .vRmax f => Sys2Proof.Machine.execVRmax f s
  | .vRmin f => Sys2Proof.Machine.execVRmin f s
  | .vCvt f => Sys2Proof.Machine.execVCvt f s
  | .vLd f => Sys2Proof.Machine.execVLd f s
  | .vSt f => Sys2Proof.Machine.execVSt f s
  | .vLdg f => Sys2Proof.Machine.execVLdg f s
  | .vStg f => Sys2Proof.Machine.execVStg f s
  | .vAccr f => Sys2Proof.Machine.execVAccr f s
  | .vAccw f => Sys2Proof.Machine.execVAccw f s
  | .vExp2 f => Sys2Proof.Machine.execVExp2 f s
  | .vLog2 f => Sys2Proof.Machine.execVLog2 f s
  | .vRsqrt f => Sys2Proof.Machine.execVRsqrt f s
  | .vRcp f => Sys2Proof.Machine.execVRcp f s
  | .vSin f => Sys2Proof.Machine.execVSin f s
  | .vCos f => Sys2Proof.Machine.execVCos f s
  | .cNop f => Sys2Proof.Machine.execCNop f s
  | .cBr f => Sys2Proof.Machine.execCBr f s
  | .cJal f => Sys2Proof.Machine.execCJal f s
  | .cJr f => Sys2Proof.Machine.execCJr f s
  | .cLoop f => Sys2Proof.Machine.execCLoop f s
  | .cHalt f => Sys2Proof.Machine.execCHalt f s
  | .cTrap f => Sys2Proof.Machine.execCTrap f s
  | .cTstart f => Sys2Proof.Machine.execCTstart f s
  | .yWtok f => Sys2Proof.Machine.execYWtok f s
  | .yTokst f => Sys2Proof.Machine.execYTokst f s
  | .yTinc f => Sys2Proof.Machine.execYTinc f s
  | .yTwait f => Sys2Proof.Machine.execYTwait f s
  | .yTread f => Sys2Proof.Machine.execYTread f s
  | .yBar f => Sys2Proof.Machine.execYBar f s
  | .yFence f => Sys2Proof.Machine.execYFence f s
  | .mChain f => Sys2Proof.Machine.execMChain f s
  | .mAttn f => Sys2Proof.Machine.execMAttn f s
  | .mZero f => Sys2Proof.Machine.execMZero f s
  | .dStream f => Sys2Proof.Machine.execDStream f s
  | .dCancel f => Sys2Proof.Machine.execDCancel f s
  | .dFence f => Sys2Proof.Machine.execDFence f s
  | .bFill f => Sys2Proof.Machine.execBFill f s
  | .bCopy f => Sys2Proof.Machine.execBCopy f s
  | .bAccset f => Sys2Proof.Machine.execBAccset f s
  | .bAccclr f => Sys2Proof.Machine.execBAccclr f s
  | .bRstat f => Sys2Proof.Machine.execBRstat f s
  | .bTagset f => Sys2Proof.Machine.execBTagset f s
  | .queueSlotFree k t => Sys2Proof.Machine.execQueueSlotFree k t s
  | .tileRelease k t => Sys2Proof.Machine.execTileRelease k t s
  | .waitLimit k t => Sys2Proof.Machine.execWaitLimit k t s
  | .fetchLineArrival k t line => Sys2Proof.Machine.execFetchLineArrival k t line s
  | .codeReload k line => Sys2Proof.Machine.execCodeReload k line s
  | .coalescerIdleDrain k line => Sys2Proof.Machine.execCoalescerIdleDrain k line s
  | .banksideStart k ix => Sys2Proof.Machine.execBanksideStart k ix s
  | .banksideComplete k ix => Sys2Proof.Machine.execBanksideComplete k ix s
  | .tagWaitRelease k g => Sys2Proof.Machine.execTagWaitRelease k g s
  | .weightRefetch k blk => Sys2Proof.Machine.execWeightRefetch k blk s
  | .weightRefetchTimeout k blk => Sys2Proof.Machine.execWeightRefetchTimeout k blk s
  | .scrubRow k => Sys2Proof.Machine.execScrubRow k s
  | .storeZeroed k => Sys2Proof.Machine.execStoreZeroed k s
  | .storeInject p k data => Sys2Proof.Machine.execStoreInject p k data s
  | .streamDescriptorStart k o => Sys2Proof.Machine.execStreamDescriptorStart k o s
  | .streamTransferLand k o j => Sys2Proof.Machine.execStreamTransferLand k o j s
  | .streamTimeout k o j => Sys2Proof.Machine.execStreamTimeout k o j s
  | .streamResume p k o => Sys2Proof.Machine.execStreamResume p k o s
  | .streamAbandon p k o both => Sys2Proof.Machine.execStreamAbandon p k o both s
  | .chainStart k => Sys2Proof.Machine.execChainStart k s
  | .coinGrant r => Sys2Proof.Machine.execCoinGrant r s
  | .coinWaitTimeout k => Sys2Proof.Machine.execCoinWaitTimeout k s
  | .drydownStart k => Sys2Proof.Machine.execDrydownStart k s
  | .chainWriteTimeout k => Sys2Proof.Machine.execChainWriteTimeout k s
  | .chainStop k => Sys2Proof.Machine.execChainStop k s
  | .chainCommit k => Sys2Proof.Machine.execChainCommit k s
  | .attnStart k => Sys2Proof.Machine.execAttnStart k s
  | .walkStart k => Sys2Proof.Machine.execWalkStart k s
  | .leafReadDone blk j => Sys2Proof.Machine.execLeafReadDone blk j s
  | .attnResumed k ix => Sys2Proof.Machine.execAttnResumed k ix s
  | .attnAbandon p k => Sys2Proof.Machine.execAttnAbandon p k s
  | .attnStop k => Sys2Proof.Machine.execAttnStop k s
  | .attnCommit k => Sys2Proof.Machine.execAttnCommit k s
  | .ledModel n r => Sys2Proof.Machine.execLedModel n r s
  | .ledPool n r => Sys2Proof.Machine.execLedPool n r s
  | .ledAdmit n r => Sys2Proof.Machine.execAdmit n r s
  | .ledReserve n r => Sys2Proof.Machine.execReserve n r s
  | .seal n r => Sys2Proof.Machine.execSeal n r s
  | .fork n r => Sys2Proof.Machine.execFork n r s
  | .ledImport n r => Sys2Proof.Machine.execImport n r s
  | .preempt n r => Sys2Proof.Machine.execPreempt n r s
  | .swapOutPage n x layer page => Sys2Proof.Machine.execSwapOutPage n x layer page s
  | .resume n r => Sys2Proof.Machine.execResume n r s
  | .swapInPage n x layer page => Sys2Proof.Machine.execSwapInPage n x layer page s
  | .compact n r => Sys2Proof.Machine.execCompact n r s
  | .release n r => Sys2Proof.Machine.execRelease n r s
  | .pinEnd n => Sys2Proof.Machine.execPinEnd n s
  | .progLoad n r => Sys2Proof.Machine.execProgLoad n r s
  | .progUnload n r => Sys2Proof.Machine.execProgUnload n r s
  | .batch n r => Sys2Proof.Machine.execBatch n r s
  | .runStart n => Sys2Proof.Machine.execRunStart n s
  | .runEnd n => Sys2Proof.Machine.execRunEnd n s
  | .clearingTimeout n => Sys2Proof.Machine.execClearingTimeout n s
  | .clearingModeWrite p n mode => Sys2Proof.Machine.execClearingModeWrite p n mode s
  | .qpSetup n r => Sys2Proof.Machine.execQpSetup n r s
  | .qpReset n r => Sys2Proof.Machine.execQpReset n r s
  | .destSet n r => Sys2Proof.Machine.execDestSet n r s
  | .destClear n r => Sys2Proof.Machine.execDestClear n r s
  | .resend n r => Sys2Proof.Machine.execResend n r s
  | .remitRequest e => Sys2Proof.Machine.execRemitRequest e s
  | .remitFrameRead e => Sys2Proof.Machine.execRemitFrameRead e s
  | .packetTransmit e p => Sys2Proof.Machine.execPacketTransmit e p s
  | .acknowledge e p ix psn syn ip => Sys2Proof.Machine.execAcknowledge e p ix psn syn ip s
  | .rnrTimer e ix => Sys2Proof.Machine.execRnrTimer e ix s
  | .ackTimeout e ix => Sys2Proof.Machine.execAckTimeout e ix s
  | .congestionNotification e p ix ip => Sys2Proof.Machine.execCongestionNotification e p ix ip s
  | .rateRecovery e ix => Sys2Proof.Machine.execRateRecovery e ix s
  | .rxFrame e p fr => Sys2Proof.Machine.execRxFrame e p fr s
  | .priorityPause e p cls ns => Sys2Proof.Machine.execPriorityPause e p cls ns s
  | .pauseExpiry e p => Sys2Proof.Machine.execPauseExpiry e p s
  | .peerViolation e p => Sys2Proof.Machine.execPeerViolation e p s
  | .portLinkUp e p iface => Sys2Proof.Machine.execPortLinkUp e p iface s
  | .portLinkDown e p => Sys2Proof.Machine.execPortLinkDown e p s
  | .portHoldExpiry e p => Sys2Proof.Machine.execPortHoldExpiry e p s
  | .portModeWrite p e data => Sys2Proof.Machine.execPortModeWrite p e data s
  | .tallyUpdate n h => Sys2Proof.Machine.execTallyUpdate n h s
  | .tallyWaitRelease k unit => Sys2Proof.Machine.execTallyWaitRelease k unit s
  | .tallySet n r => Sys2Proof.Machine.execTallySet n r s
  | .tallyThresh n r => Sys2Proof.Machine.execTallyThresh n r s
  | .tallyQuotaWrite p n data => Sys2Proof.Machine.execTallyQuotaWrite p n data s
  | .winOpen n r => Sys2Proof.Machine.execWinOpen n r s
  | .winReuseExpiry n => Sys2Proof.Machine.execWinReuseExpiry n s
  | .winClose n r => Sys2Proof.Machine.execWinClose n r s
  | .windowWriteArrival => Sys2Proof.Machine.execWindowWriteArrival s
  | .windowWriteLanded => Sys2Proof.Machine.execWindowWriteLanded s
  | .groupSet n r => Sys2Proof.Machine.execGroupSet n r s
  | .groupClear n r => Sys2Proof.Machine.execGroupClear n r s
  | .coll n r => Sys2Proof.Machine.execColl n r s
  | .collQueueTake n => Sys2Proof.Machine.execCollQueueTake n s
  | .collStart n => Sys2Proof.Machine.execCollStart n s
  | .collReady => Sys2Proof.Machine.execCollReady s
  | .collUp => Sys2Proof.Machine.execCollUp s
  | .collDown => Sys2Proof.Machine.execCollDown s
  | .collCounts => Sys2Proof.Machine.execCollCounts s
  | .collA2a => Sys2Proof.Machine.execCollA2a s
  | .collAbort => Sys2Proof.Machine.execCollAbort s
  | .collCommit n => Sys2Proof.Machine.execCollCommit n s
  | .orderStall n => Sys2Proof.Machine.execOrderStall n s
  | .collTimeout n => Sys2Proof.Machine.execCollTimeout n s
  | .rendezvousRetry => Sys2Proof.Machine.execRendezvousRetry s
  | .flitReceive p w => Sys2Proof.Machine.execFlitReceive p w s
  | .packetReceive p => Sys2Proof.Machine.execPacketReceive p s
  | .answer => Sys2Proof.Machine.execAnswer s
  | .e2eTimeout d => Sys2Proof.Machine.execE2eTimeout d s
  | .connectionReopen d => Sys2Proof.Machine.execConnectionReopen d s
  | .linkStall p vc => Sys2Proof.Machine.execLinkStall p vc s
  | .fabricViolation e => Sys2Proof.Machine.execFabricViolation e s
  | .linkEnable p port en => Sys2Proof.Machine.execLinkEnable p port en s
  | .linkRetrain p port => Sys2Proof.Machine.execLinkRetrain p port s
  | .linkTrainTimeout p => Sys2Proof.Machine.execLinkTrainTimeout p s
  | .linkSilence p => Sys2Proof.Machine.execLinkSilence p s
  | .recoverTimeout p => Sys2Proof.Machine.execRecoverTimeout p s
  | .downRetrain p => Sys2Proof.Machine.execDownRetrain p s
  | .retrainDone p node port => Sys2Proof.Machine.execRetrainDone p node port s
  | .timeFlitSend p => Sys2Proof.Machine.execTimeFlitSend p s
  | .timeFlit => Sys2Proof.Machine.execTimeFlit s
  | .cmdNop n r => Sys2Proof.Machine.execNop n r s
  | .cmdMap n r => Sys2Proof.Machine.execMap n r s
  | .unmap n r => Sys2Proof.Machine.execUnmap n r s
  | .pageZeroed e p => Sys2Proof.Machine.execPageZeroed e p s
  | .weightLoad n r => Sys2Proof.Machine.execWeightLoad n r s
  | .cmdCancel n r => Sys2Proof.Machine.execCmdCancel n r s
  | .orderedStart n => Sys2Proof.Machine.execOrderedStart n s
  | .assign p n => Sys2Proof.Machine.execAssign p n s
  | .kill p n => Sys2Proof.Machine.execKill p n s
  | .killStopDone n => Sys2Proof.Machine.execKillStopDone n s
  | .partScrubbed n => Sys2Proof.Machine.execPartScrubbed n s
  | .scrubBoundExpiry n => Sys2Proof.Machine.execScrubBoundExpiry n s
  | .sync p n => Sys2Proof.Machine.execSync p n s
  | .purseTick => Sys2Proof.Machine.execPurseTick s
  | .sustainedTick => Sys2Proof.Machine.execSustainedTick s
  | .estimateTick w => Sys2Proof.Machine.execEstimateTick w s
  | .telemetryRead stages => Sys2Proof.Machine.execTelemetryRead stages s
  | .modelDivergence => Sys2Proof.Machine.execModelDivergence s
  | .telemetryLost stage => Sys2Proof.Machine.execTelemetryLost stage s
  | .droop r ns => Sys2Proof.Machine.execDroop r ns s
  | .epochRequestSend => Sys2Proof.Machine.execEpochRequestSend s
  | .epochRequest => Sys2Proof.Machine.execEpochRequest s
  | .masterEvaluate => Sys2Proof.Machine.execMasterEvaluate s
  | .epochCommit => Sys2Proof.Machine.execEpochCommit s
  | .pointSwitch => Sys2Proof.Machine.execPointSwitch s
  | .lockSilent => Sys2Proof.Machine.execLockSilent s
  | .pwrAlertAssert => Sys2Proof.Machine.execPwrAlertAssert s
  | .pwrAlertRelease chatter => Sys2Proof.Machine.execPwrAlertRelease chatter s
  | .alertStuck => Sys2Proof.Machine.execAlertStuck s
  | .causeClear => Sys2Proof.Machine.execCauseClear s
  | .thermalRead t => Sys2Proof.Machine.execThermalRead t s
  | .thermalTrip => Sys2Proof.Machine.execThermalTrip s
  | .refclkAbsent r eth => Sys2Proof.Machine.execRefclkAbsent r eth s
  | .refclkReturn r eth => Sys2Proof.Machine.execRefclkReturn r eth s
  | .pllLock r d => Sys2Proof.Machine.execPllLock r d s
  | .clockStopped r d => Sys2Proof.Machine.execClockStopped r d s
  | .clkStopHoldExpiry r d => Sys2Proof.Machine.execClkStopHoldExpiry r d s
  | .domainResetAssert p r doms => Sys2Proof.Machine.execDomainResetAssert p r doms s
  | .domainResetRelease r d => Sys2Proof.Machine.execDomainResetRelease r d s
  | .moduleReset p key => Sys2Proof.Machine.execModuleReset p key s
  | .modResetNAssert => Sys2Proof.Machine.execModResetNAssert s
  | .modResetNRelease => Sys2Proof.Machine.execModResetNRelease s
  | .bootStepDone st sub bad => Sys2Proof.Machine.execBootStepDone st sub bad s
  | .bootStepTimeout => Sys2Proof.Machine.execBootStepTimeout s
  | .moduleTimeCorrection r lost => Sys2Proof.Machine.execModuleTimeCorrection r lost s
  | .memCalibration e zq => Sys2Proof.Machine.execMemCalibration e zq s
  | .doorbell f ring idx => Sys2Proof.Machine.execDoorbell f ring idx s
  | .dmaData tag st off data => Sys2Proof.Machine.execDmaData tag st off data s
  | .dmaWrAck tag st => Sys2Proof.Machine.execDmaWrAck tag st s
  | .dmaTimeout tag => Sys2Proof.Machine.execDmaTimeout tag s
  | .dmaTagRetireExpiry tag => Sys2Proof.Machine.execDmaTagRetireExpiry tag s
  | .ringEnable p n r cfg => Sys2Proof.Machine.execRingEnable p n r cfg s
  | .hostCopy n r => Sys2Proof.Machine.execHostCopy n r s
  | .hostNotify n r => Sys2Proof.Machine.execHostNotify n r s
  | .kwLinkDown cause => Sys2Proof.Machine.execKwLinkDown cause s
  | .kwLinkUp rev funcs => Sys2Proof.Machine.execKwLinkUp rev funcs s
  | .kwTrainTimeout => Sys2Proof.Machine.execKwTrainTimeout s
  | .kwViolation => Sys2Proof.Machine.execKwViolation s
  | .mgmtWatchdog path => Sys2Proof.Machine.execMgmtWatchdog path s
  | .i3cRequest op seq addr data => Sys2Proof.Machine.execI3cRequest op seq addr data s
  | .i3cCcc c => Sys2Proof.Machine.execI3cCcc c s
  | .report p n extend => Sys2Proof.Machine.execReport p n extend s
  | .certs p n extend => Sys2Proof.Machine.execCerts p n extend s
  | .extend p n => Sys2Proof.Machine.execExtend p n s
  | .submit p => Sys2Proof.Machine.execSubmit p s
  | .go p len func => Sys2Proof.Machine.execGo p len func s
  | .jtagInstruction ix => Sys2Proof.Machine.execJtagInstruction ix s
  | .trstNAssert chatter => Sys2Proof.Machine.execTrstNAssert chatter s
  | .replayStart k bank trig => Sys2Proof.Machine.execReplayStart k bank trig s
  | .recoveryDone n r => Sys2Proof.Machine.execRecoveryDone n r s
  | .memScrub e => Sys2Proof.Machine.execMemScrub e s
  | .fatalResetTimer => Sys2Proof.Machine.execFatalResetTimer s
  | .powerInputRise => Sys2Proof.Machine.execPowerInputRise s
  | .powerInputLoss => Sys2Proof.Machine.execPowerInputLoss s
  | .overvoltage => Sys2Proof.Machine.execOvervoltage s
  | .registerRead p addr size => Sys2Proof.Machine.execRegisterRead p addr size s
  | .cellNotAnswering k => Sys2Proof.Machine.execCellNotAnswering k s
  | .attnWriteTimeout k => Sys2Proof.Machine.execAttnWriteTimeout k s
  | .leafReadTimeout blk j => Sys2Proof.Machine.execLeafReadTimeout blk j s

end Sys2Proof.Machine
end

