-- ==== Sys2Proof/WellFormed.lean ====
section
/-!
DEFINITION. WellFormed.lean: what a command must be to be one: an instruction of a cell is one that program load accepts
(R69), a ring command's record carries its opcode (R393), and a payload fits its length.
-/
namespace Sys2Proof

/-- The 64-bit word of a cell's instruction (spec 03); the other commands have none. -/
def Instr.word : Instr → Option Nat
  | .sAdd f => some (f.word 0 0x00)
  | .sSub f => some (f.word 0 0x01)
  | .sMul f => some (f.word 0 0x02)
  | .sMulh f => some (f.word 0 0x03)
  | .sAnd f => some (f.word 0 0x04)
  | .sOr f => some (f.word 0 0x05)
  | .sXor f => some (f.word 0 0x06)
  | .sShl f => some (f.word 0 0x07)
  | .sShr f => some (f.word 0 0x08)
  | .sSra f => some (f.word 0 0x09)
  | .sMin f => some (f.word 0 0x0A)
  | .sMax f => some (f.word 0 0x0B)
  | .sMinu f => some (f.word 0 0x0C)
  | .sMaxu f => some (f.word 0 0x0D)
  | .sSlt f => some (f.word 0 0x0E)
  | .sSltu f => some (f.word 0 0x0F)
  | .sSel f => some (f.word 0 0x10)
  | .sPopc f => some (f.word 0 0x11)
  | .sClz f => some (f.word 0 0x12)
  | .sAddi f => some (f.word 0 0x20)
  | .sAndi f => some (f.word 0 0x24)
  | .sOri f => some (f.word 0 0x25)
  | .sXori f => some (f.word 0 0x26)
  | .sShli f => some (f.word 0 0x27)
  | .sShri f => some (f.word 0 0x28)
  | .sSrai f => some (f.word 0 0x29)
  | .sSlti f => some (f.word 0 0x2E)
  | .sSltiu f => some (f.word 0 0x2F)
  | .sLi f => some (f.word 0 0x30)
  | .sLui f => some (f.word 0 0x31)
  | .sLd f => some (f.word 0 0x40)
  | .sLds f => some (f.word 0 0x41)
  | .sSt f => some (f.word 0 0x42)
  | .sCsrr f => some (f.word 0 0x60)
  | .sCsrw f => some (f.word 0 0x61)
  | .vAdd f => some (f.word 1 0x00)
  | .vSub f => some (f.word 1 0x01)
  | .vMul f => some (f.word 1 0x02)
  | .vFma f => some (f.word 1 0x03)
  | .vMin f => some (f.word 1 0x04)
  | .vMax f => some (f.word 1 0x05)
  | .vAbs f => some (f.word 1 0x06)
  | .vNeg f => some (f.word 1 0x07)
  | .vAnd f => some (f.word 1 0x08)
  | .vOr f => some (f.word 1 0x09)
  | .vXor f => some (f.word 1 0x0A)
  | .vShl f => some (f.word 1 0x0B)
  | .vShr f => some (f.word 1 0x0C)
  | .vSra f => some (f.word 1 0x0D)
  | .vSel f => some (f.word 1 0x0E)
  | .vCmp f => some (f.word 1 0x10)
  | .vPand f => some (f.word 1 0x18)
  | .vPor f => some (f.word 1 0x19)
  | .vPxor f => some (f.word 1 0x1A)
  | .vPnot f => some (f.word 1 0x1B)
  | .vPlt f => some (f.word 1 0x1C)
  | .vPcnt f => some (f.word 1 0x1D)
  | .vBcast f => some (f.word 1 0x20)
  | .vExt f => some (f.word 1 0x21)
  | .vIns f => some (f.word 1 0x22)
  | .vMov f => some (f.word 1 0x23)
  | .vIota f => some (f.word 1 0x24)
  | .vPerm f => some (f.word 1 0x28)
  | .vRot f => some (f.word 1 0x29)
  | .vRsum f => some (f.word 1 0x30)
  | .vRmax f => some (f.word 1 0x31)
  | .vRmin f => some (f.word 1 0x32)
  | .vCvt f => some (f.word 1 0x50)
  | .vLd f => some (f.word 1 0x60)
  | .vSt f => some (f.word 1 0x61)
  | .vLdg f => some (f.word 1 0x62)
  | .vStg f => some (f.word 1 0x63)
  | .vAccr f => some (f.word 1 0x70)
  | .vAccw f => some (f.word 1 0x71)
  | .vExp2 f => some (f.word 1 0x40)
  | .vLog2 f => some (f.word 1 0x41)
  | .vRsqrt f => some (f.word 1 0x42)
  | .vRcp f => some (f.word 1 0x43)
  | .vSin f => some (f.word 1 0x44)
  | .vCos f => some (f.word 1 0x45)
  | .cNop f => some (f.word 6 0x00)
  | .cBr f => some (f.word 6 0x01)
  | .cJal f => some (f.word 6 0x02)
  | .cJr f => some (f.word 6 0x03)
  | .cLoop f => some (f.word 6 0x04)
  | .cHalt f => some (f.word 6 0x05)
  | .cTrap f => some (f.word 6 0x06)
  | .cTstart f => some (f.word 6 0x07)
  | .yWtok f => some (f.word 5 0x00)
  | .yTokst f => some (f.word 5 0x01)
  | .yTinc f => some (f.word 5 0x02)
  | .yTwait f => some (f.word 5 0x03)
  | .yTread f => some (f.word 5 0x04)
  | .yBar f => some (f.word 5 0x05)
  | .yFence f => some (f.word 5 0x06)
  | .mChain f => some (f.word 2 0x00)
  | .mAttn f => some (f.word 2 0x01)
  | .mZero f => some (f.word 2 0x02)
  | .dStream f => some (f.word 3 0x00)
  | .dCancel f => some (f.word 3 0x01)
  | .dFence f => some (f.word 3 0x02)
  | .bFill f => some (f.word 4 0x00)
  | .bCopy f => some (f.word 4 0x01)
  | .bAccset f => some (f.word 4 0x02)
  | .bAccclr f => some (f.word 4 0x03)
  | .bRstat f => some (f.word 4 0x04)
  | .bTagset f => some (f.word 4 0x05)
  | .registerWrite _ _ _ _ => none
  | .queueSlotFree _ _ => none
  | .tileRelease _ _ => none
  | .waitLimit _ _ => none
  | .fetchLineArrival _ _ _ => none
  | .codeReload _ _ => none
  | .coalescerIdleDrain _ _ => none
  | .banksideStart _ _ => none
  | .banksideComplete _ _ => none
  | .tagWaitRelease _ _ => none
  | .weightRefetch _ _ => none
  | .weightRefetchTimeout _ _ => none
  | .scrubRow _ => none
  | .storeZeroed _ => none
  | .storeInject _ _ _ => none
  | .streamDescriptorStart _ _ => none
  | .streamTransferLand _ _ _ => none
  | .streamTimeout _ _ _ => none
  | .streamResume _ _ _ => none
  | .streamAbandon _ _ _ _ => none
  | .chainStart _ => none
  | .coinGrant _ => none
  | .coinWaitTimeout _ => none
  | .drydownStart _ => none
  | .chainWriteTimeout _ => none
  | .chainStop _ => none
  | .chainCommit _ => none
  | .attnStart _ => none
  | .walkStart _ => none
  | .leafReadDone _ _ => none
  | .attnResumed _ _ => none
  | .attnAbandon _ _ => none
  | .attnStop _ => none
  | .attnCommit _ => none
  | .ledModel _ _ => none
  | .ledPool _ _ => none
  | .ledAdmit _ _ => none
  | .ledReserve _ _ => none
  | .seal _ _ => none
  | .fork _ _ => none
  | .ledImport _ _ => none
  | .preempt _ _ => none
  | .swapOutPage _ _ _ _ => none
  | .resume _ _ => none
  | .swapInPage _ _ _ _ => none
  | .compact _ _ => none
  | .release _ _ => none
  | .pinEnd _ => none
  | .progLoad _ _ => none
  | .progUnload _ _ => none
  | .batch _ _ => none
  | .runStart _ => none
  | .runEnd _ => none
  | .clearingTimeout _ => none
  | .clearingModeWrite _ _ _ => none
  | .qpSetup _ _ => none
  | .qpReset _ _ => none
  | .destSet _ _ => none
  | .destClear _ _ => none
  | .resend _ _ => none
  | .remitRequest _ => none
  | .remitFrameRead _ => none
  | .packetTransmit _ _ => none
  | .acknowledge _ _ _ _ _ _ => none
  | .rnrTimer _ _ => none
  | .ackTimeout _ _ => none
  | .congestionNotification _ _ _ _ => none
  | .rateRecovery _ _ => none
  | .rxFrame _ _ _ => none
  | .priorityPause _ _ _ _ => none
  | .pauseExpiry _ _ => none
  | .peerViolation _ _ => none
  | .portLinkUp _ _ _ => none
  | .portLinkDown _ _ => none
  | .portHoldExpiry _ _ => none
  | .portModeWrite _ _ _ => none
  | .tallyUpdate _ _ => none
  | .tallyWaitRelease _ _ => none
  | .tallySet _ _ => none
  | .tallyThresh _ _ => none
  | .tallyQuotaWrite _ _ _ => none
  | .winOpen _ _ => none
  | .winReuseExpiry _ => none
  | .winClose _ _ => none
  | .windowWriteArrival => none
  | .windowWriteLanded => none
  | .groupSet _ _ => none
  | .groupClear _ _ => none
  | .coll _ _ => none
  | .collQueueTake _ => none
  | .collStart _ => none
  | .collReady => none
  | .collUp => none
  | .collDown => none
  | .collCounts => none
  | .collA2a => none
  | .collAbort => none
  | .collCommit _ => none
  | .orderStall _ => none
  | .collTimeout _ => none
  | .rendezvousRetry => none
  | .flitReceive _ _ => none
  | .packetReceive _ => none
  | .answer => none
  | .e2eTimeout _ => none
  | .connectionReopen _ => none
  | .linkStall _ _ => none
  | .fabricViolation _ => none
  | .linkEnable _ _ _ => none
  | .linkRetrain _ _ => none
  | .linkTrainTimeout _ => none
  | .linkSilence _ => none
  | .recoverTimeout _ => none
  | .downRetrain _ => none
  | .retrainDone _ _ _ => none
  | .timeFlitSend _ => none
  | .timeFlit => none
  | .cmdNop _ _ => none
  | .cmdMap _ _ => none
  | .unmap _ _ => none
  | .pageZeroed _ _ => none
  | .weightLoad _ _ => none
  | .cmdCancel _ _ => none
  | .orderedStart _ => none
  | .assign _ _ => none
  | .kill _ _ => none
  | .killStopDone _ => none
  | .partScrubbed _ => none
  | .scrubBoundExpiry _ => none
  | .sync _ _ => none
  | .purseTick => none
  | .sustainedTick => none
  | .estimateTick _ => none
  | .telemetryRead _ => none
  | .modelDivergence => none
  | .telemetryLost _ => none
  | .droop _ _ => none
  | .epochRequestSend => none
  | .epochRequest => none
  | .masterEvaluate => none
  | .epochCommit => none
  | .pointSwitch => none
  | .lockSilent => none
  | .pwrAlertAssert => none
  | .pwrAlertRelease _ => none
  | .alertStuck => none
  | .causeClear => none
  | .thermalRead _ => none
  | .thermalTrip => none
  | .refclkAbsent _ _ => none
  | .refclkReturn _ _ => none
  | .pllLock _ _ => none
  | .clockStopped _ _ => none
  | .clkStopHoldExpiry _ _ => none
  | .domainResetAssert _ _ _ => none
  | .domainResetRelease _ _ => none
  | .moduleReset _ _ => none
  | .modResetNAssert => none
  | .modResetNRelease => none
  | .bootStepDone _ _ _ => none
  | .bootStepTimeout => none
  | .moduleTimeCorrection _ _ => none
  | .memCalibration _ _ => none
  | .doorbell _ _ _ => none
  | .dmaData _ _ _ _ => none
  | .dmaWrAck _ _ => none
  | .dmaTimeout _ => none
  | .dmaTagRetireExpiry _ => none
  | .ringEnable _ _ _ _ => none
  | .hostCopy _ _ => none
  | .hostNotify _ _ => none
  | .kwLinkDown _ => none
  | .kwLinkUp _ _ => none
  | .kwTrainTimeout => none
  | .kwViolation => none
  | .mgmtWatchdog _ => none
  | .i3cRequest _ _ _ _ => none
  | .i3cCcc _ => none
  | .report _ _ _ => none
  | .certs _ _ _ => none
  | .extend _ _ => none
  | .submit _ => none
  | .go _ _ _ => none
  | .jtagInstruction _ => none
  | .trstNAssert _ => none
  | .replayStart _ _ _ => none
  | .recoveryDone _ _ => none
  | .memScrub _ => none
  | .fatalResetTimer => none
  | .powerInputRise => none
  | .powerInputLoss => none
  | .overvoltage => none
  | .registerRead _ _ _ => none
  | .cellNotAnswering _ => none
  | .attnWriteTimeout _ => none
  | .leafReadTimeout _ _ => none

/-- The opcodes that a ring command and a NOP may have: whether the record of a command carries its own. -/
def Instr.opcodeOk : Instr → Bool
  | .ledModel _ r => r.u 0 1 == 0x40
  | .ledPool _ r => r.u 0 1 == 0x41
  | .ledAdmit _ r => r.u 0 1 == 0x42
  | .ledReserve _ r => r.u 0 1 == 0x43
  | .seal _ r => r.u 0 1 == 0x44
  | .fork _ r => r.u 0 1 == 0x45
  | .ledImport _ r => r.u 0 1 == 0x46
  | .preempt _ r => r.u 0 1 == 0x47
  | .resume _ r => r.u 0 1 == 0x48
  | .compact _ r => r.u 0 1 == 0x49
  | .release _ r => r.u 0 1 == 0x4A
  | .progLoad _ r => r.u 0 1 == 0x50
  | .progUnload _ r => r.u 0 1 == 0x51
  | .batch _ r => r.u 0 1 == 0x52
  | .qpSetup _ r => r.u 0 1 == 0x60
  | .qpReset _ r => r.u 0 1 == 0x61
  | .destSet _ r => r.u 0 1 == 0x62
  | .destClear _ r => r.u 0 1 == 0x63
  | .resend _ r => r.u 0 1 == 0x64
  | .tallySet _ r => r.u 0 1 == 0x70
  | .tallyThresh _ r => r.u 0 1 == 0x71
  | .winOpen _ r => r.u 0 1 == 0x72
  | .winClose _ r => r.u 0 1 == 0x73
  | .groupSet _ r => r.u 0 1 == 0x80
  | .groupClear _ r => r.u 0 1 == 0x81
  | .coll _ r => r.u 0 1 == 0x82
  | .cmdMap _ r => r.u 0 1 == 0x01
  | .unmap _ r => r.u 0 1 == 0x02
  | .weightLoad _ r => r.u 0 1 == 0x03
  | .cmdCancel _ r => r.u 0 1 == 0x04
  | .hostCopy _ r => r.u 0 1 == 0x10
  | .hostNotify _ r => r.u 0 1 == 0x11
  | .recoveryDone _ r => r.u 0 1 == 0x30
  | .cmdNop _ r => r.u 0 1 == 0 || !definedOps.contains (r.u 0 1)
  | .registerWrite _ _ _ _ => true
  | .sAdd _ => true
  | .sSub _ => true
  | .sMul _ => true
  | .sMulh _ => true
  | .sAnd _ => true
  | .sOr _ => true
  | .sXor _ => true
  | .sShl _ => true
  | .sShr _ => true
  | .sSra _ => true
  | .sMin _ => true
  | .sMax _ => true
  | .sMinu _ => true
  | .sMaxu _ => true
  | .sSlt _ => true
  | .sSltu _ => true
  | .sSel _ => true
  | .sPopc _ => true
  | .sClz _ => true
  | .sAddi _ => true
  | .sAndi _ => true
  | .sOri _ => true
  | .sXori _ => true
  | .sShli _ => true
  | .sShri _ => true
  | .sSrai _ => true
  | .sSlti _ => true
  | .sSltiu _ => true
  | .sLi _ => true
  | .sLui _ => true
  | .sLd _ => true
  | .sLds _ => true
  | .sSt _ => true
  | .sCsrr _ => true
  | .sCsrw _ => true
  | .vAdd _ => true
  | .vSub _ => true
  | .vMul _ => true
  | .vFma _ => true
  | .vMin _ => true
  | .vMax _ => true
  | .vAbs _ => true
  | .vNeg _ => true
  | .vAnd _ => true
  | .vOr _ => true
  | .vXor _ => true
  | .vShl _ => true
  | .vShr _ => true
  | .vSra _ => true
  | .vSel _ => true
  | .vCmp _ => true
  | .vPand _ => true
  | .vPor _ => true
  | .vPxor _ => true
  | .vPnot _ => true
  | .vPlt _ => true
  | .vPcnt _ => true
  | .vBcast _ => true
  | .vExt _ => true
  | .vIns _ => true
  | .vMov _ => true
  | .vIota _ => true
  | .vPerm _ => true
  | .vRot _ => true
  | .vRsum _ => true
  | .vRmax _ => true
  | .vRmin _ => true
  | .vCvt _ => true
  | .vLd _ => true
  | .vSt _ => true
  | .vLdg _ => true
  | .vStg _ => true
  | .vAccr _ => true
  | .vAccw _ => true
  | .vExp2 _ => true
  | .vLog2 _ => true
  | .vRsqrt _ => true
  | .vRcp _ => true
  | .vSin _ => true
  | .vCos _ => true
  | .cNop _ => true
  | .cBr _ => true
  | .cJal _ => true
  | .cJr _ => true
  | .cLoop _ => true
  | .cHalt _ => true
  | .cTrap _ => true
  | .cTstart _ => true
  | .yWtok _ => true
  | .yTokst _ => true
  | .yTinc _ => true
  | .yTwait _ => true
  | .yTread _ => true
  | .yBar _ => true
  | .yFence _ => true
  | .mChain _ => true
  | .mAttn _ => true
  | .mZero _ => true
  | .dStream _ => true
  | .dCancel _ => true
  | .dFence _ => true
  | .bFill _ => true
  | .bCopy _ => true
  | .bAccset _ => true
  | .bAccclr _ => true
  | .bRstat _ => true
  | .bTagset _ => true
  | .queueSlotFree _ _ => true
  | .tileRelease _ _ => true
  | .waitLimit _ _ => true
  | .fetchLineArrival _ _ _ => true
  | .codeReload _ _ => true
  | .coalescerIdleDrain _ _ => true
  | .banksideStart _ _ => true
  | .banksideComplete _ _ => true
  | .tagWaitRelease _ _ => true
  | .weightRefetch _ _ => true
  | .weightRefetchTimeout _ _ => true
  | .scrubRow _ => true
  | .storeZeroed _ => true
  | .storeInject _ _ _ => true
  | .streamDescriptorStart _ _ => true
  | .streamTransferLand _ _ _ => true
  | .streamTimeout _ _ _ => true
  | .streamResume _ _ _ => true
  | .streamAbandon _ _ _ _ => true
  | .chainStart _ => true
  | .coinGrant _ => true
  | .coinWaitTimeout _ => true
  | .drydownStart _ => true
  | .chainWriteTimeout _ => true
  | .chainStop _ => true
  | .chainCommit _ => true
  | .attnStart _ => true
  | .walkStart _ => true
  | .leafReadDone _ _ => true
  | .attnResumed _ _ => true
  | .attnAbandon _ _ => true
  | .attnStop _ => true
  | .attnCommit _ => true
  | .swapOutPage _ _ _ _ => true
  | .swapInPage _ _ _ _ => true
  | .pinEnd _ => true
  | .runStart _ => true
  | .runEnd _ => true
  | .clearingTimeout _ => true
  | .clearingModeWrite _ _ _ => true
  | .remitRequest _ => true
  | .remitFrameRead _ => true
  | .packetTransmit _ _ => true
  | .acknowledge _ _ _ _ _ _ => true
  | .rnrTimer _ _ => true
  | .ackTimeout _ _ => true
  | .congestionNotification _ _ _ _ => true
  | .rateRecovery _ _ => true
  | .rxFrame _ _ _ => true
  | .priorityPause _ _ _ _ => true
  | .pauseExpiry _ _ => true
  | .peerViolation _ _ => true
  | .portLinkUp _ _ _ => true
  | .portLinkDown _ _ => true
  | .portHoldExpiry _ _ => true
  | .portModeWrite _ _ _ => true
  | .tallyUpdate _ _ => true
  | .tallyWaitRelease _ _ => true
  | .tallyQuotaWrite _ _ _ => true
  | .winReuseExpiry _ => true
  | .windowWriteArrival => true
  | .windowWriteLanded => true
  | .collQueueTake _ => true
  | .collStart _ => true
  | .collReady => true
  | .collUp => true
  | .collDown => true
  | .collCounts => true
  | .collA2a => true
  | .collAbort => true
  | .collCommit _ => true
  | .orderStall _ => true
  | .collTimeout _ => true
  | .rendezvousRetry => true
  | .flitReceive _ _ => true
  | .packetReceive _ => true
  | .answer => true
  | .e2eTimeout _ => true
  | .connectionReopen _ => true
  | .linkStall _ _ => true
  | .fabricViolation _ => true
  | .linkEnable _ _ _ => true
  | .linkRetrain _ _ => true
  | .linkTrainTimeout _ => true
  | .linkSilence _ => true
  | .recoverTimeout _ => true
  | .downRetrain _ => true
  | .retrainDone _ _ _ => true
  | .timeFlitSend _ => true
  | .timeFlit => true
  | .pageZeroed _ _ => true
  | .orderedStart _ => true
  | .assign _ _ => true
  | .kill _ _ => true
  | .killStopDone _ => true
  | .partScrubbed _ => true
  | .scrubBoundExpiry _ => true
  | .sync _ _ => true
  | .purseTick => true
  | .sustainedTick => true
  | .estimateTick _ => true
  | .telemetryRead _ => true
  | .modelDivergence => true
  | .telemetryLost _ => true
  | .droop _ _ => true
  | .epochRequestSend => true
  | .epochRequest => true
  | .masterEvaluate => true
  | .epochCommit => true
  | .pointSwitch => true
  | .lockSilent => true
  | .pwrAlertAssert => true
  | .pwrAlertRelease _ => true
  | .alertStuck => true
  | .causeClear => true
  | .thermalRead _ => true
  | .thermalTrip => true
  | .refclkAbsent _ _ => true
  | .refclkReturn _ _ => true
  | .pllLock _ _ => true
  | .clockStopped _ _ => true
  | .clkStopHoldExpiry _ _ => true
  | .domainResetAssert _ _ _ => true
  | .domainResetRelease _ _ => true
  | .moduleReset _ _ => true
  | .modResetNAssert => true
  | .modResetNRelease => true
  | .bootStepDone _ _ _ => true
  | .bootStepTimeout => true
  | .moduleTimeCorrection _ _ => true
  | .memCalibration _ _ => true
  | .doorbell _ _ _ => true
  | .dmaData _ _ _ _ => true
  | .dmaWrAck _ _ => true
  | .dmaTimeout _ => true
  | .dmaTagRetireExpiry _ => true
  | .ringEnable _ _ _ _ => true
  | .kwLinkDown _ => true
  | .kwLinkUp _ _ => true
  | .kwTrainTimeout => true
  | .kwViolation => true
  | .mgmtWatchdog _ => true
  | .i3cRequest _ _ _ _ => true
  | .i3cCcc _ => true
  | .report _ _ _ => true
  | .certs _ _ _ => true
  | .extend _ _ => true
  | .submit _ => true
  | .go _ _ _ => true
  | .jtagInstruction _ => true
  | .trstNAssert _ => true
  | .replayStart _ _ _ => true
  | .memScrub _ => true
  | .fatalResetTimer => true
  | .powerInputRise => true
  | .powerInputLoss => true
  | .overvoltage => true
  | .registerRead _ _ _ => true
  | .cellNotAnswering _ => true
  | .attnWriteTimeout _ => true
  | .leafReadTimeout _ _ => true

/-- A string of bytes whose value fits its length. -/
def Bytes.ok (b : Bytes) : Bool := decide (b.val < 2 ^ (8 * b.len))
/-- A message of the card carries at most 512 bytes (R469); a frame's value fits its length. -/
def Instr.payloadOk : Instr → Bool
  | .dmaData _ _ _ d => d.ok && decide (d.len ≤ 512)
  | .rxFrame _ _ fr => fr.ok
  | _ => true

/-- A well-formed command. -/
def Instr.wf (i : Instr) : Bool := (match i.word with | some w => wordOk w | none => true) && i.opcodeOk && i.payloadOk

end Sys2Proof
end

