-- ==== Sys2Proof/Safety.lean ====
section
/-!
DEFINITION. Safety.lean: what a safe state and a safe run are, in the terms of the claims.
-/
namespace Sys2Proof.Machine

/-- Every waiting command is well-formed. -/
def State.queueWf (s : State) : Bool := s.pending.all Instr.wf
/-- LPDDR6 is in its canonical form. -/
def State.memWf (s : State) : Bool := s.blk.mem.wf
/-- A run of `n` steps from `s` that neither faults nor is refused, and its last state. -/
def run_ (s : State) : Nat → Option State
  | 0 => some s
  | n + 1 => match step s with
    | .next t => run_ t n
    | _ => none

end Sys2Proof.Machine
end

