-- ==== Sys2Proof/Certificates/Slice0/Obligations.lean ====
section
/-!
DEFINITION. Certificates/Slice0/Obligations.lean: the statements for the provers, family by family, and the notions they are
written in.
-/
section

namespace Sys2Proof.Claims
open Sys2Proof.Machine

/-- `exec i s` answers a next state with the same queue, whose block satisfies `P`. -/
def Answers (i : Instr) (s : State) (P : Block → Prop) : Prop :=
  ∃ u : State, exec i s = .next u ∧ u.pending = s.pending ∧ P u.blk

/-! Cells. -/
/-- A thread issues its next instruction (R59, R75): its cell answers and holds a program, the thread runs, its fetch buffer
is not stalled and its position lies inside the program. -/
def Runs (b : Block) (w : Who) : Prop :=
  cellLive (b.cell w.cell) = true ∧ (b.thread w.cell w.thr).st = .run ∧ (b.thread w.cell w.thr).stalled = none ∧
  (b.thread w.cell w.thr).pc < (b.cell w.cell).codeCount
/-- The cell and the thread that issue. -/
def here (b : Block) (w : Who) : Cell := b.cell w.cell
def me (b : Block) (w : Who) : Thread := b.thread w.cell w.thr
/-- Everything outside one cell is unchanged: the other cells, LPDDR6, every unit of the hub and of the other dies. -/
def OnlyCell (b b' : Block) (k : Nat) : Prop := { b' with cells := b.cells } = b ∧ ∀ j, j ≠ k → b'.cell j = b.cell j
/-- The cell's counters: those listed have counted, the others have not moved. -/
def Counts (c c' : Cell) (l : List (Nat × Nat)) : Prop :=
  ∀ o, mget 0 c'.cnt o = match l.find? (fun p => p.1 == o) with | some p => (mget 0 c.cnt o + p.2) % 2 ^ 64 | none => mget 0 c.cnt o
/-- The frame of an instruction that changes its own thread only: every other thread, the store and every other part of its
cell, and everything outside the cell are unchanged; ISSUED counts, and the counters listed. -/
def OnlyMe (b b' : Block) (w : Who) (l : List (Nat × Nat) := []) : Prop :=
  OnlyCell b b' w.cell ∧ { here b' w with thr := (here b w).thr, cnt := (here b w).cnt } = here b w ∧
  (∀ u, u ≠ w.thr.val → b'.thread w.cell u = b.thread w.cell u) ∧ Counts (here b w) (here b' w) ((0x400, 1) :: l)
/-- The next position in program order, inside the c.loop of R77. -/
def Next (t t' : Thread) : Prop := t'.pc = t.advance.pc ∧ t'.loop = t.advance.loop
/-- A taken branch or jump: the position, and no active loop (R77). -/
def Jumps (t' : Thread) (pc : Nat) : Prop := t'.pc = pc ∧ t'.loop = none
/-- A thread whose scalars and position alone may have changed, then likewise vectors, predicates. -/
def KeepsS (t t' : Thread) : Prop := { t' with s := t.s, pc := t.pc, loop := t.loop } = t
def KeepsV (t t' : Thread) : Prop := { t' with v := t.v, pc := t.pc, loop := t.loop } = t
def KeepsP (t t' : Thread) : Prop := { t' with p := t.p, pc := t.pc, loop := t.loop } = t
/-- Scalar `d` alone takes `v` where `g` holds; s0 never does (R60). -/
def PutS (t t' : Thread) (g : Bool) (d : BitVec 5) (v : Word) : Prop :=
  KeepsS t t' ∧ ∀ r, t'.sr r = if r = d.toNat ∧ r ≠ 0 ∧ g = true then v else t.sr r
/-- Vector `d` alone: lane `i` takes `v i` where bit `i` of `g` is 1 and keeps its value elsewhere (R68). -/
def PutV (t t' : Thread) (g : PReg) (d : BitVec 5) (v : Nat → Nat) : Prop :=
  KeepsV t t' ∧ (∀ r, r ≠ d.toNat → t'.vr r = t.vr r) ∧
  ∀ i, i < 256 → lane (t'.vr d.toNat) i = if pbit g i = true then v i % 2 ^ 32 else lane (t.vr d.toNat) i
/-- Predicate `d` alone, p0 never (R60, R68). -/
def PutP (t t' : Thread) (g : PReg) (d : BitVec 5) (v : Nat → Bool) : Prop :=
  KeepsP t t' ∧ (∀ r, r ≠ d.toNat ∨ r = 0 → t'.pr r = t.pr r) ∧
  (d.toNat ≠ 0 → ∀ i, i < 256 → pbit (t'.pr d.toNat) i = if pbit g i = true then v i else pbit (t.pr d.toNat) i)

/-- The two-operand and one-operand instructions of R70 and what each writes from operands a and b. -/
def scalarOps : List ((FR → Instr) × (Word → Word → Word)) := [
  (.sAdd, fun a b => a + b), (.sSub, fun a b => a - b), (.sMul, fun a b => a * b),
  (.sMulh, fun a b => BitVec.ofInt 64 ((a.toInt * b.toInt) / 2 ^ 64)),
  (.sAnd, fun a b => a &&& b), (.sOr, fun a b => a ||| b), (.sXor, fun a b => a ^^^ b),
  (.sShl, fun a b => a <<< (b.toNat % 64)), (.sShr, fun a b => a >>> (b.toNat % 64)),
  (.sSra, fun a b => a.sshiftRight (b.toNat % 64)),
  (.sMin, fun a b => if a.toInt ≤ b.toInt then a else b), (.sMax, fun a b => if a.toInt ≤ b.toInt then b else a),
  (.sMinu, fun a b => if a.toNat ≤ b.toNat then a else b), (.sMaxu, fun a b => if a.toNat ≤ b.toNat then b else a),
  (.sSlt, fun a b => if a.toInt < b.toInt then 1 else 0), (.sSltu, fun a b => if a.toNat < b.toNat then 1 else 0),
  (.sPopc, fun a _ => BitVec.ofNat 64 (((List.range 64).filter fun i => a.getLsbD i).length)),
  (.sClz, fun a _ => BitVec.ofNat 64 (((List.range 64).takeWhile fun i => !a.getLsbD (63 - i)).length))]
/-- The instructions with a sign-extended immediate. -/
def immediateOps : List ((FI → Instr) × (Word → Word → Word)) := [
  (.sAddi, fun a i => a + i), (.sAndi, fun a i => a &&& i), (.sOri, fun a i => a ||| i), (.sXori, fun a i => a ^^^ i),
  (.sShli, fun a i => a <<< (i.toNat % 64)), (.sShri, fun a i => a >>> (i.toNat % 64)),
  (.sSrai, fun a i => a.sshiftRight (i.toNat % 64)),
  (.sSlti, fun a i => if a.toInt < i.toInt then 1 else 0), (.sSltiu, fun a i => if a.toNat < i.toNat then 1 else 0),
  (.sLi, fun _ i => i)]
/-- The thread CSRs by number, with what each reads. -/
def csrs (b : Block) (w : Who) : List (Nat × Nat) := [
  (0, w.thr), (1, (here b w).lcell), (2, (here b w).part), (3, b.cycles - (here b w).loadedAt), (4, b.mtime),
  (5, (me b w).accMask.toNat), (6, ((List.range 16).map fun k => if ((me b w).token k).busy then 2 ^ k else 0).sum),
  (7, (me b w).seed.toNat), (8, match (me b w).loop with | some l => l.left | none => 0)]

/-- The arithmetic of class v. by TYPE: what a lane takes from lanes a and b (R61, R71). -/
def typedOps : List ((FR → Instr) × (Nat → Nat → Nat → Nat)) := [
  (.vAdd, fun ty => laneOp ty (fun a b => a + b) (fun a b => a + b) Fl.add),
  (.vSub, fun ty => laneOp ty (fun a b => a + 2 ^ 32 - b) (fun a b => a + 2 ^ 32 - b) Fl.sub),
  (.vMul, fun ty => laneOp ty (fun a b => a * b) (fun a b => a * b) Fl.mul),
  (.vMin, fun ty => laneOp ty (fun a b => if sx 32 a ≤ sx 32 b then a else b) Nat.min Fl.min),
  (.vMax, fun ty => laneOp ty (fun a b => if sx 32 a ≤ sx 32 b then b else a) Nat.max Fl.max),
  (.vAbs, fun ty a _ => laneOp ty (fun x _ => if 2 ^ 31 ≤ x then 2 ^ 32 - x else x) (fun x _ => if 2 ^ 31 ≤ x then 2 ^ 32 - x else x) (fun x _ => x.abs) a a),
  (.vNeg, fun ty a _ => laneOp ty (fun x _ => 2 ^ 32 - x) (fun x _ => 2 ^ 32 - x) (fun x _ => x.neg) a a),
  (.vAnd, fun _ a b => a &&& b), (.vOr, fun _ a b => a ||| b), (.vXor, fun _ a b => a ^^^ b),
  (.vShl, fun _ a b => a * 2 ^ (b % 32)), (.vShr, fun _ a b => a / 2 ^ (b % 32)),
  (.vSra, fun _ a b => ((sx 32 a / 2 ^ (b % 32)) % 2 ^ 32).toNat), (.vMov, fun _ a _ => a)]
/-- The special functions of R74 on FP32 lanes. -/
def specialOps : List ((FR → Instr) × (Nat → Nat)) := [
  (.vExp2, f32exp2), (.vLog2, f32log2), (.vRsqrt, f32rsqrt), (.vRcp, f32rcp), (.vSin, f32sin), (.vCos, f32cos)]
/-- The reductions of R73: what an unguarded lane counts as and how two lanes combine, for INT32 and for FP32. -/
def reductions : List ((FR → Instr) × (Nat × (Nat → Nat → Nat)) × Nat × (Nat → Nat → Nat)) := [
  (.vRsum, (0, fun a b => (a + b) % 2 ^ 32), 0, f32add), (.vRmax, (2 ^ 31, fun a b => if sx 32 a ≤ sx 32 b then b else a), 0xFF800000, f32max),
  (.vRmin, (2 ^ 31 - 1, fun a b => if sx 32 a ≤ sx 32 b then a else b), 0x7F800000, f32min)]

end Sys2Proof.Claims
open Sys2Proof Sys2Proof.Machine Sys2Proof.Claims

/-- R70, R68, R60: a scalar arithmetic instruction writes its result to scalar d, and nothing else. -/
def Obligations.ScalarArithmetic : Prop :=
  ∀ op ∈ scalarOps, ∀ (f : FR) (s : State), Runs s.blk f.w →
    Answers (op.1 f) s fun b => OnlyMe s.blk b f.w ∧ let t := me s.blk f.w; let t' := me b f.w
      Next t t' ∧ PutS t t' (t.guard0 f.w) f.d (op.2 (t.sr f.a.toNat) (t.sr f.b.toNat))
/-- R70 with an immediate, s.sel, s.lui, and the CSRs of spec 03. -/
def Obligations.ScalarImmediate : Prop :=
  (∀ op ∈ immediateOps, ∀ (f : FI) (s : State), Runs s.blk f.w →
    Answers (op.1 f) s fun b => OnlyMe s.blk b f.w ∧ let t := me s.blk f.w; let t' := me b f.w
      Next t t' ∧ PutS t t' (t.guard0 f.w) f.d (op.2 (t.sr f.a.toNat) (f.imm.signExtend 64))) ∧
  (∀ (f : FI) (s : State), Runs s.blk f.w →
    Answers (.sLui f) s fun b => OnlyMe s.blk b f.w ∧ let t := me s.blk f.w; let t' := me b f.w
      Next t t' ∧ PutS t t' (t.guard0 f.w) f.d (f.imm ++ (t.sr f.d.toNat).setWidth 32)) ∧
  (∀ (f : FR) (s : State), Runs s.blk f.w →
    Answers (.sSel f) s fun b => OnlyMe s.blk b f.w ∧ let t := me s.blk f.w; let t' := me b f.w
      Next t t' ∧ PutS t t' (t.guard0 f.w) f.d (if t.sr f.c.toNat = 0 then t.sr f.b.toNat else t.sr f.a.toNat)) ∧
  (∀ (f : FI) (s : State), Runs s.blk f.w → ∀ p ∈ csrs s.blk f.w, f.imm.toNat % 4096 = p.1 →
    Answers (.sCsrr f) s fun b => OnlyMe s.blk b f.w ∧ let t := me s.blk f.w; let t' := me b f.w
      Next t t' ∧ PutS t t' (t.guard0 f.w) f.d (BitVec.ofNat 64 p.2)) ∧
  (∀ (f : FI) (s : State), Runs s.blk f.w →
    Answers (.sCsrw f) s fun b => OnlyMe s.blk b f.w ∧ let t := me s.blk f.w; let t' := me b f.w
      Next t t' ∧ t'.seed = (if t.guard0 f.w = true ∧ f.imm.toNat % 4096 = 7 then t.sr f.a.toNat else t.seed) ∧
      { t' with seed := t.seed, pc := t.pc, loop := t.loop } = t)
/-- R61, R68, R70, R71: the lane-wise instructions of class v. write the guarded lanes of vector d, and nothing else. -/
def Obligations.VectorLanes : Prop :=
  ∀ (f : FR) (s : State), Runs s.blk f.w →
    let t := me s.blk f.w
    let ln (r : BitVec 5) (i : Nat) : Nat := lane (t.vr r.toNat) i
    let W (i : Instr) (v : Nat → Nat) : Prop := Answers i s fun b => OnlyMe s.blk b f.w ∧ Next t (me b f.w) ∧ PutV t (me b f.w) (t.guard f.w) f.d v
    (∀ op ∈ typedOps, W (op.1 f) fun i => op.2 f.typ.toNat (ln f.a i) (ln f.b i)) ∧
    W (.vFma f) (fun i => laneFma f.typ.toNat (ln f.a i) (ln f.b i) (ln f.c i)) ∧
    W (.vSel f) (fun i => if pbit (t.pr f.c.toNat) i = true then ln f.a i else ln f.b i) ∧
    W (.vIota f) (fun i => i) ∧ W (.vBcast f) (fun _ => (t.sr f.a.toNat).toNat) ∧
    W (.vIns f) (fun i => if i = (t.sr f.b.toNat).toNat % 256 then (t.sr f.a.toNat).toNat else ln f.d i) ∧
    W (.vPerm f) (fun i => ln f.a (ln f.b i % 256)) ∧ W (.vRot f) (fun i => ln f.a ((i + (t.sr f.b.toNat).toNat) % 256))
/-- R73, R74, R108: each special function, each reduction over the guarded lanes, and v.cvt with its marks and the seed of R113,
writes its result and nothing else; a control word that v.cvt does not define faults the thread. That an unguarded lane of an
INTEGER v.rmax or v.rmin counts as the least or greatest INT32 is the model's choice (log entry 96). -/
def Obligations.VectorFunctions : Prop :=
  ∀ (f : FR) (s : State), Runs s.blk f.w →
    let t := me s.blk f.w
    (∀ op ∈ specialOps, Answers (op.1 f) s fun b => OnlyMe s.blk b f.w ∧ Next t (me b f.w) ∧
      PutV t (me b f.w) (t.guard f.w) f.d fun i => op.2 (lane (t.vr f.a.toNat) i)) ∧
    (∀ op ∈ reductions, Answers (op.1 f) s fun b => OnlyMe s.blk b f.w ∧ Next t (me b f.w) ∧
      let r := if f.typ = 0 then op.2.1 else op.2.2
      PutV t (me b f.w) (BitVec.allOnes 256) f.d fun i =>
        if i = 0 then treeFold r.2 8 ((List.range 256).map fun j => if pbit (t.guard f.w) j = true then lane (t.vr f.a.toNat) j else r.1) else 0) ∧
    (let ctl := (t.sr f.c.toNat).toNat
     let src := f.mod.toNat % 16
     let tgt := f.mod.toNat / 16
     cvtCtlOk (if src = 0 then tgt else src) ctl = true →
      Answers (.vCvt f) s fun b =>
        let r := cvtReg src tgt (bits ctl 0 3) (bits ctl 8 6) (if f.sr then some t.seed.toNat else none) (t.guard f.w)
          (t.vr f.a.toNat).toNat (t.vr f.d.toNat).toNat
        OnlyMe s.blk b f.w ([(0x10000, r.2.1), (0x10008, r.2.2)] ++ if f.sr then [(0x10010, 1)] else []) ∧ Next t (me b f.w) ∧
        (∀ q, (me b f.w).vr q = if q = f.d.toNat then BitVec.ofNat 8192 r.1 else t.vr q) ∧
        (me b f.w).seed = (if f.sr then t.seed + 1 else t.seed) ∧
        { me b f.w with v := t.v, seed := t.seed, pc := t.pc, loop := t.loop } = t) ∧
    (cvtCtlOk (if f.mod.toNat % 16 = 0 then f.mod.toNat / 16 else f.mod.toNat % 16) (t.sr f.c.toNat).toNat = false →
      Answers (.vCvt f) s fun b => (me b f.w).st = .fault ∧ (me b f.w).tfault.status = Status.descInvalid.code ∧ (me b f.w).tfault.pc = t.pc ∧
        (me b f.w).v = t.v ∧ (here b f.w).store = (here s.blk f.w).store)
/-- R68, R60, R103: compares and predicate logic write the guarded bits of predicate d; v.pcnt and v.ext write scalar d
under guard bit 0. That v.plt takes s[a] as a signed number is the model's reading (log entry 77). -/
def Obligations.Predicates : Prop :=
  ∀ (f : FR) (s : State), Runs s.blk f.w →
    let t := me s.blk f.w
    let pa (i : Nat) : Bool := pbit (t.pr f.a.toNat) i
    let pb (i : Nat) : Bool := pbit (t.pr f.b.toNat) i
    let W (i : Instr) (v : Nat → Bool) : Prop := Answers i s fun b => OnlyMe s.blk b f.w ∧ Next t (me b f.w) ∧ PutP t (me b f.w) (t.guard f.w) f.d v
    let S (i : Instr) (v : Nat) : Prop :=
      Answers i s fun b => OnlyMe s.blk b f.w ∧ Next t (me b f.w) ∧ PutS t (me b f.w) (t.guard0 f.w) f.d (BitVec.ofNat 64 v)
    W (.vPand f) (fun i => pa i && pb i) ∧ W (.vPor f) (fun i => pa i || pb i) ∧ W (.vPxor f) (fun i => pa i != pb i) ∧
    W (.vPnot f) (fun i => !pa i) ∧ W (.vPlt f) (fun i => decide ((i : Int) < (t.sr f.a.toNat).toInt)) ∧
    W (.vCmp f) (fun i => laneCmp f.typ.toNat (f.mod.toNat % 8) (lane (t.vr f.a.toNat) i) (lane (t.vr f.b.toNat) i)) ∧
    S (.vPcnt f) ((List.range 256).filter pa).length ∧
    S (.vExt f) (lane (t.vr f.a.toNat) ((t.sr f.b.toNat).toNat % 256))

namespace Sys2Proof.Claims
open Sys2Proof.Machine

/-- Nothing that an earlier command raised waits for the chip-level handler, for a collective, for an event ring or for a link. -/
abbrev Quiet (b : Block) : Prop := b.hub.escal = [] ∧ b.fab.answers = [] ∧ (∀ e ∈ b.cells, e.2.met = []) ∧ b.fab.fresh = []
/-- What a command of a cell has done when the events of the words that it corrected follow, and the escalations that it raised (R25,
R158); nothing follows where the cell's words are sound. -/
def After (b b' : Block) (k : Nat) (P : Block → Prop) : Prop :=
  ∃ x, b' = settle x ∧ P x ∧ (Quiet b → (b.cell k).serr = [] → (b.cell k).inject = none → b' = x)
/-- No word of these bytes is in error, and no refetch of a weight block holds up or fails their readers (R155). -/
abbrev Readable (c : Cell) (a len : Nat) : Prop :=
  c.errsIn a len = [] ∧ (∀ r ∈ c.refetching, a + len ≤ 4096 * r.blk ∨ 4096 * r.blk + 4096 ≤ a) ∧
  ∀ r ∈ c.refetchFailed, a + len ≤ 4096 * r.1 ∨ 4096 * r.1 + 4096 ≤ a
/-- A tagged access leaves the granules it used EMPTY after a load and FULL after a store, where it consumes (TAG 2). -/
def Tags (c c' : Cell) (used : List Nat) (tag : BitVec 2) (v : Nat) : Prop :=
  ∀ g, c'.tag g = if tag = 2 ∧ g ∈ used then v else c.tag g
/-- A block with what a thread's tagged access may change, as it was in another: the cell's tags, the access's name and its place in
the order of those that wait. -/
def tagsOf (b b' : Block) (w : Who) : Block :=
  (((b'.modHub fun h => { h with tagq := b.hub.tagq }).modCell w.cell fun c => { c with tags := (here b w).tags }).modThread w.cell w.thr fun t =>
    { t with tagSeq := (me b w).tagSeq })
/-- The thread of an access that has been made: a tagged one waits no more. -/
def made (t : Thread) (tag : BitVec 2) : Thread := if tag = 0 then t else { t with tagSeq := none }
/-- A byte as a thread's load reads it: the coalescer over the banks (R133). -/
def view (c : Cell) (x : Nat) : Nat := c.coalOver x 1 (c.store.read x 1)
/-- The coalescer holds each line once, at a line's address. -/
def CoalOk (c : Cell) : Prop := (c.coal.map (·.line)).Nodup ∧ ∀ e ∈ c.coal, e.line % 64 = 0
/-- The effect of a store: the cell of `w` takes `f`, the thread moves on, ISSUED counts; nothing outside the cell changes. -/
def Stores (b b' : Block) (w : Who) (f : Cell → Cell) : Prop :=
  OnlyCell b b' w.cell ∧ here b' w = ((f (here b w)).modThread w.thr Thread.advance).count 0x400

end Sys2Proof.Claims

/-- R38, R56, R66, R131, R133, R147, R149: a load of a thread that passes the checks, and whose turn it is where it has a tag, writes its
register with the bytes, the coalescer's over the banks', and a consuming load empties its granules. -/
def Obligations.CellLoads : Prop :=
  (∀ (f : FM) (s : State) (a : Nat), Runs s.blk f.w → Quiet s.blk → fmAddr (here s.blk f.w) (me s.blk f.w) f false = .ok a →
    let c := here s.blk f.w
    let t := me s.blk f.w
    let len := sizeBytes f.size.toNat
    let gs := granules a len
    (f.tag = 0 ∨ tagReady s.blk f.w.cell t gs false = true) → Readable c a len →
    let v := c.coalOver a len (c.store.read a len)
    let F (b : Block) : Prop := OnlyMe s.blk (tagsOf s.blk b f.w) f.w ∧ Next t (me b f.w) ∧ Tags c (here b f.w) gs f.tag 0
    (t.guard0 f.w = true →
      (Answers (.sLd f) s fun b => F b ∧ PutS (made t f.tag) (me b f.w) true f.data (BitVec.ofNat 64 v)) ∧
      (Answers (.sLds f) s fun b => F b ∧ PutS (made t f.tag) (me b f.w) true f.data (BitVec.ofInt 64 (sx (8 * len) v)))) ∧
    (Answers (.vLd f) s fun b => F b ∧ PutV (made t f.tag) (me b f.w) (t.guard f.w) f.data fun i => bits v (32 * i) 32)) ∧
  (∀ (f : FM) (s : State) (gs : List Nat) (v : Nat), f.tag ≠ 0 → (∀ g ∈ gs, g < 8192 ∧ (here s.blk f.w).tag g = v) → (me s.blk f.w).tagSeq = none →
    (∀ x ∈ s.blk.hub.tagq, ∀ y ∈ x.need, ∀ g ∈ gs, y.1 ≠ 8192 * f.w.cell + g) →
      (v = 1 → tagReady s.blk f.w.cell (me s.blk f.w) gs false = true) ∧ (v = 0 → tagReady s.blk f.w.cell (me s.blk f.w) gs true = true)) ∧
  (∀ (f : FM) (s : State), Runs s.blk f.w → Quiet s.blk → (me s.blk f.w).guard0 f.w = false →
    ∀ i ∈ [Instr.sLd f, .sLds f, .sSt f], Answers i s fun b => OnlyMe s.blk b f.w ∧ Next (me s.blk f.w) (me b f.w) ∧ KeepsS (me s.blk f.w) (me b f.w) ∧
      ∀ r, (me b f.w).sr r = (me s.blk f.w).sr r) ∧
  (∀ (f : FR) (s : State), Runs s.blk f.w → Quiet s.blk →
    let c := here s.blk f.w
    let t := me s.blk f.w
    gsCheck c t f false = none → (∀ i a, i < 256 → pbit (t.guard f.w) i = true → gsAddr c t f i false = .ok a → Readable c a 4) →
    Answers (.vLdg f) s fun b => OnlyMe s.blk b f.w ∧ Next t (me b f.w) ∧ PutV t (me b f.w) (t.guard f.w) f.d fun i =>
      match gsAddr c t f i false with | .ok a => c.coalOver a 4 (c.store.read a 4) | .error _ => 0)
/-- R38, R72, R131, R147, R149: a store of a thread that passes the checks goes to the coalescer at the address it computes, or with a
tag to the banks once its turn has come, and a consuming store fills its granules; nothing outside the cell changes but the order
of those that wait on tags. -/
def Obligations.CellStores : Prop :=
  (∀ (f : FM) (s : State) (a : Nat), Runs s.blk f.w → fmAddr (here s.blk f.w) (me s.blk f.w) f true = .ok a →
    let c := here s.blk f.w
    let t := me s.blk f.w
    let len := sizeBytes f.size.toNat
    let gs := granules a len
    let P (v mask : Nat) (b' : Block) : Prop := After s.blk b' f.w.cell fun b =>
      (f.tag = 0 → Stores s.blk b f.w fun c => c.coalesce s.blk.cycles f.w.thr a len v mask) ∧
      (f.tag ≠ 0 → (∀ x, (here b f.w).store.byte x = if a ≤ x ∧ x < a + len ∧ bit mask (x - a) = true then BitVec.ofNat 8 (v / 256 ^ (x - a))
          else (c.drainWhere fun e => decide (a / 64 ≤ e.line / 64) && decide (e.line / 64 ≤ (a + len - 1) / 64)).store.byte x) ∧
        Tags c (here b f.w) gs f.tag 1 ∧ OnlyCell s.blk { b with hub := { b.hub with tagq := s.blk.hub.tagq } } f.w.cell ∧ me b f.w = (made t f.tag).advance)
    (f.tag = 0 ∨ tagReady s.blk f.w.cell t gs true = true) →
    (t.guard0 f.w = true → Answers (.sSt f) s (P ((t.sr f.data.toNat).toNat % 2 ^ (8 * len)) (2 ^ len - 1))) ∧
    (Answers (.vSt f) s (P ((t.vr f.data.toNat).toNat % 2 ^ (8 * len)) (laneMask (t.guard f.w) (len / 4))))) ∧
  (∀ (f : FR) (s : State), Runs s.blk f.w → gsCheck (here s.blk f.w) (me s.blk f.w) f true = none →
    Answers (.vStg f) s fun b' => After s.blk b' f.w.cell fun b => Stores s.blk b f.w fun c =>
      ((List.range 256).filter (pbit ((me s.blk f.w).guard f.w))).foldl (fun c' i => match gsAddr c (me s.blk f.w) f i true with
        | .ok a => c'.coalesce s.blk.cycles f.w.thr a 4 (lane ((me s.blk f.w).vr f.c.toNat) i) 15
        | .error _ => c') c)
/-- R66, R131, R132, R133: what a plain store writes is what every thread's load then reads, wherever the coalescer holds
it; every other byte reads as before. -/
def Obligations.StoreThenLoad : Prop :=
  ∀ (c : Cell) (cyc t a len v mask x : Nat), CoalOk c →
    CoalOk (c.coalesce cyc t a len v mask) ∧
    view (c.coalesce cyc t a len v mask) x = if a ≤ x ∧ x < a + len ∧ bit mask (x - a) = true then v / 256 ^ (x - a) % 256 else view c x

namespace Sys2Proof.Claims
open Sys2Proof.Machine

/-- The store address and the bytes of the descriptor that an F-D instruction copies, once the thread's own stores have drained, pass
the checks, no word of it is in error, its token is idle, and a slot is free: what an engine instruction needs to issue (R81 to R83). -/
def Fetches (b : Block) (f : FD) (n : Rec → Nat) (head : Rec) (full : Bool) : Prop :=
  let c := here b f.w
  let t := me b f.w
  ∃ a, fdAddr c t f 64 = .ok a ∧ head = BitVec.ofNat 512 ((c.drainThread f.w.thr).store.read a 64) ∧ (fdAddr c t f (n head)).isOk = true ∧
    Readable (c.drainThread f.w.thr) a (n head) ∧ (t.token f.token.toNat).busy = false ∧ full = false
/-- The issue of engine work: the token is busy, every other token as before, the thread moves on; nothing outside the cell
changes but the next identity. -/
def Starts (b b' : Block) (f : FD) : Prop :=
  OnlyCell b { b' with hub := b.hub } f.w.cell ∧ b'.hub = { b.hub with nextId := b.hub.nextId + 1 } ∧ Next (me b f.w) (me b' f.w) ∧
  (∀ k, ((me b' f.w).token k).busy = if k = f.token.toNat then true else ((me b f.w).token k).busy) ∧
  (∀ u, u ≠ f.w.thr.val → b'.thread f.w.cell u = b.thread f.w.cell u)
/-- Bytes of an m.chain descriptor: the header and its stage records, at most 12 (R191). -/
def chainBytes (h : Rec) : Nat := 64 + 32 * (if h.u 0 1 ≤ 12 then h.u 0 1 else 0)
/-- The bank-side instructions by the operation code that they enqueue. -/
def bankOps : List (Nat × (FD → Instr)) := [(0, .bFill), (1, .bCopy), (2, .bAccset), (3, .bAccclr), (4, .bRstat), (5, .bTagset)]

end Sys2Proof.Claims

/-- R62, R63, R84: a tile of the thread's mask that no array command holds, once the m.zeros whose turn has come have run, is read and
written row by row; m.zero at an idle array clears its tiles and holds them for 32 cycles. That a command holds its tiles from
when it leaves the queue's head is the model's choice (log entry 99). -/
def Obligations.Tiles : Prop :=
  (∀ (f : FR) (s : State), Runs s.blk f.w →
    let b0 := arrIdle s.blk f.w.cell
    let c := here b0 f.w
    let t := me s.blk f.w
    let ok (k : Nat) : Prop := t.accMask.getLsbD k = true ∧ bit (c.heldTiles s.blk.cycles) k = false
    (ok f.a.toNat → Answers (.vAccr f) s fun b => OnlyMe b0 b f.w ∧ Next t (me b f.w) ∧ PutV t (me b f.w) (t.guard f.w) f.d fun i =>
      bits (c.tile f.a.toNat).toNat (8192 * (f.mod.toNat % 32) + 32 * i) 32) ∧
    (ok f.d.toNat → Answers (.vAccw f) s fun b => OnlyCell s.blk b f.w.cell ∧ me b f.w = t.advance ∧
      (∀ k, k ≠ f.d.toNat → (here b f.w).tile k = c.tile k) ∧ (here b f.w).store = c.store ∧
      ∀ r i, r < 32 → i < 256 → bits ((here b f.w).tile f.d.toNat).toNat (8192 * r + 32 * i) 32 =
        if r = f.mod.toNat % 32 ∧ pbit (t.guard f.w) i = true then lane (t.vr f.a.toNat) i else bits (c.tile f.d.toNat).toNat (8192 * r + 32 * i) 32)) ∧
  (∀ (f : FI) (s : State), Runs s.blk f.w →
    let c := here s.blk f.w
    let mask := f.imm.toNat % 256
    mask &&& (me s.blk f.w).accMask.toNat = mask → c.run = none → c.arrq = [] → c.zeroEnd ≤ s.blk.cycles →
    Answers (.mZero f) s fun b => OnlyCell s.blk { b with hub := s.blk.hub } f.w.cell ∧ me b f.w = (me s.blk f.w).advance ∧
      (∀ k, (here b f.w).tile k = if k < 8 ∧ bit mask k = true then 0 else c.tile k) ∧
      (here b f.w).zeroTiles = [(mask, s.blk.cycles + 32)] ∧ (here b f.w).store = c.store)
/-- R75, R77, R92: branches, jumps, loops, halt, thread start and trap. -/
def Obligations.ControlFlow : Prop :=
  (∀ (f : FR) (s : State), Runs s.blk f.w →
    let t := me s.blk f.w
    let target := (t.sr f.a.toNat).toNat
    (Answers (.cNop f) s fun b => OnlyMe s.blk b f.w ∧ me b f.w = t.advance) ∧
    (target < (here s.blk f.w).codeCount → Answers (.cJr f) s fun b => OnlyMe s.blk b f.w [(0x428, 1)] ∧ Jumps (me b f.w) target ∧
      { me b f.w with pc := t.pc, loop := t.loop } = t) ∧
    (Answers (.cHalt f) s fun b => OnlyMe s.blk b f.w ∧ me b f.w = { t with st := .halt, loop := none, pc := t.pc + 1 }) ∧
    (let k := target % 8
     let pc := (t.sr f.b.toNat).toNat
     let x := s.blk.thread f.w.cell k
     pc < (here s.blk f.w).codeCount →
      (x.st = .idle ∨ x.st = .halt → Answers (.cTstart f) s fun b => Next t (me b f.w) ∧ PutS t (me b f.w) true f.d 1 ∧
        (b.thread f.w.cell k).st = .run ∧ (b.thread f.w.cell k).pc = pc ∧ (∀ r, (b.thread f.w.cell k).sr r = if r = 1 then t.sr f.c.toNat else x.sr r) ∧
        (∀ r, (b.thread f.w.cell k).pr r = x.pr r ∧ (b.thread f.w.cell k).vr r = x.vr r ∧ ((b.thread f.w.cell k).token r).busy = false) ∧
        (∀ u, u ≠ k → u ≠ f.w.thr.val → b.thread f.w.cell u = s.blk.thread f.w.cell u) ∧ OnlyCell s.blk b f.w.cell) ∧
      (¬(x.st = .idle ∨ x.st = .halt) → Answers (.cTstart f) s fun b => OnlyMe s.blk b f.w ∧ Next t (me b f.w) ∧ PutS t (me b f.w) true f.d 0))) ∧
  (∀ (f : FB) (s : State), Runs s.blk f.w →
    let t := me s.blk f.w
    let a := t.sr f.a.toNat
    let b := t.sr f.b.toNat
    let p := t.pr (f.a.toNat % 8)
    ∀ q ∈ [(0, true), (1, decide (a = b)), (2, decide (a ≠ b)), (3, decide (a.toInt < b.toInt)), (4, decide (b.toInt ≤ a.toInt)),
           (5, decide (a.toNat < b.toNat)), (6, decide (b.toNat ≤ a.toNat)), (7, decide (p ≠ 0)), (8, decide (p = 0)), (9, decide (p = BitVec.allOnes 256))],
      f.cond.toNat = q.1 →
      (q.2 = true → Answers (.cBr f) s fun b' => OnlyMe s.blk b' f.w [(0x428, 1)] ∧ Jumps (me b' f.w) ((t.pc : Int) + f.disp.toInt).toNat ∧
        { me b' f.w with pc := t.pc, loop := t.loop } = t) ∧
      (q.2 = false → Answers (.cBr f) s fun b' => OnlyMe s.blk b' f.w ∧ me b' f.w = t.advance)) ∧
  (∀ (f : FI) (s : State), Runs s.blk f.w →
    let t := me s.blk f.w
    let n := (t.sr f.a.toNat).toNat
    let len := f.imm.toNat % 128
    (Answers (.cJal f) s fun b => OnlyMe s.blk b f.w [(0x428, 1)] ∧ Jumps (me b f.w) ((t.pc : Int) + f.imm.toInt).toNat ∧
      PutS t (me b f.w) true f.d (BitVec.ofNat 64 (t.pc + 1))) ∧
    (1 ≤ len → t.loop = none → Answers (.cLoop f) s fun b => OnlyMe s.blk b f.w ∧ me b f.w =
      if n = 0 then { t with pc := t.pc + 1 + len } else { t with pc := t.pc + 1, loop := some { start := t.pc + 1, len := len, left := n } }) ∧
    ((∀ at_, t.lastTrap = some at_ → at_ + 64 ≤ s.blk.cycles) → Answers (.cTrap f) s fun b =>
      OnlyMe (event s.blk (here s.blk f.w).part 0x0103 .done 0 (cellLoc f.w.cell 0)
        (detail [(16, 1, f.w.thr), (18, 2, t.pc), (20, 4, f.imm.toNat), (24, 8, (t.sr f.a.toNat).toNat)])) b f.w ∧
      Next t (me b f.w) ∧ { me b f.w with pc := t.pc, loop := t.loop, lastTrap := t.lastTrap } = t ∧ (me b f.w).lastTrap = some s.blk.cycles))
/-- R78 to R82: token waits and reads, tally instructions, the barrier and the fence. -/
def Obligations.Synchronisation : Prop :=
  (∀ (f : FI) (s : State), Runs s.blk f.w →
    let t := me s.blk f.w
    let c := here s.blk f.w
    let mask := f.imm.toNat % 65536
    let any := f.imm.getLsbD 16
    let m8 := f.imm.toNat % 256
    let waits (u : Nat) : Prop := (c.thread u).st = .wait ∧ (c.thread u).wait = .barrier m8
    (t.tokensReady mask any = true → Answers (.yWtok f) s fun b => OnlyMe s.blk b f.w ∧ me b f.w = t.advance) ∧
    ((∀ k, k < 16 → bit mask k = true → (t.token k).busy = false) → Answers (.yWtok f) s fun b => OnlyMe s.blk b f.w ∧ me b f.w = t.advance) ∧
    (t.tokensReady mask any = false → Answers (.yWtok f) s fun b => OnlyMe s.blk b f.w ∧
      me b f.w = { t with st := .wait, wait := .tokens mask any, since := s.blk.now }) ∧
    (let k := t.token (f.imm.toNat % 16)
     Answers (.yTokst f) s fun b => OnlyMe s.blk b f.w ∧ Next t (me b f.w) ∧
      PutS t (me b f.w) true f.d (BitVec.ofNat 64 (k.status + 256 * k.flags + if k.busy then 65536 else 0))) ∧
    (bit m8 f.w.thr = true → (∀ u, u < 8 → bit m8 u = true → u ≠ f.w.thr.val → waits u) →
      Answers (.yBar f) s fun b => OnlyCell s.blk b f.w.cell ∧ me b f.w = t.advance ∧ (here b f.w).store = c.store ∧
        ∀ u, u ≠ f.w.thr.val → b.thread f.w.cell u = if u < 8 ∧ bit m8 u = true then
          ({ c.thread u with st := .run, wait := .none } : Thread).advance else c.thread u) ∧
    (bit m8 f.w.thr = true → (∃ u, u < 8 ∧ bit m8 u = true ∧ u ≠ f.w.thr.val ∧ ¬waits u) →
      Answers (.yBar f) s fun b => OnlyMe s.blk b f.w ∧ me b f.w = { t with st := .wait, wait := .barrier m8, since := s.blk.now })) ∧
  (∀ (f : FR) (s : State), Runs s.blk f.w →
    let t := me s.blk f.w
    let n := (here s.blk f.w).part
    let h := (t.sr f.a.toNat).toNat
    let v := (t.sr f.b.toNat).toNat % 2 ^ 32
    let val := (s.blk.tally n h).val
    let holds' : Prop := (val + 2 ^ 32 - v) % 2 ^ 32 < 2 ^ 31
    (Answers (.yFence f) s fun b' => After s.blk b' f.w.cell fun b => Stores s.blk b f.w fun c => c.drainThread f.w.thr) ∧
    (h < (s.blk.part n).tallyQuota →
      (Answers (.yTinc f) s fun b => OnlyMe (tallyQueue s.blk { part := n, handle := h, set := false, amount := v, loc := cellLoc f.w.cell 0 }) b f.w ∧
        me b f.w = t.advance) ∧
      (Answers (.yTread f) s fun b => OnlyMe s.blk b f.w ∧ Next t (me b f.w) ∧ PutS t (me b f.w) true f.d (BitVec.ofNat 64 val)) ∧
      (holds' → Answers (.yTwait f) s fun b => OnlyMe s.blk b f.w ∧ me b f.w = t.advance) ∧
      (¬holds' → Answers (.yTwait f) s fun b => me b f.w = { t with st := .wait, wait := .tally h v false, since := s.blk.now } ∧
        ∃ w, watchOf b f.w.cell f.w.thr = some w ∧ w.part = n ∧ w.handle = h ∧ w.value = v ∧ w.released = false)))
/-- R81 to R83, R159, R184, R191, R216: an engine instruction whose token is idle and whose queue has room copies its descriptor, and
its work stands in the queue of its engine under a busy token. That a running m. instruction keeps its slot of the array's queue
is the model's choice (log entry 98). -/
def Obligations.EngineIssue : Prop :=
  ∀ (f : FD) (s : State) (h : Rec), Runs s.blk f.w →
    let c := here s.blk f.w
    let does (i : Instr) (P : Block → Prop) : Prop := Answers i s fun b' => After s.blk b' f.w.cell fun b => Starts s.blk b f ∧ P b
    let arr (kind : ArrKind) (b : Block) : Prop := ∃ e ∈ (here b f.w).arrq, e.id = s.blk.hub.nextId ∧ e.kind = kind ∧
      e.thr = f.w.thr.val ∧ e.tok = f.token.toNat ∧ e.recs.head? = some h
    let afull := arrFull s.blk.cycles (here (arrIdle s.blk f.w.cell) f.w) 0
    (Fetches s.blk f chainBytes h afull → does (.mChain f) (arr .chain)) ∧
    (Fetches s.blk f (fun _ => 128) h afull → does (.mAttn f) (arr .attn)) ∧
    (let out := bits (h.u 1 1) 2 2 != 0
     Fetches s.blk f (fun _ => 64) h (decide (16 ≤ (c.strm out).q.length)) → does (.dStream f) fun b =>
      ((here b f.w).strm out).q = (c.strm out).q ++ [{ id := s.blk.hub.nextId, thr := f.w.thr, tok := f.token.toNat, desc := h }] ∧
      (here b f.w).strm (!out) = c.strm (!out)) ∧
    (∀ op ∈ bankOps, Fetches s.blk f (fun _ => 64) h (decide (8 ≤ c.bankq.length)) → does (op.2 f) fun b =>
      (here b f.w).bankq = c.bankq ++ [{ id := s.blk.hub.nextId, thr := f.w.thr, tok := f.token.toNat, op := op.1, desc := h }])
/-- R173, R178: d.cancel leaves none of the thread's descriptors that it names in either queue; d.fence takes a slot behind the
descriptors ahead of it. -/
def Obligations.StreamControl : Prop :=
  ∀ (f : FI) (s : State), Runs s.blk f.w →
    let c := here s.blk f.w
    (Answers (.dCancel f) s fun b' => After s.blk b' f.w.cell fun b => Next (me s.blk f.w) (me b f.w) ∧
      ∀ o, ∀ e ∈ ((here b f.w).strm o).q, e.fence = false → e.thr = f.w.thr.val → bit f.imm.toNat e.tok = false) ∧
    ((f.imm.getLsbD 0 = true → c.inb.q.length < 16) → (f.imm.getLsbD 1 = true → c.outb.q.length < 16) →
      Answers (.dFence f) s fun b => me b f.w = (me s.blk f.w).advance ∧
        ∀ o, f.imm.getLsbD (if o then 1 else 0) = true → (∃ e ∈ (c.strm o).q, e.fence = false) →
          ∃ e ∈ ((here b f.w).strm o).q, e.fence = true ∧ e.id = s.blk.hub.nextId ∧ ∀ d ∈ (c.strm o).q, d.fence = false → d.id ∈ e.peers)

namespace Sys2Proof.Claims
open Sys2Proof.Machine

/-- A thread that waited issues its instruction again. -/
def reissue (t : Thread) : Thread := { t with st := .run, wait := .none }
/-- The work of the bank-side queue at place `i` is due and no granule that it would change is FILLING or asked for by an access that
has waited longer (R147, R149). -/
def BankDue (b : Block) (k i : Nat) (e : Bank) : Prop :=
  (b.cell k).bankq[i]? = some e ∧ e.started = true ∧ e.due ≤ b.cycles ∧
  ((e.op = 5 ∨ (e.op < 2 ∧ bit (e.desc.u 1 1) 0 = true)) → tagMay b e.id ((granules (((b.cell k).buf (e.desc.u 2 1)).base + e.desc.u 4 4) (e.desc.u 8 4)).map fun g => (8192 * k + g, 2)) = true)
/-- A bank-side work has left the queue and its token is idle, with a status. -/
def BankEnds (b' : Block) (k : Nat) (e : Bank) (st : Status) : Prop :=
  (∀ x ∈ (b'.cell k).bankq, x.id ≠ e.id) ∧ ((b'.thread k e.thr).token e.tok).busy = false ∧ ((b'.thread k e.thr).token e.tok).status = st.code

end Sys2Proof.Claims

/-- R83, R84, R90, R96, R97, R132, R149: what ends a thread's wait or stall, and the wait limit. -/
def Obligations.CellWaits : Prop :=
  ∀ (k : Fin 800) (s : State),
    let b := s.blk
    let c := b.cell k
    let idle := arrIdle b k
    (∀ (t : Fin 8) (q : Nat), (c.thread t).st = .wait → (c.thread t).wait = .queue q →
      (if q = 2 then arrFull b.cycles (idle.cell k) 0 = false else if q = 4 then c.bankq.length < 8
       else (bit q 0 = true → c.inb.q.length < 16) ∧ (bit q 1 = true → c.outb.q.length < 16)) →
      Answers (.queueSlotFree k t) s fun b' => b' = idle.modThread k t reissue) ∧
    (∀ (t : Fin 8) (m : Nat), (c.thread t).st = .wait → (c.thread t).wait = .tile m → (idle.cell k).heldTiles b.cycles &&& m = 0 →
      Answers (.tileRelease k t) s fun b' => b' = idle.modThread k t reissue) ∧
    (∀ (g : Fin 6144) (t : Fin 8) (q : Nat) (gs : List Nat) (st : Bool), Quiet b → (∀ j, (b.cell j).run = none ∨ (b.cell j).part ≠ c.part) → (c.thread t).st = .wait → (c.thread t).wait = .tag q gs st → g.val ∈ gs →
      tagMay b q (tagNeed k gs st) = true →
      (∀ (u : Fin 8) (q' : Nat) (gs' : List Nat) (st' : Bool), u < t → (c.thread u).st = .wait → (c.thread u).wait = .tag q' gs' st' → g.val ∈ gs' →
        tagMay b q' (tagNeed k gs' st') = false) →
      Answers (.tagWaitRelease k g) s fun b' => b' = b.modThread k t reissue) ∧
    (∀ (x y : TagWait) (l : List TagWait) (g : Nat × Nat), b.hub.tagq = x :: l → y ∈ l → x.who ≠ y.who → g ∈ x.need → (∃ h ∈ y.need, h.1 = g.1) → x.live b = true →
      (∀ h ∈ x.need, tagHas b h = true) → tagMay b y.who y.need = false) ∧
    (∀ t : Fin 8, (c.thread t).st = .wait → c.waitLimit ≠ 0 → (c.thread t).since + 1000 * c.waitLimit < b.now →
      Answers (.waitLimit k t) s fun b' => (b'.thread k t).st = .fault ∧ (b'.thread k t).tfault.status = Status.timeout.code ∧
        (b'.thread k t).tfault.pc = (c.thread t).pc ∧ (b'.thread k t).tfault.valid = true) ∧
    (∀ (t : Fin 8) (line : Fin 4096), Quiet b → cellLive c = true → (c.thread t).st = .run → 8 * line.val < c.codeCount → Readable c (c.codeBase + 64 * line) 64 →
      Answers (.fetchLineArrival k t line) s fun b' => ∃ l, b' = b.modThread k t (fun x => { x with fbuf := l }) ∧ line.val ∈ l ∧ l.length ≤ 2 ∧
        ∀ x ∈ l, x = line.val ∨ x ∈ (c.thread t).fbuf) ∧
    (∀ (line : Fin 4096) (at_ a n : Nat) (im : Image), c.reload.find? (fun x => x.1 == line.val) = some (line.val, at_) → (b.part c.part).image = some im →
      im.code.find? (fun x => x.1 == k.val) = some (k.val, a, n) → b.now ≤ at_ + 20000 →
      let src := a + 4096 * (line.val / 64)
      let y := memCheck b c.part src 4096
      y.1 = false → (src, crc64 4096 (y.2.memRead src 4096)) ∈ im.crc →
      Answers (.codeReload k line) s fun b' => (b'.cell k).store.read (c.codeBase + 64 * line) 64 = y.2.memRead (src + 64 * (line.val % 64)) 64 ∧
        (∀ t : Fin 8, (c.thread t).stalled = some line.val → (b'.thread k t).stalled = none) ∧ ∀ x ∈ (b'.cell k).reload, x.1 ≠ line.val) ∧
    (∀ (line : Fin 98304) (e : Coal), c.coal.find? (fun x => x.line == 64 * line.val) = some e → e.last + 32 ≤ b.cycles →
      Answers (.coalescerIdleDrain k line) s fun b2 => After b b2 k fun b' => OnlyCell b b' k ∧ (b'.cell k).thr = c.thr ∧ (b'.cell k).coal = c.coal.erase e ∧
        ∀ x, (b'.cell k).store.byte x = if e.line ≤ x ∧ x < e.line + 64 ∧ bit e.mask (x - e.line) = true then
          BitVec.ofNat 8 (e.data / 256 ^ (x - e.line)) else c.store.byte x)
/-- R91, R135 to R143, R147: bank-side work starts when it passes its checks and no earlier work overlaps it, and completes with
its effect on the store, the tags or the range table, and an idle token, which shows CANCELLED where the run has been cancelled. -/
def Obligations.BanksideWork : Prop :=
  ∀ (k : Fin 800) (i : Fin 8) (e : Bank) (s : State),
    let b := s.blk
    let c := b.cell k
    let base := (c.buf (e.desc.u 2 1)).base + e.desc.u 4 4
    let len := e.desc.u 8 4
    let src := (c.buf (e.desc.u 3 1)).base + e.desc.u 12 4
    let full : Prop := bit (e.desc.u 1 1) 0 = true
    let ended : Status := if e.cancelled then .cancelled else .done
    (c.bankq[i.val]? = some e → e.started = false → cellLive c = true → (∀ x ∈ c.bankq.take i.val, ∀ r ∈ x.ranges c, ∀ q ∈ e.ranges c, overlaps q.1 q.2 r.1 r.2 = false) →
      (bankCheck b c e = none → Answers (.banksideStart k i) s fun b' => OnlyCell b b' k ∧ (b'.cell k).thr = c.thr ∧ (b'.cell k).store = c.store ∧
        ∃ x ∈ (b'.cell k).bankq, x.id = e.id ∧ x.started = true ∧ b.cycles + 12 ≤ x.due) ∧
      (∀ st, bankCheck b c e = some st → Answers (.banksideStart k i) s fun b' => OnlyCell b b' k ∧ (b'.cell k).store = c.store ∧ BankEnds b' k e st)) ∧
    (BankDue b k i e → Quiet b →
      (e.op = 0 → Answers (.banksideComplete k i) s fun b' => BankEnds b' k e ended ∧
        (∀ x, (b'.cell k).store.byte x = if base ≤ x ∧ x < base + len / 8 * 8 then BitVec.ofNat 8 (e.desc.u 16 8 / 256 ^ ((x - base) % 8)) else c.store.byte x) ∧
        ∀ g, (b'.cell k).tag g = if full ∧ g ∈ granules base len then 1 else c.tag g) ∧
      (e.op = 1 → Readable c src (len / 64 * 64) → src + len ≤ base ∨ base + len ≤ src → c.inject = none →
        Answers (.banksideComplete k i) s fun b' => BankEnds b' k e ended ∧
        (∀ x, (b'.cell k).store.byte x = if base ≤ x ∧ x < base + len / 64 * 64 then c.store.byte (src + (x - base)) else c.store.byte x) ∧
        ∀ g, (b'.cell k).tag g = if full ∧ g ∈ granules base len then 1 else c.tag g) ∧
      (e.op = 2 ∨ e.op = 4 → c.ranges.length < 16 → (∀ r ∈ c.ranges, overlaps r.base r.len base len = false) →
        Answers (.banksideComplete k i) s fun b' => BankEnds b' k e ended ∧ ∃ r, (b'.cell k).ranges = c.ranges ++ [r] ∧ r.base = base ∧ r.len = len ∧
          r.stat = (e.op == 4) ∧ r.fmt = e.desc.u 25 1 ∧ r.wrote = false ∧ r.rows = []) ∧
      (∀ r, e.op = 3 → c.ranges.find? (fun x => x.base == base && x.len == len) = some r →
        Answers (.banksideComplete k i) s fun b' => BankEnds b' k e ended ∧ ∀ x ∈ (b'.cell k).ranges, x.base ≠ base) ∧
      (e.op = 5 → Answers (.banksideComplete k i) s fun b' => BankEnds b' k e ended ∧ (b'.cell k).store = c.store ∧
        ∀ g, (b'.cell k).tag g = if g ∈ granules base len then e.desc.u 37 1 % 4 else c.tag g))
/-- R154 to R157, R523, R553: refetch of a weight block, the patrol scrub, zeroing, an armed injection, and the fence of a
cell that does not answer. -/
def Obligations.StoreUpkeep : Prop :=
  ∀ (k : Fin 800) (s : State),
    let b := s.blk
    let c := b.cell k
    (∀ (blk : Fin 1536) (f : Refetching), c.refetching.find? (fun x => x.blk == blk.val) = some f →
      let r := mget {} c.refetch blk
      let v := pvaRead b c.part .weightRead r.pva 2 4096
      (Quiet b → c.run = none → b.now ≤ f.at_ + 4000 → r.valid = true → pvaOk b c.part .weightRead r.pva 4096 = true → pvaBad b c.part .weightRead r.pva 4096 = false → crc64 4096 v = r.digest →
        Answers (.weightRefetch k blk) s fun b' => (∀ x ∈ (b'.cell k).refetching, x.blk ≠ blk.val) ∧
          ∀ x, (b'.cell k).store.byte x = if 4096 * blk.val ≤ x ∧ x < 4096 * blk.val + 4096 then BitVec.ofNat 8 (v / 256 ^ (x - 4096 * blk.val)) else c.store.byte x) ∧
      (Quiet b → c.run = none → f.at_ + 4000 < b.now → Answers (.weightRefetchTimeout k blk) s fun b' => (∀ x ∈ (b'.cell k).refetching, x.blk ≠ blk.val) ∧
        (∀ x ∈ f.readers, (blk.val, x) ∈ (b'.cell k).refetchFailed) ∧ (b'.cell k).store = c.store)) ∧
    (let cfg := b.reg (cellBase k + 0x30008) (50000 + 2 ^ 20)
     Quiet b → cfg.testBit 20 = true → c.zeroing = false → c.fenced = false → c.assigned = false ∨ (b.part c.part).st ≠ .killing → (∀ x ∈ c.refetching, x.blk ≠ c.scrubRow) →
      c.scrubAt + cfg % 2 ^ 20 ≤ b.now → c.errsIn (4096 * c.scrubRow) 4096 = [] →
      Answers (.scrubRow k) s fun b' => OnlyCell b b' k ∧ (b'.cell k).scrubRow = (if 1536 ≤ c.scrubRow + 1 then 0 else c.scrubRow + 1) ∧
        (b'.cell k).scrubAt = b.now ∧ { b'.cell k with scrubRow := c.scrubRow, scrubAt := c.scrubAt, cnt := c.cnt } = c) ∧
    (c.zeroing = true → c.stopped = false → c.zeroAt + 1536 ≤ b.cycles → Answers (.storeZeroed k) s fun b' => (b'.cell k).zeroing = false ∧ (∀ x, (b'.cell k).store.byte x = 0) ∧
      (∀ g, (b'.cell k).tag g = 0) ∧ (b'.cell k).ranges = [] ∧ (b'.cell k).refetch = [] ∧ (b'.cell k).bufs = c.bufs ∧ ∀ j, j ≠ k.val → b'.cell j = b.cell j) ∧
    (Quiet b → c.fenced = false → blockOwner b (k.val / 8) = none → Answers (.cellNotAnswering k) s fun b' => (b'.cell k).fenced = true ∧ (b'.cell k).thr = [] ∧ b'.hub.fence.testBit (k.val / 8) = true)

namespace Sys2Proof.Claims
open Sys2Proof.Machine

/-- What follows a command of the fabric or a register write: the answers and escalations that it raised. -/
def settled (b : Block) : Block := settle (collSettle 8 b)
/-- The start condition of an engine's work: no tally, or a wait that holds (R167, R339). -/
def startWait (b : Block) (k unit h v id : Nat) : Bool × Block :=
  if tallyOk b (b.cell k).part h then engineWait b (b.cell k).part k unit h v id else (true, b)
/-- A token of a thread is idle with a status. -/
def Ended (b : Block) (k t tok : Nat) (st : Status) : Prop := ((b.thread k t).token tok).busy = false ∧ ((b.thread k t).token tok).status = st.code
/-- No byte of any store or of LPDDR6 differs. -/
def SameBytes (b b' : Block) : Prop := b'.mem = b.mem ∧ ∀ j, (b'.cell j).store = (b.cell j).store
/-- The transfer at place `j` of an engine is a descriptor's own and in flight. -/
def InFlight (b : Block) (k : Nat) (o : Bool) (j : Nat) (id : Nat) (x : Xfer) : Prop :=
  ((b.cell k).strm o).outstanding[j]? = some (some id, x) ∧ x.st = .flight
/-- A request of the hub's register path that is heard, accepted, and performed at once (R54, R57, R451, R461, R485). -/
def Reaches (b : Block) (p : Path) (a v : Nat) : Prop :=
  pathOpen b (pathCode p) = true ∧ pathFull b (pathCode p) = false ∧ a % 8 = 0 ∧ mgmtAllowed b (requester b p) a true = true ∧
  (regFind a).isSome = true ∧ tooEarly b a true v = false ∧ (b.dom (regDomain a).1 (regDomain a).2).inReset = false ∧
  clockOff b (regDomain a).1 (regDomain a).2 = false
/-- The block as a path's request enters: the I3C target holds one (R482). -/
def asked (b : Block) (p : Path) : Block :=
  if pathCode p = 2 then b.modHub fun h => { h with i3c := { h.i3c with busy := true, seq := pathTag p, status := 0xFF } } else b
/-- The write's answer: DONE to the firmware or the I3C target, a completion message to the host (R481, R482). -/
def answered (b : Block) (p : Path) : Block := match p with
  | .firmware => b.send (.fw 0 0 0)
  | .kwasar f tag => b.send (.kw 0x04 f tag.toNat 0 0 0 0)
  | .i3c _ => (b.modHub fun h => { h with i3c := { h.i3c with busy := false, status := 0, data := 0, flags := 0 } }).send (.i3c b.hub.i3c.seq)
/-- A write's answer after its effect: none where that effect reset the module or took the path's link down (R457, R481). -/
def replied (b y : Block) (p : Path) : Block :=
  if y.kept.releases ≠ b.kept.releases ∨ hubUp y = false ∨ (pathCode p = 1 ∧ kwUp y = false) then y else answered y p
/-- A register write has the effect `f`, and is answered unless that effect takes the way back. -/
def Effects (i : Instr) (s : State) (p : Path) (a v : Nat) (f : Block → Block) : Prop :=
  Reaches s.blk p a v → Answers i s fun b' => b' = settled (replied s.blk (f (asked s.blk p)) p)
/-- A register write has the effect `f` and is answered DONE. -/
def Writes (i : Instr) (s : State) (p : Path) (a v : Nat) (f : Block → Block) : Prop :=
  Reaches s.blk p a v → Answers i s fun b' => b' = settled (answered (f (asked s.blk p)) p)

end Sys2Proof.Claims

/-- R160, R161, R171: a stream engine starts the first descriptor of its queue when its tally holds: one that fails its checks ends
with the status and moves no byte, another's transfers are made and issued. -/
def Obligations.StreamDescriptors : Prop :=
  ∀ (k : Fin 800) (o : Bool) (e : SEntry) (s : State),
    let b := s.blk.modCell k Cell.sweepFences
    let q := ((b.cell k).strm o).q
    let w := startWait b k (if o then 9 else 8) (e.desc.u 46 2) (e.desc.u 48 4) e.id
    Quiet s.blk → cellLive (b.cell k) = true → ((b.cell k).strm o).stop = false → q.head? = some e → e.fence = false → (∀ x ∈ q, x.started = false) →
    (w.1 = false → Answers (.streamDescriptorStart k o) s fun b' => b' = w.2 ∧ SameBytes s.blk b') ∧
    (w.1 = true → ∀ st, streamCheck w.2 k e.desc = some st → Answers (.streamDescriptorStart k o) s fun b' =>
      (∀ x ∈ ((b'.cell k).strm o).q, x.id ≠ e.id) ∧ Ended b' k e.thr e.tok st ∧ SameBytes s.blk b') ∧
    (w.1 = true → streamCheck w.2 k e.desc = none → Answers (.streamDescriptorStart k o) s fun b' =>
      b' = settle (streamPump (modEnt w.2 k o e.id fun e => { e with started := true }) k o))
/-- R19, R165, R169, R174, R179: a transfer in flight lands once those that the engine sent there before it have, fails or times out; and
the bytes that one moves. -/
def Obligations.StreamTransfers : Prop :=
  (∀ (k : Fin 800) (o : Bool) (j : Fin 8) (id : Nat) (x : Xfer) (s : State),
    let b := streamPump s.blk k o
    cellLive (s.blk.cell k) = true → InFlight b k o j id x → ((b.cell k).strm o).behind x = false → (∃ e, entOf b k o id = some e ∧ sdWeight e.desc = false) →
    let m := moveBytes b k false x
    (∀ f bad, m.1 = .ok f bad → Answers (.streamTransferLand k o j) s fun b' => b' = settle (unmapPump (streamPump (modEnt
      (countLanded (modXfer m.2 k o id x.id fun x => { x with st := .landed, data := 0, dirty := false }) k o x.len) k o id fun e =>
        { e with flags := e.flags.or f, bad := match e.bad with | some s => some s | none => bad }) k o))) ∧
    (∀ st d, m.1 = .fail st d → Answers (.streamTransferLand k o j) s fun b' =>
      b' = settle (unmapPump (streamPump (failXfer m.2 k o id x st (if d then x.da else x.sa)) k o)))) ∧
  (∀ (k : Fin 800) (o : Bool) (j : Fin 8) (id : Nat) (x : Xfer) (s : State),
    let us := s.blk.reg (cellBase k + if o then 0x50010 else 0x40010) 1000 % 65536
    InFlight s.blk k o j id x → us ≠ 0 → x.at_ + 1000 * us ≤ s.blk.now → Answers (.streamTimeout k o j) s fun b' =>
      b' = settle (unmapPump (streamPump (failXfer s.blk k o id x .timeout
        (if x.da.space = 3 then x.da else if x.sa.space = 0 then x.da else x.sa)) k o))) ∧
  (∀ (b : Block) (k : Nat) (w : Bool) (x : Xfer) (q p m : Nat), Readable (b.cell q) p x.len → (b.merr.filter fun e =>
      decide (m < 8 * e.1 + 8) && decide (8 * e.1 < m + x.len)) = [] →
    (x.src = .store q p → x.dst = .mem m → let r := moveBytes b k w x
      r.1 = .ok {} none ∧ r.2.cells = b.cells ∧ ∀ a, r.2.mem.byte a = if m ≤ a ∧ a < m + x.len then (b.cell q).store.byte (p + (a - m)) else b.mem.byte a) ∧
    (x.src = .mem m → x.dst = .store q p → (b.cell q).ranges = [] → let r := moveBytes b k w x
      r.1 = .ok {} none ∧ r.2.mem = b.mem ∧ (∀ j, j ≠ q → r.2.cell j = b.cell j) ∧
        ∀ a, (r.2.cell q).store.byte a = if p ≤ a ∧ a < p + x.len then b.mem.byte (m + (a - p)) else (b.cell q).store.byte a))
/-- R175, R176: RESUME lets a halted engine make its transfers again, ABANDON ends the descriptor that faulted; a write of either to an
engine that is not halted is ignored and says so. -/
def Obligations.StreamResumption : Prop :=
  ∀ (p : Path) (k : Fin 800) (o both : Bool) (s : State),
    let h := (s.blk.cell k).strm o
    let resume : Instr := .streamResume p k o
    let abandon : Instr := .streamAbandon p k o both
    let a := cellBase k + if o then 0x50028 else 0x40028
    (h.halted = false → Writes resume s p a 1 (fun b => modStream b k o fun s => { s with ctrlIgnored := true }) ∧
      Writes abandon s p a (2 + b2n both) (fun b => modStream b k o fun s => { s with ctrlIgnored := true })) ∧
    (h.halted = true →
      let ends (b : Block) : Block := abandonHalt b k o
      let goes (b : Block) : Block := streamPump (modStream b k o Stream.goOn) k o
      Effects abandon s p a (2 + b2n both) ends ∧ (h.halt.status = Status.linkDown.code → Effects resume s p a 1 ends) ∧
      (h.halt.status ≠ Status.linkDown.code → Effects resume s p a 1 goes))

namespace Sys2Proof.Claims
open Sys2Proof.Machine

/-- A state that a command reached before the chip-level handler carried out the escalations that it raised (R25). -/
def Reached (b' : Block) (P : Block → Prop) : Prop := ∃ x, b' = settle x ∧ P x
/-- The array runs nothing and the token of the command that it ran is idle with a status. -/
def ArrayEnds (k : Nat) (r : Run) (st : Status) (b' : Block) : Prop := (b'.cell k).run = none ∧ Ended b' k r.e.thr r.e.tok st
/-- A command of a kind runs on a cell's array. -/
def Running (b : Block) (k : Nat) (kind : ArrKind) (r : Run) : Prop := (b.cell k).run = some r ∧ r.e.kind = kind
/-- The array's next entry has left the queue, holds no coins yet and waits for them behind the region's other waiters. -/
def AsksCoins (b b' : Block) (k : Nat) (e : ArrEntry) (coins : Nat) (r : Run) : Prop :=
  (b'.cell k).run = some { r with e := e, phase := .coins, coins := coins, since := b.now } ∧ (b'.cell k).arrq = (b.cell k).arrq.drop 1 ∧
  (b'.purse (k / 40)).waiters = (b.purse (k / 40)).waiters ++ [(k, coins, b.now)]
/-- The rows of a chain's map, resolved to frames where it appends to a ledger (R192). -/
def mapRows (b : Block) (n : Nat) (c : Chain) (rm : Nat) : Except Status (List RowSlot) × Block :=
  let l := if c.rowmap then rowSlots rm c.m else []
  if c.kv.isEmpty then (.ok l, b) else resolveRows n ((c.kv.map (·.2.p3)).headD 0) ((c.kv.map (kvParts c)).foldl Nat.lor 0) l b
/-- The frames that a chain pins. -/
def chainPins (c : Chain) (rows : List RowSlot) : List Nat := if c.kv.isEmpty then [] else (rows.map (·.frame)).eraseDups
/-- A write by the output port of a running command has had no answer for the outbound STREAM_TIMEOUT_US. -/
def PortLate (b : Block) (k : Nat) (r : Run) : Prop :=
  let us := b.reg (cellBase k + 0x50010) 1000 % 65536
  r.status = .done ∧ r.replayDue = none ∧ us ≠ 0 ∧ ∃ p, r.port = some p ∧ p.sent + 1000 * us ≤ b.now
/-- The LAB entry of a leaf group enters, the least recently used leaves a full LAB (R225). -/
def labPut (m : Miss) (y : Walker) : Walker :=
  let stamp := (y.lab.map (·.used)).foldl max 0 + 1
  let oldest := (y.lab.map (·.used)).foldl min stamp
  let lab := if y.lab.length < 256 then y.lab else match y.lab.find? fun l => l.used == oldest with | some l => y.lab.erase l | none => y.lab
  { y with lab := lab ++ [{ part := m.part, entry := m.entry, gen := m.gen, layer := m.layer, group := m.group, used := stamp }] }
/-- Item `i` of a cell's attention command goes on (R228): ATTN_RESUMED, and coins again where they had gone back. -/
def itemGoes (b : Block) (k i : Nat) (r : Run) (x : AItem) : Block :=
  let b := cellEvent b k 0x0405 .done 0 (cellLoc k 2) (detail [(16, 1, r.e.thr), (17, 1, r.e.tok), (18, 2, i), (20, 4, x.seq), (24, 4, (b.now - x.parkAt) / 1000)])
  let b := modRun b k fun r => { r with cur := i, slotWait := false }
  if r.absent then coinRequest (modRun b k fun r => { r with absent := false, phase := .coins, since := b.now, throttled := false }) k r.coins else attnGo b k
end Sys2Proof.Claims

/-- R192, R210, R214: a chain whose start tally holds ends with its first failing check, or leaves the queue with its rows resolved and their
frames pinned and asks for its coins. -/
def Obligations.ChainStarts : Prop :=
  ∀ (k : Fin 800) (e : ArrEntry) (s : State), arrHead s.blk k .chain = some e →
    let h := e.recs.headD 0
    let w := startWait s.blk k 10 (h.u 28 2) (h.u 32 4) e.id
    let m := rowMap w.2 k e
    let n := (s.blk.cell k).part
    (w.1 = false → Quiet s.blk → Answers (.chainStart k) s fun b' => b' = w.2 ∧ SameBytes s.blk b') ∧
    (w.1 = true → m.1.stalled = true → Answers (.chainStart k) s fun b' => b' = settle m.2) ∧
    (w.1 = true → m.1.stalled = false → ∀ st, chainCheck m.2 k e m.1.value = some st → Answers (.chainStart k) s fun b' => b' = settle (arrRefuse m.2 k 0x20808 e st)) ∧
    (w.1 = true → m.1.stalled = false → chainCheck m.2 k e m.1.value = none → ∃ c, chainOf e = some c ∧
      let y := mapRows m.2 n c (m.1.value.getD 0)
      (∀ st, y.1 = .error st → Answers (.chainStart k) s fun b' => b' = settle (arrRefuse y.2 k 0x20808 e st)) ∧
      (∀ rows, y.1 = .ok rows →
        (c.kv ≠ [] → kvOk y.2 n c rows = false → Answers (.chainStart k) s fun b' => b' = settle (arrRefuse y.2 k 0x20808 e .descInvalid)) ∧
        (c.kv = [] ∨ kvOk y.2 n c rows = true →
          (purseCeil y.2 (k / 40) < c.coins → Answers (.chainStart k) s fun b' => b' = settle (arrRefuse y.2 k 0x20808 e .quota)) ∧
          (c.coins ≤ purseCeil y.2 (k / 40) → Answers (.chainStart k) s fun b' => Reached b' fun x =>
            AsksCoins (pinKeys y.2 n (chainPins c rows)) x k e c.coins { e := e, rows := rows, pins := chainPins c rows, nonReplay := chainNonReplay y.2 k c }))))
/-- R207, R211 to R213, R215, R236, R421, R516: coins granted, the wait for them, drydowns, a late write, a stop and a commit of a chain. -/
def Obligations.ChainProgress : Prop :=
  (∀ (r : Fin 20) (cell n at_ : Nat) (rest : List (Nat × Nat × Nat)) (s : State), (s.blk.purse r).waiters = (cell, n, at_) :: rest → coinReady s.blk r = true →
    let b := coinGrant s.blk r
    ((b.purse r).waiters = rest ∧ (b.purse r).held = (s.blk.purse r).held ++ [(cell, n)] ∧ b.cells = s.blk.cells) ∧
    Answers (.coinGrant r) s fun b' => b' = settle (arrGo (modRun b cell fun x => if x.phase = .coins then { x with phase := .running } else x) cell)) ∧
  (∀ (k : Fin 800) (r : Run) (s : State), (s.blk.cell k).run = some r →
    let us := if r.e.kind = .chain then (r.e.recs.headD 0).u 20 2 else (r.e.recs.getD 1 0).u 22 2
    (r.phase = .coins → r.throttled = false → us ≠ 0 → r.since + 1000 * us < s.blk.now → Answers (.coinWaitTimeout k) s fun b' =>
      (b'.cell k).run = some { r with throttled := true, flags := { r.flags with throttled := true } } ∧
      mget 0 (b'.cell k).cnt 0x20848 = (mget 0 (s.blk.cell k).cnt 0x20848 + 1) % 2 ^ 64 ∧ (b'.cell k).thr = (s.blk.cell k).thr ∧
      (b'.cell k).store = (s.blk.cell k).store ∧ ∀ j, j ≠ k.val → b'.cell j = s.blk.cell j) ∧
    (r.e.kind = .chain → PortLate s.blk k r → Answers (.chainWriteTimeout k) s fun b' => b' = modRun s.blk k fun r => { r with replayDue := some s.blk.now, trigger := 2 }) ∧
    (r.e.kind = .chain → r.status ≠ .done → Answers (.chainStop k) s fun b' => Reached b' (ArrayEnds k r r.status))) ∧
  (∀ (k : Fin 800) (r : Run) (c : Chain) (d : CPart) (s : State), Running s.blk k .chain r → chainOf r.e = some c → c.dryPart = some d → r.phase = .running → r.status = .done →
    r.replayDue = none → cellLive (s.blk.cell k) = true → r.dry < r.rt →
    let w := engineWait s.blk (s.blk.cell k).part k 10 c.dryTally (c.h.u 24 4) (r.e.id + 2 ^ 50)
    let x := arrTry w.2 k (dryTile k c d r.dry) (chainFail k)
    (w.1 = false → Answers (.drydownStart k) s fun b' => b' = settle w.2) ∧
    (w.1 = true → x.1 = true → Answers (.drydownStart k) s fun b' => b' = settle (chainGo (chainTags x.2 k c) k)) ∧
    (w.1 = true → x.1 = false → Answers (.drydownStart k) s fun b' => b' = settle x.2)) ∧
  (∀ (k : Fin 800) (r : Run) (c : Chain) (s : State), Running s.blk k .chain r → chainOf r.e = some c → r.phase = .running → r.status = .done → r.replayDue = none →
    c.rowTiles ≤ r.rt → (c.dryPart.isSome = true → c.rowTiles ≤ r.dry) → Answers (.chainCommit k) s fun b' => Reached b' (ArrayEnds k r .done))
/-- R216, R217, R223 to R226, R236, R237, R516: an attention command starts, walks are latched, leaf groups arrive or are late. -/
def Obligations.AttentionWalks : Prop :=
  (∀ (k : Fin 800) (e : ArrEntry) (s : State), arrHead s.blk k .attn = some e →
    let w := startWait s.blk k 10 (e.ad 88 2) (e.ad 92 4) e.id
    let l := workList w.2 k e
    let go : Prop := w.1 = true ∧ l.1.stalled = false
    (w.1 = false → Quiet s.blk → Answers (.attnStart k) s fun b' => b' = w.2 ∧ SameBytes s.blk b') ∧
    (w.1 = true → l.1.stalled = true → Answers (.attnStart k) s fun b' => b' = settle l.2) ∧
    (go → ∀ st, attnCheck l.2 k e l.1 = some st → Answers (.attnStart k) s fun b' => b' = settle (arrRefuse l.2 k 0x21808 e st)) ∧
    (go → attnCheck l.2 k e l.1 = none → purseCeil l.2 (k / 40) < attnCoins e → Answers (.attnStart k) s fun b' => b' = settle (arrRefuse l.2 k 0x21808 e .quota)) ∧
    (go → attnCheck l.2 k e l.1 = none → attnCoins e ≤ purseCeil l.2 (k / 40) → Answers (.attnStart k) s fun b' => Reached b' fun x =>
      AsksCoins l.2 x k e (attnCoins e) { e := e, items := l.1.items, aphase := 1, nonReplay := attnNonReplay l.2 k e l.1.items })) ∧
  (∀ (k : Fin 800) (r r1 : Run) (i : Nat) (x : AItem) (s : State), (s.blk.cell k).run = some r → attnLive s.blk k r = true →
    let b := attnPick (attnLand s.blk k) k
    runOf b k = some r1 → r1.items[i]? = some x → x.st = .todo → x.walk = none → x.phase = runPhase r1 →
    (∀ j y, j < i → r1.items[j]? = some y → ¬(y.st = .todo ∧ y.walk = none ∧ y.phase = runPhase r1)) →
    (∀ y ∈ r1.items, ¬(y.st = .todo ∧ y.walk.isSome = true ∧ y.mode = 0)) → (∀ y, r1.items[r1.cur]? = some y → y.st ≠ .waiting) →
    Answers (.walkStart k) s fun b' => b' = settle (attnGo (walkLatch b k i x) k)) ∧
  (∀ (b : Block) (k i : Nat) (r : Run) (x : AItem), (b.cell k).run = some r → r.items[i]? = some x → (b.walker (k / 8)).walks.length < 16 → (∀ q ∈ (slotWaiters b (k / 8)).head?, q = k) →
    let y := x.seq % 65536
    let e := b.entry y
    seqCheck b (b.cell k).part x.seq = none → e.st ≠ 6 → x.kend ≤ e.len (r.e.ad 0 2) →
    ∃ w, ((runOf (walkLatch b k i x) k).bind fun r => r.items[i]?).bind (·.walk) = some w ∧ w.id = b.hub.nextId ∧ w.entry = y ∧ w.handle = e.gen ∧ w.model = e.model ∧ w.gen = e.tgen ∧
      w.layer = r.e.ad 0 2 ∧ w.length = e.len w.layer ∧ w.pages = walkPages b y w.layer x.kend ∧
      ((walkLatch b k i x).walker (k / 8)).walks = (b.walker (k / 8)).walks ++ [w.id]) ∧
  (∀ (blk : Fin 100) (j : Fin 32) (m : Miss) (s : State), (s.blk.walker blk).misses[j.val]? = some m →
    let b := s.blk.modWalker blk fun y => { y with misses := y.misses.eraseIdx j }
    let cells := missWaiters s.blk blk m
    let live := (blockWalks b blk).any fun w => m.is m.part w m.group
    let t := tablesOk b m.entry m.layer m.page
    let go (b : Block) : Block := b.each (blockCells blk) fun b k => attnGo (attnLand b k) k
    (live = false → Answers (.leafReadDone blk j) s fun b' => b' = settle (go b)) ∧
    (live = true → t.1 = true → Answers (.leafReadDone blk j) s fun b' => b' = settle (go (t.2.modWalker blk (labPut m)))) ∧
    (live = true → t.1 = false → Answers (.leafReadDone blk j) s fun b' =>
      let x := walkerError t.2 blk m .uncorrectable 2
      b' = settle (if m.demand then x.each cells fun b k => attnFail k b .uncorrectable 0 0 0 else x)) ∧
    (Quiet s.blk → m.at_ + 1000 ≤ s.blk.now → Answers (.leafReadTimeout blk j) s fun b' =>
      b'.walker blk = { s.blk.walker blk with misses := (s.blk.walker blk).misses.eraseIdx j, errEntry := m.entry, errGroup := m.group, errStatus := Status.timeout.code, errValid := true } ∧
      (∀ k, (b'.cell k).store = (s.blk.cell k).store) ∧ ∀ k, (b'.cell k).run = if m.demand = true ∧ k ∈ cells then
        ((s.blk.cell k).run.map fun r => { r with replayDue := some s.blk.now, trigger := 2 }) else (s.blk.cell k).run))
/-- R12, R227, R228, R238 to R240, R516, R552: an item goes on once its page is back, and what ends an attention command. -/
def Obligations.AttentionEnds : Prop :=
  (∀ (k : Fin 800) (i : Fin 1024) (r r1 : Run) (x : AItem) (w : Walk) (s : State), (s.blk.cell k).run = some r → attnLive s.blk k r = true →
    let b := attnLand s.blk k
    let cur := (r1.items[r1.cur]?).map (·.st)
    runOf b k = some r1 → r1.items[i.val]? = some x → x.walk = some w → (∃ p ∈ w.pages, p.page = x.page ∧ p.resident = true) →
    (x.st = .waiting → Answers (.attnResumed k i) s fun b' => b' = settle (itemGoes (modItem b k i fun x => { x with st := .walking }) k i r1 x)) ∧
    (x.st = .parked → cur ≠ some .waiting → cur ≠ some .walking → r1.slotWait = true ∨ r1.absent = true ∨ nextItem r1 = none →
      Answers (.attnResumed k i) s fun b' => b' = settle (itemGoes (unpark b k i) k i r1 x)) ∧
    (∀ j, x.st = .parked → cur = some .waiting → x.slot = some j →
      Answers (.attnResumed k i) s fun b' => b' = settle (itemGoes (attnResumed.unpark' b k i j r1.cur) k i r1 x))) ∧
  (∀ (p : Path) (k : Fin 800) (r : Run) (s : State), Running s.blk k .attn r → (∃ x ∈ r.items, x.st = .parked ∨ x.st = .waiting) →
    (r.status = .done → Effects (.attnAbandon p k) s p (cellBase k + 0x21008) 1 fun b => attnFail k b .pageAbsent 0 0 0) ∧
    (r.status ≠ .done → Effects (.attnAbandon p k) s p (cellBase k + 0x21008) 1 fun b => attnLeave b k r r.status)) ∧
  (∀ (k : Fin 800) (r : Run) (s : State), Running s.blk k .attn r →
    (r.status ≠ .done → Answers (.attnStop k) s fun b' => Reached b' (ArrayEnds k r r.status)) ∧
    (Quiet s.blk → PortLate s.blk k r → Answers (.attnWriteTimeout k) s fun b' => b' = modRun s.blk k fun r => { r with replayDue := some s.blk.now, trigger := 2 })) ∧
  (∀ (k : Fin 800) (r r1 : Run) (s : State), (s.blk.cell k).run = some r → attnLive s.blk k r = true →
    let b := attnGo (attnLand s.blk k) k
    runOf b k = some r1 → attnLive b k r1 = true → (∀ x ∈ r1.items, x.st = .done) →
    Answers (.attnCommit k) s fun b' => Reached b' (ArrayEnds k r1 .done))

namespace Sys2Proof.Claims
open Sys2Proof.Machine

/-- The processor of partition `n`'s command ring is free to take record `r` (R393, R394, R401, R522). -/
def Offers (b : Block) (n : Nat) (r : Rec) : Prop :=
  (b.part n).mgrEn = true ∧ (b.part n).cmd.en = true ∧ (b.part n).cmd.stop = false ∧ headHeld b n = false ∧ b.hub.fatal = none ∧
  ∀ x, (b.part n).fetched.find? (fun f => f.1 == (b.part n).cmd.head) = some x → x.2 = r
/-- The command that the record becomes: running, with an identity of its own and the ring index of its record. -/
def cmdAt (b : Block) (n : Nat) (r : Rec) : Cmd := { id := b.cmdId, part := n, idx := (b.part n).cmd.head, desc := r }
/-- The block with the record taken: HEAD past it, the command among those in progress. -/
def taken (b : Block) (n : Nat) (r : Rec) : Block :=
  let i := (b.part n).cmd.head
  let h := (i + 1) % 2 ^ 32
  let b1 := (b.modHub fun u => { u with nextId := b.cmdId + 1 }).modPart n fun p =>
    { p with cmd := { p.cmd with head := h, tail := if p.cmd.tail = i then h else p.cmd.tail }, fetched := p.fetched.filter fun f => f.1 != i }
  b1.modHub fun u => { u with cmds := u.cmds ++ [cmdAt b n r] }
/-- The record starts at once: it is taken in a partition that is ACTIVE, and it waits for no earlier command (R394, R404). -/
def Starts1 (b : Block) (n : Nat) (r : Rec) (op : Nat) : Prop :=
  r.u 0 1 = op ∧ Offers b n r ∧ (b.part n).st = .active ∧ (mustWait r = true → ∀ c ∈ b.hub.cmds, c.part ≠ n)
/-- The bytes of a record's body that are not zero lie in these (offset, bytes), and no reserved bit of its header is set (R393). -/
def Body (r : Rec) (used : List (Nat × Nat)) : Prop := bodyOk r used = true
/-- The statuses of the partition's other commands, and every command's work, are as before. -/
def KeepsCmds (b b' : Block) (id : Nat) : Prop :=
  ∀ i d, i ≠ id → cmdOf b i = some d → ∃ d', cmdOf b' i = some d' ∧ d'.status = d.status ∧ d'.result = d.result ∧ d'.flags = d.flags ∧ d'.desc = d.desc
/-- The parts of the module that the completion of a command does not touch. -/
def OnlyRings (b b' : Block) : Prop :=
  b'.cells = b.cells ∧ b'.mem = b.mem ∧ b'.entries = b.entries ∧ b'.rem = b.rem ∧ b'.fab = b.fab ∧ b'.pow = b.pow ∧ b'.clk = b.clk ∧ b'.sec = b.sec ∧
  b'.regs = b.regs ∧ b'.hub.tallies = b.hub.tallies ∧ b'.hub.escal = b.hub.escal ∧ ∀ m, (b'.part m).st = (b.part m).st ∧ (b'.part m).models = (b.part m).models

end Sys2Proof.Claims

/-- R393, R394, R404, R405: what the processor of a command ring does with a record before its command's own work: it leaves a ring that
is off, of a partition without a manager, stopped or held as it is, answers for a partition that is FREE or being killed, and sets a command aside that must wait. -/
def Obligations.RingTaking : Prop :=
  ∀ op ∈ ([
  (0x00, .cmdNop), (0x01, .cmdMap), (0x02, .unmap), (0x03, .weightLoad), (0x04, .cmdCancel), (0x10, .hostCopy), (0x11, .hostNotify), (0x30, .recoveryDone),
  (0x40, .ledModel), (0x41, .ledPool), (0x42, .ledAdmit), (0x43, .ledReserve), (0x44, .seal), (0x45, .fork), (0x46, .ledImport), (0x47, .preempt),
  (0x48, .resume), (0x49, .compact), (0x4A, .release), (0x50, .progLoad), (0x51, .progUnload), (0x52, .batch), (0x60, .qpSetup), (0x61, .qpReset),
  (0x62, .destSet), (0x63, .destClear), (0x64, .resend), (0x70, .tallySet), (0x71, .tallyThresh), (0x72, .winOpen), (0x73, .winClose),
  (0x80, .groupSet), (0x81, .groupClear), (0x82, .coll)] : List (Nat × (Fin 16 → Rec → Instr))),
  ∀ (n : Fin 16) (r : Rec) (s : State), r.u 0 1 = op.1 → Quiet s.blk →
    let b := s.blk
    let p := b.part n
    let t := taken b n r
    let id := b.cmdId
    (p.mgrEn = false ∨ p.cmd.en = false ∨ p.cmd.stop = true ∨ headHeld b n = true ∨ b.hub.fatal ≠ none → Answers (op.2 n r) s fun b' => b' = b) ∧
    (Offers b n r →
      (p.st = .free → Answers (op.2 n r) s fun b' => b' = finish t id .protection) ∧
      (p.st = .killing ∨ p.st = .scrubbing → Answers (op.2 n r) s fun b' => b' = finish t id .scrubbing) ∧
      (p.st = .active → mustWait r = true → (∃ c ∈ b.hub.cmds, c.part = n) → Answers (op.2 n r) s fun b' => b' = modCmd t id fun c => { c with st := .aside }) ∧
      (t.part n).cmd.head = (p.cmd.head + 1) % 2 ^ 32 ∧ cmdOf t id = some (cmdAt b n r) ∧ ∀ c ∈ b.hub.cmds, c.id ≠ id)
/-- R395, R476: a command whose work ends has its status and result from then on, its record joins the partition's commit order, and
nothing else of the module changes. -/
def Obligations.RingCompletion : Prop :=
  ∀ (b : Block) (id : Nat) (c : Cmd) (st : Status) (res : Nat) (fl : Flags), cmdOf b id = some c → c.st = .running ∨ c.st = .aside →
    let b' := finish b id st res fl
    (∃ c', cmdOf b' id = some c' ∧ c'.status = st ∧ c'.result = res ∧ c'.flags = c.flags.or fl ∧ (c'.st = .commit ∨ c'.st = .posting)) ∧
    KeepsCmds b b' id ∧ OnlyRings b b' ∧
    ((b.part c.part).comp.en = false ∨ kwUp b = false → (∀ i ∈ (b.part c.part).commits, cmdOf b i ≠ none) → (b'.part c.part).commits = (b.part c.part).commits ++ [id]) ∧
    (∀ m, m ≠ c.part → b'.part m = b.part m)
/-- R11: of the checks that fail, the status that comes first in the order of validation is the one reported. -/
def Obligations.OrderOfValidation : Prop :=
  ∀ l : List (Bool × Status),
    (refuse l = none ↔ ∀ x ∈ l, x.1 = false) ∧
    ∀ st, refuse l = some st → (true, st) ∈ l ∧ ∀ x ∈ l, x.1 = true → st.rank ≤ x.2.rank
/-- R393, R396 to R398, R479, R518, R394: NOP, MAP, UNMAP, the copies between host memory and pages, HOST_NOTIFY, and a command set aside. -/
def Obligations.PartitionCommands : Prop :=
  ∀ (n : Fin 16) (r : Rec) (s : State),
    let t := taken s.blk n r
    let c := cmdAt s.blk n r
    let src := r.u 16 8
    let dst := r.u 24 8
    let len := r.u 32 4
    (Starts1 s.blk n r 0x00 → Body r [] → Answers (.cmdNop n r) s fun b' => b' = finish t c.id .done) ∧
    (let vpn := src / 2 ^ 21
     let e := r.u 24 1
     let acc := r.u 25 1
     let page := r.u 28 4
     let vpns := (List.range len).map (vpn + ·)
     let keys := if page = 0xFFFFFFFF then freePages t e len else (List.range len).map fun i => pageKey e (page + i)
     Starts1 s.blk n r 0x01 → Body r [(16, 10), (28, 8)] → (t.part n).mttEn = true → src % 2 ^ 21 = 0 → e < 4 → acc % 4 < 3 → acc < 16 → 1 ≤ len → vpn + len ≤ 524288 →
      (∀ v ∈ vpns, mttV (mttEntry t n v) = false) → keys.length = len → (∀ k ∈ keys, pageOwner t k = none ∧ ∀ z ∈ t.hub.zeroing, z.1 ≠ k) →
      (page ≠ 0xFFFFFFFF → 512 ≤ page ∧ page + len ≤ Config.pagesPerEdie) → len ≤ 131072 → usedPages t n + len ≤ (t.part n).pageQuota →
      Answers (.cmdMap n r) s fun b' => b' = finish (t.each (vpns.zip keys) fun b x =>
        (b.memWrite ((t.part n).mttBase + 8 * x.1) 8 (mttMake (acc % 4) (bit acc 2) (bit acc 3) x.2)).modHub fun h => { h with pageOwner := mset 0 h.pageOwner x.2 (n + 1) }) c.id .done len) ∧
    (let vpns := (List.range len).map (src / 2 ^ 21 + ·)
     Starts1 s.blk n r 0x02 → Body r [(16, 8), (32, 4)] → (t.part n).mttEn = true → src % 2 ^ 21 = 0 → src / 2 ^ 21 + len ≤ 524288 → (∀ v ∈ vpns, poolInUse t n v = false) →
      let u := unmapVpns t n vpns
      Answers (.unmap n r) s fun b' => b' = unmapPump (modCmd u.2 c.id fun c => { c with wait := u.1, left := 1 })) ∧
    (let host := bit (r.u 36 1) 0
     Starts1 s.blk n r 0x03 → Body r [(16, 21)] → r.u 36 1 < 2 → src % 64 = 0 → dst % 4096 = 0 → len % 4096 = 0 → len ≠ 0 → pvaOk t n .weightWrite dst len = true →
      (host = true → inAperture t n src len = true → kwUp t = true → Answers (.weightLoad n r) s fun b' =>
        b' = hostReads (modCmd t c.id fun c => { c with left := len }) c .weightWrite src dst (len / 4096 + 2) len) ∧
      (host = true → inAperture t n src len = true → kwUp t = false → Answers (.weightLoad n r) s fun b' => b' = finish t c.id .linkDown) ∧
      (host = false → pvaOk t n .hubRead0 src len = true → Answers (.weightLoad n r) s fun b' =>
        let x := pvaCopy t n src dst (len / 4096) 0
        b' = finish x.2.2 c.id x.2.1 x.1)) ∧
    (let out := bit (r.u 36 1) 0
     let acc : Access := if out then .hubRead0 else .hubWrite0
     Starts1 s.blk n r 0x10 → Body r [(16, 21)] → r.u 36 1 < 2 → src % 64 = 0 → dst % 64 = 0 → len % 64 = 0 → len ≤ 2 ^ 30 → len ≠ 0 → inAperture t n src len = true → pvaOk t n acc dst len = true →
      (kwUp t = false → Answers (.hostCopy n r) s fun b' => b' = finish t c.id .linkDown) ∧
      (kwUp t = true → out = false → Answers (.hostCopy n r) s fun b' =>
        b' = hostReads (modCmd t c.id fun c => { c with left := len }) c acc src dst (len / 4096 + len / 2 ^ 21 + 2) len) ∧
      (let x := pvaCheck t n acc dst len
       kwUp t = true → out = true → Answers (.hostCopy n r) s fun b' => b' = if x.1 then finish x.2 c.id .uncorrectable else
        hostWrites (modCmd x.2 c.id fun c => { c with left := len }) c acc src dst (len / 512 + len / 2 ^ 21 + 2) len)) ∧
    (Starts1 s.blk n r 0x11 → Body r [(16, 1)] → Answers (.hostNotify n r) s fun b' => b' = finish (modCmd t c.id fun c => { c with notes := [(1, r.u 16 1)] }) c.id .done) ∧
    (∀ d, s.blk.hub.fatal = none → asideReady s.blk n = some d → (s.blk.part n).st = .active → Answers (.orderedStart n) s fun b' =>
      b' = settled (opOf d.op (modCmd s.blk d.id fun c => { c with st := .running }) { d with st := .running }))

namespace Sys2Proof.Claims
open Sys2Proof.Machine

/-- A handle names a sequence of partition `n` that a ledger command may act on: taken, its own, of the present generation,
not a prefix unless allowed, and not failed; and no word of LPDDR6, so none of its tables, is in error (R247, R255, R268, R281). -/
def Sequence (b : Block) (n h : Nat) (pfx : Bool) : Prop :=
  seqCheck b n h = none ∧ (b.entry (h % 65536)).st ≠ 6 ∧ (pfx = false → (b.entry (h % 65536)).st ≠ 2) ∧ b.merr = []
/-- A page of an entry's layer. -/
def leafAt (b : Block) (x layer page : Nat) : Leaf := (b.entry x).leaf layer page
/-- The partition's table pool has `k` free blocks behind every run that is in use (R250). -/
def Roomy (b : Block) (n k : Nat) : Prop := ∃ s, (∀ e ∈ (b.part n).blocksUsed, e.1 + e.2 ≤ s) ∧ s + k ≤ poolBlocks (b.part n)
/-- Blocks of an entry's root area for a length (R250). -/
def rootBlocks (m : Model) (len : Nat) : Nat := cdiv (m.layers * 4 * (1 + cdiv len 1024)) 256

end Sys2Proof.Claims

/-- R243, R244, R256, R258, R268, R270: LED_MODEL, LED_POOL, ADMIT and IMPORT define a model, give it its frame pool, and take an
entry; and what the entry then holds. -/
def Obligations.LedgerEntries : Prop :=
  (∀ (n : Fin 16) (r : Rec) (s : State),
    let t := taken s.blk n r
    let c := cmdAt s.blk n r
    let m := r.u 16 1
    let x := t.model n m
    (Starts1 s.blk n r 0x40 → Body r [(16, 1), (18, 5)] → m < 8 → 1 ≤ r.u 18 2 → r.u 18 2 ≤ 1024 → 1 ≤ r.u 20 1 → r.u 20 1 ≤ 16 → r.u 21 1 = 64 ∨ r.u 21 1 = 128 →
      r.u 22 1 = 3 ∨ r.u 22 1 = 4 →
      x.layers = 0 ∨ (x.poolPages = 0 ∧ (t.part n).image = none ∧ ∀ e ∈ t.entries, e.2.st = 0 ∨ e.2.owner ≠ n ∨ e.2.model ≠ m) → Answers (.ledModel n r) s fun b' =>
        b' = finish (t.modModel n m fun _ => { layers := r.u 18 2, kvHeads := r.u 20 1, headDim := r.u 21 1, fmt := r.u 22 1 }) c.id .done) ∧
    (let base := r.u 24 8
     let pages := r.u 32 4
     let frames := pages * x.fpp
     let old := if x.recBlocks = 0 then t else freeBlocks t n x.recBlock
     Starts1 s.blk n r 0x41 → Body r [(16, 1), (24, 12)] → m < 8 → x.layers ≠ 0 → x.inUse = 0 → (t.part n).mttEn = true → base % 2 ^ 21 = 0 → 1 ≤ pages →
      frames ≤ 2 ^ 26 → base / 2 ^ 21 + pages ≤ 524288 → (∀ i < pages, mttV (mttEntry t n (base / 2 ^ 21 + i)) = true ∧ mttKind (mttEntry t n (base / 2 ^ 21 + i)) = 2) →
      (Roomy old n (cdiv (16 * frames) 256) → ∃ k b2, allocBlocks old n (cdiv (16 * frames) 256) = some (k, b2)) ∧
      (allocBlocks old n (cdiv (16 * frames) 256) = none → Answers (.ledPool n r) s fun b' => b' = finish (ledCount t n 3) c.id .quota) ∧
      ∀ k b2, allocBlocks old n (cdiv (16 * frames) 256) = some (k, b2) → Answers (.ledPool n r) s fun b' =>
        b' = finish (b2.modModel n m fun x => { x with poolVpn := base / 2 ^ 21, poolPages := pages, recBlock := k, recBlocks := cdiv (16 * frames) 256, frames := [] }) c.id .done frames) ∧
    (let got := ledAdmit t n m (r.u 20 4) (r.u 17 1) (r.u 18 2) (r.u 32 4) (r.u 24 4) (r.u 28 4) (r.u 36 4)
     Starts1 s.blk n r 0x42 → Body r [(16, 24)] → m < 8 → x.layers ≠ 0 → r.u 17 1 < 2 → 16 ≤ r.u 20 4 → r.u 20 4 ≤ 1048576 → r.u 20 4 % 16 = 0 → ledFull t n = false →
      (Roomy t n (rootBlocks x (r.u 20 4)) → got ≠ none) ∧ (got = none → Answers (.ledAdmit n r) s fun b' => b' = finish (ledCount t n 3) c.id .quota) ∧
      ∀ y b2, got = some (y, b2) → Answers (.ledAdmit n r) s fun b' => b' = finish b2 c.id .done (handleOf b2 y)) ∧
    (let len := r.u 20 4
     let fl := r.u 17 1
     let bytes := x.layers * cdiv len 16 * x.pageBytes
     let got := ledImport t n m len (bit fl 0)
     let srcOk : Prop := if bit fl 1 = true then pvaOk t n .hubRead0 (r.u 24 8) bytes = true else inAperture t n (r.u 24 8) bytes = true
     Starts1 s.blk n r 0x46 → Body r [(16, 2), (20, 12)] → m < 8 → x.layers ≠ 0 → x.poolPages ≠ 0 → fl < 4 → 1 ≤ len → len ≤ 1048576 → r.u 24 8 % 64 = 0 → ledFull t n = false →
      (len ≤ 16 → x.layers = 1 → Roomy t n 2 → (∃ f < x.frames_, t.frame n m f = {} ∧ frameEdie t n m f < 4) → got ≠ none) ∧
      (got = none → srcOk → Answers (.ledImport n r) s fun b' => b' = finish (ledCount t n 3) c.id .quota) ∧
      ∀ y b2, got = some (y, b2) →
      let l := importFrames b2 y len
      let pieces := (List.range l.length).zip l
      (bit fl 1 = true → pvaOk t n .hubRead0 (r.u 24 8) bytes = true → pvaBad t n .hubRead0 (r.u 24 8) bytes = false → Answers (.ledImport n r) s fun b' =>
        let b3 := b2.each pieces fun b f =>
          b.memWrite (frameMpa b n m f.2) x.pageBytes (pvaRead t n .hubRead0 (r.u 24 8 + f.1 * x.pageBytes) (pvaFuel x.pageBytes) x.pageBytes)
        b' = finish b3 c.id .done (handleOf b3 y)) ∧
      (bit fl 1 = false → inAperture t n (r.u 24 8) bytes = true → kwUp t = false → Answers (.ledImport n r) s fun b' => b' = finish t c.id .linkDown) ∧
      (bit fl 1 = false → inAperture t n (r.u 24 8) bytes = true → kwUp t = true → Answers (.ledImport n r) s fun b' =>
        b' = (modCmd b2 c.id fun c => { c with left := bytes, undo := [y] }).each pieces fun b f =>
          pageReads n (b.part n).mgrFunc (r.u 24 8 + f.1 * x.pageBytes) (frameMpa b n m f.2) (fun a => .cmdIn n c.id a) (x.pageBytes / 4096 + 1) x.pageBytes b))) ∧
  (∀ (b b2 : Block) (n m len flags sink recent q k dest y : Nat), ledAdmit b n m len flags sink recent q k dest = some (y, b2) → (∃ i < 65536, (b.entry i).st = 0) →
    let e := b2.entry y
    (b.entry y).st = 0 ∧ e.st = 1 ∧ e.owner = n ∧ e.gen = (b.entry y).gen ∧ e.model = m ∧ e.lenCap = len ∧ e.compactOk = bit flags 0 ∧ e.sink = sink ∧ e.recent = recent ∧
    e.qrot = q ∧ e.krot = k ∧ e.dest = dest ∧ e.reserved = 0 ∧ e.leafs = [] ∧ seqCheck b2 n (handleOf b2 y) = none ∧ b2.mem = b.mem ∧
    ∀ j, j ≠ y → b2.entry j = b.entry j)
/-- R259, R262, R266, R267, R269, R270: RESERVE, SEAL and FORK of a sequence. -/
def Obligations.LedgerGrowth : Prop :=
  (∀ (n : Fin 16) (r : Rec) (s : State),
    let t := taken s.blk n r
    let c := cmdAt s.blk n r
    let h := r.u 16 4
    let x := h % 65536
    let e := t.entry x
    let m := t.model n e.model
    (let k := r.u 20 4
     Starts1 s.blk n r 0x43 → Body r [(16, 8)] → Sequence t n h false → 1 ≤ k → k ≤ 65536 → e.reserved + k ≤ e.lenCap → m.poolPages ≠ 0 →
      (tgenBlocked t x = true → Answers (.ledReserve n r) s fun b' => b' = modCmd t c.id fun c => { c with left := 99 }) ∧
      (∀ b2, tgenBlocked t x = false → ledReserve t x (e.reserved + k) c.attr = .ok b2 → Answers (.ledReserve n r) s fun b' => b' = finish b2 c.id .done (e.reserved + k)) ∧
      (tgenBlocked t x = false → ledReserve t x (e.reserved + k) c.attr = .error .quota → Answers (.ledReserve n r) s fun b' => b' = finish (ledCount t n 3) c.id .quota)) ∧
    (let p := r.u 20 4
     Starts1 s.blk n r 0x44 → Body r [(16, 8)] → Sequence t n h false → 1 ≤ p → p ≤ e.reserved → Answers (.seal n r) s fun b' =>
      b' = finish (t.each (List.range m.layers) fun b layer => requestSeal b x layer ((p - 1) / 16) ((p - 1) % 16 + 1) c.attr) c.id .done) ∧
    (let at_ := r.u 20 4
     let away : Prop := ∃ l ∈ e.pages, 16 * l.2.1 < at_ ∧ (l.2.2.st = 2 ∨ leafKey l.1 l.2.1 ∈ e.swapMarks)
     let got := ledFork t n x at_ (r.u 24 4) (r.u 28 4) (r.u 36 4)
     let pages := e.pages.filter fun l => decide (16 * l.2.1 < at_)
     Starts1 s.blk n r 0x45 → Body r [(16, 16), (36, 4)] → Sequence t n h true → (∀ i < m.layers, at_ ≤ e.len i) → ledFull t n = false →
      (away → Answers (.fork n r) s fun b' => b' = finish t c.id .pageAbsent) ∧
      (Roomy t n (rootBlocks m e.lenCap + pages.length) → (∀ f, (t.frame n e.model f).ref + (forkRefs pages (((pages.filter fun l => l.2.2.st == 3).map
        fun l => (l.2.2.frame, l.2.2.ext)).eraseDups)).count f ≤ 65535) → got ≠ none) ∧
      (¬away → got = none → Answers (.fork n r) s fun b' => b' = finish (ledCount t n 3) c.id .quota) ∧
      (∀ y b2, ¬away → got = some (y, b2) → Answers (.fork n r) s fun b' => b' = finish b2 c.id .done (handleOf b2 y)))) ∧
  (∀ (b b2 : Block) (x to_ attr : Nat), ledReserve b x to_ attr = .ok b2 → (b.entry x).reserved < to_ →
    (b2.entry x).reserved = to_ ∧ (b2.entry x).st = (b.entry x).st ∧ (b2.entry x).gen = (b.entry x).gen ∧ ∀ j, j ≠ x → b2.entry j = b.entry j) ∧
  (∀ (b b2 : Block) (n x at_ q k dest y : Nat), ledFork b n x at_ q k dest = some (y, b2) →
    let p := b.entry x
    let e := b2.entry y
    e.st = 1 ∧ e.owner = n ∧ e.model = p.model ∧ e.forkAt = at_ ∧ e.reserved = at_ ∧ e.lenCap = p.lenCap ∧ e.qrot = q ∧ e.krot = k ∧ e.dest = dest ∧
    e.pfx = (if p.st = 2 then handleOf b x else p.pfx) ∧ b2.mem = b.mem)
/-- R271 to R276, R278, R280, R224: PREEMPT, RESUME, COMPACT and RELEASE of a sequence, and the end of the pins that hold one up. -/
def Obligations.LedgerMoves : Prop :=
  (∀ (n : Fin 16) (r : Rec) (s : State),
    let t := taken s.blk n r
    let c := cmdAt s.blk n r
    let h := r.u 16 4
    let x := h % 65536
    let e := t.entry x
    let m := t.model n e.model
    let host := r.u 24 8
    (let rel := bit (r.u 20 1) 0
     let keys := (privatePages t x).map fun p => leafKey p.1 p.2.1
     let need := 4096 + keys.length * m.pageBytes + if rel then (sharedPages t x).length * m.pageBytes + e.rootLen * 256 + e.tables.length * 256 else 0
     Starts1 s.blk n r 0x47 → Body r [(16, 5), (24, 12)] → Sequence t n h false → r.u 20 1 < 2 → need ≤ r.u 32 4 → e.st = 1 → host % 64 = 0 → inAperture t n host (r.u 32 4) = true →
      (tgenBlocked t x = true → Answers (.preempt n r) s fun b' => b' = modCmd t c.id fun c => { c with left := 99 }) ∧
      (let b1 := modCmd (bumpTgen (t.modEntry x fun e => { e with st := 3, swapMarks := keys }) x) c.id fun c =>
        { c with left := 1, wait := keys, notes := keys.zip (List.range keys.length), undo := [keys.length] }
       tgenBlocked t x = false → kwUp t = true ∨ (rel = false ∧ keys = []) → Answers (.preempt n r) s fun b' => b' = preemptPump b1 c.id)) ∧
    (let swapped := e.pages.filter fun p => p.2.2.st == 2
     let keys := swapped.map fun p => leafKey p.1 p.2.1
     let parked := (parkedKeys t x).filter keys.contains |>.eraseDups
     let slots := swapped.foldl (fun a p => max a (p.2.2.frame + 1)) 0
     Starts1 s.blk n r 0x48 → Body r [(16, 5), (24, 8)] → r.u 20 1 = 0 → Sequence t n h false → e.st = 3 ∨ e.st = 4 → host % 64 = 0 → inAperture t n host (4096 + slots * m.pageBytes) = true →
      swapped = [] ∨ m.poolPages ≠ 0 →
      (∀ d ∈ t.hub.cmds, d.op ≠ 0x47) → tgenBlocked t x = false → kwUp t = true → Answers (.resume n r) s fun b' =>
        b' = resumeStart ((bumpTgen (t.modEntry x fun e => { e with st := 5, swapMarks := [] }) x).each e.swapMarks fun b k =>
          trySeal b x (k / 65536) (k % 65536)) c x (parked ++ keys.filter fun k => !parked.contains k)) ∧
    (Starts1 s.blk n r 0x48 → Body r [(16, 5), (24, 8)] → r.u 20 1 = 1 → h = 0xFFFFFFFF → host % 64 = 0 → inAperture t n host 4096 = true → ledFull t n = false → kwUp t = true →
      Answers (.resume n r) s fun b' => b' = dmaPush (modCmd t c.id fun c => { c with left := 3 })
        { part := n, write := false, func := (t.part n).mgrFunc, addr := host, len := 4096, data := 0, use := .cmdIn n c.id 0, bulk := true }) ∧
    (let keys := (List.range m.layers).flatMap fun i => (compactPages t x i (r.u 24 8)).map (leafKey i)
     let pinned := keys.countP fun k => let f := t.frame n e.model (e.leaf (k / 65536) (k % 65536)).frame; f.pins != 0 || f.remit != 0
     Starts1 s.blk n r 0x49 → Body r [(16, 4), (24, 8)] → Sequence t n h false → e.compactOk = true → e.st = 1 → tgenBlocked t x = false →
      let b1 := modCmd (if keys = [] then t else bumpTgen t x) c.id fun c => { c with left := 1, wait := keys, pay := pinned }
      Answers (.compact n r) s fun b' => b' = compactPump (if pinned = 0 then b1 else ledCount b1 n 11 pinned) c.id) ∧
    (Starts1 s.blk n r 0x4A → Body r [(16, 4)] → seqCheck t n h = none →
      (e.st = 3 ∨ e.st = 5 → Answers (.release n r) s fun b' => b' = modCmd t c.id fun c => { c with left := 99 }) ∧
      (e.st ≠ 3 → e.st ≠ 5 → Answers (.release n r) s fun b' => b' = finish (releaseEntry (if e.st = 6 then fenceFrames t x else t) x) c.id .done)) ∧
    (∀ d, (s.blk.hub.cmds.filter fun c => c.part == n.val && c.st == .running) = [d] →
      (d.left = 99 → Answers (.pinEnd n) s fun b' => b' = retryLed s.blk d) ∧
      (d.left ≠ 99 → d.op = 0x47 → Answers (.pinEnd n) s fun b' => b' = preemptPump s.blk d.id) ∧
      (d.left ≠ 99 → d.op = 0x49 → Answers (.pinEnd n) s fun b' => b' = compactPump s.blk d.id))) ∧
  (∀ (b : Block) (x : Nat), ((releaseEntry b x).entry x) = { gen := ((b.entry x).gen + 1) % 65535, taken := true, owner := (b.entry x).owner } ∧
    (releaseEntry b x).mem = b.mem ∧ ∀ j, j ≠ x → (releaseEntry b x).entry j = b.entry j)
/-- R272, R275, R228: every write of a page has been acknowledged, or every read of one has ended: its leaf is swapped, or resident
again, and the command's count of pages has moved by one. -/
def Obligations.LedgerSwaps : Prop :=
  ∀ (n : Fin 16) (x : Fin 65536) (layer : Fin 1024) (page : Fin 65536) (c : Cmd) (s : State),
    let b := s.blk
    let k := leafKey layer page
    let e := b.entry x
    let l := leafAt b x layer page
    let note := ((c.notes.find? fun s => s.1 == k).map (·.2)).getD 0
    k ∉ c.commitsBad → c.part = n.val → cmdOf b c.id = some c →
    (∀ b2, swapCmd b x k 0x47 = some c → seqHeld b c = true → pageDma b (.swapOut n x layer page) = false → e.st = 3 →
      setLeaf (modCmd b c.id fun c => { c with wait2 := c.wait2.filter (· != k) }) x layer page { l with st := 2, frame := note } = some b2 →
      Answers (.swapOutPage n x layer page) s fun b' => ∃ y, b' = preemptPump y c.id ∧ leafAt y x layer page = { l with st := 2, frame := note } ∧
        k ∉ (y.entry x).swapMarks ∧ y.mem = b.mem ∧ (∀ d, cmdOf y c.id = some d → d.result = c.result + 1 ∧ k ∉ d.wait2)) ∧
    (∀ b2, swapCmd b x k 0x48 = some c → pageDma b (.swapIn n x layer page) = false → e.st = 5 →
      setLeaf (modCmd b c.id fun c => { c with wait2 := c.wait2.filter (· != k) }) x layer page { l with st := 1, frame := note } = some b2 → Answers (.swapInPage n x layer page) s fun b' =>
      ∃ y, b' = resumePump (trySeal y x layer page) c.id ∧ leafAt y x layer page = { l with st := 1, frame := note } ∧ y.mem = b.mem ∧
        (∀ d, cmdOf y c.id = some d → d.result = c.result + 1 ∧ k ∉ d.wait2))

namespace Sys2Proof.Claims
open Sys2Proof.Machine

/-- The program image that a PROG_LOAD reads, its sections' physical cells under a cell map, and the record that is kept of it. -/
def physIn (m : List (Nat × Nat)) (lc : Nat) : Nat := ((m.find? fun x => x.1 == lc).map (·.2)).getD 0
def LoadedImage (im : Image) (raw : Nat) (m : List (Nat × Nat)) (pages : List (Nat × Nat × Nat)) : Prop :=
  im.model = ib raw 11 1 ∧ im.group = ib raw 12 1 ∧ im.qchunk = ib raw 13 1 ∧ im.rowsMax = ib raw 16 4 ∧ im.mtFirst = ib raw 20 2 ∧ im.mtCount = ib raw 22 2 ∧
  im.buckets = (imgBuckets raw).map (fun x => (ib x 0 4, ib x 4 4)) ∧ im.cells = (imgSecs raw).map (fun s => (s.lcell, physIn m s.lcell)) ∧
  im.regions = pages.map (fun x => (x.1, x.2.2)) ∧ im.damaged = false
/-- A batch whose items are formed and placed and whose sequences are admitted, as it waits behind the run (R297). -/
def Admitted (b : Block) (n id : Nat) (r : Rec) (bt : Batch) : Prop :=
  (b.part n).ahead = some bt ∧ (b.part n).lastBatch = bt.num ∧ bt.cmd = id ∧ bt.bucket = r.u 16 1 ∧ bt.arg0 = r.u 32 8 ∧ bt.arg1 = r.u 40 8 ∧
  ∀ c, cmdOf b id = some c → c.left = 2 ∧ c.result = bt.num

end Sys2Proof.Claims

/-- R93, R94, R283 to R288: PROG_LOAD and PROG_UNLOAD, what a loaded cell holds, and the threads of a run. That zeros follow the code
in the code area is the model's reading (log entry 91). -/
def Obligations.Programs : Prop :=
  (∀ (n : Fin 16) (r : Rec) (s : State),
    let t := taken s.blk n r
    let c := cmdAt s.blk n r
    let len := r.u 24 4
    let q := pvaCheck t n .hubRead0 (r.u 16 8) len
    let raw := pvaRead q.2 n .hubRead0 (r.u 16 8) (pvaFuel len) len
    (Starts1 s.blk n r 0x50 → Body r [(16, 12)] → (t.part n).image = none → 64 ≤ len → r.u 16 8 % 64 = 0 → pvaOk t n .hubRead0 (r.u 16 8) len = true → q.1 = false →
      imgHeaderOk q.2 n raw len = true → imgLayoutOk raw len = true → (imgSecs raw).findSome? (secBad raw) = none → imgDeclsOk raw = true →
      (∀ kind i st, placeImage q.2 n raw = .error (kind, i, st) → Answers (.progLoad n r) s fun b' => b' = settle (finish (placeFail q.2 n kind i st) c.id st)) ∧
      (∀ m bases pages, placeImage q.2 n raw = .ok (m, bases, pages) → Answers (.progLoad n r) s fun b' => ∃ im, LoadedImage im raw m pages ∧
        let b1 := q.2.modPart n fun p => { p with cellMap := m.foldl (fun a x => mset 0 a x.1 (x.2 + 1)) [] }
        let b2 := b1.each (imgSecs raw) fun b s => loadCell b n raw s (physIn m s.lcell) ((imgBufs raw).zip bases)
        let b3 := b2.each pages fun b x => mapPage b n x.1 x.2.1 x.2.2
        b' = settle (finish (b3.modPart n fun p => { p with image := some im }) c.id .done))) ∧
    (∀ im, Starts1 s.blk n r 0x51 → Body r [] → (t.part n).image = some im → Answers (.progUnload n r) s fun b' =>
      let b1 := t.each (im.cells.map (·.2)) unloadCell
      let mine := (im.regions.filter fun x => mttV (mttEntry b1 n x.1) && mttKey (mttEntry b1 n x.1) == x.2 && !poolInUse b1 n x.1).map (·.1)
      let u := unmapVpns b1 n mine
      let b2 := u.2.modHub fun h => { h with pageOwner := u.1.foldl (fun m k => mset 0 m k 0) h.pageOwner, zeroing := h.zeroing ++ u.1.map fun k => (k, n.val, u.2.now) }
      b' = settle (finish (b2.modPart n fun p => { p with image := none, cellMap := [] }) c.id .done))) ∧
  (∀ (b : Block) (n raw : Nat) (s : ImgSec) (k : Nat) (bufs : List (Nat × Nat)),
    let b' := loadCell b n raw s k bufs
    let c := b'.cell k
    c.loaded = true ∧ c.lcell = s.lcell ∧ c.part = n ∧ c.codeCount = s.count ∧ c.codeKib = 16 * s.units ∧ c.waitLimit = ib s.raw 32 4 ∧ c.acc = [] ∧ c.tags = [] ∧ c.ranges = [] ∧
    c.run = none ∧ c.arrq = [] ∧ c.bankq = [] ∧ (∀ t < 8, c.thread t = { accMask := BitVec.ofNat 8 (s.mask t) }) ∧
    (∀ i < 16384 * s.units, 8 * s.count ≤ 16384 * s.units → c.store.byte (c.codeBase + i) = if i < 8 * s.count then BitVec.ofNat 8 (ib raw (s.code + i) 1) else 0) ∧ ∀ j, j ≠ k → b'.cell j = b.cell j) ∧
  (∀ (c : Cell) (a0 a1 num now k : Nat), k < 8 →
    let t := (c.startRun a0 a1 num now).thread k
    if bit c.startMask k = true then t.st = .run ∧ t.pc = mget 0 c.startPc k ∧ (∀ r, r < 32 → t.sr r = BitVec.ofNat 64 (if r = 1 then a0 else if r = 2 then a1 else if r = 3 then num else 0)) ∧
      (∀ i, (t.token i).busy = false) ∧ t.v = (c.thread k).v ∧ t.loop = none
    else t.st = .idle)
/-- R290 to R300, R97, R132, R399, R95: BATCH, the start and the end of a run, CANCEL, a bound that passes, and CLEARING_MODE. -/
def Obligations.Batches : Prop :=
  (∀ (n : Fin 16) (r : Rec) (im : Image) (s : State),
    let t := taken s.blk n r
    let c := cmdAt s.blk n r
    let count := r.u 18 2
    let b1 := modCmd (modCmd t c.id fun c => { c with left := 1, slot := 0 }) c.id fun c => { c with left := 1, at_ := t.now, slot := 1 }
    let q := pvaCheck b1 n .hubRead0 (r.u 24 8) (32 * count)
    let raw := pvaRead q.2 n .hubRead0 (r.u 24 8) 2 (32 * count)
    let bucket := im.buckets.getD (r.u 16 1) (0, 0)
    let c1 : Cmd := { c with left := 1, slot := 0, at_ := t.now }
    Starts1 s.blk n r 0x52 → (t.part n).image = some im →
    ((t.part n).ahead.isSome = true → Answers (.batch n r) s fun b' => b' = settle (modCmd t c.id fun c => { c with left := 1, slot := 0 })) ∧
    ((t.part n).ahead = none → Body r [(16, 4), (24, 28)] → r.u 17 1 = 0 → 1 ≤ count → count ≤ 4096 → r.u 16 1 < im.buckets.length → im.damaged = false → r.u 24 8 % 64 = 0 →
      pvaOk b1 n .hubRead0 (r.u 24 8) (32 * count) = true → q.1 = false → (q.2.part n).image = some im →
      let z := recsRead q.2 n im raw count
      (∀ i st, recsBad z n im bucket.1 raw count 0 [] 0 = some (i, st) → Answers (.batch n r) s fun b' => b' = settle (batchRefuse z c1 6 i i st)) ∧
      (∀ items hs b2, recsBad z n im bucket.1 raw count 0 [] 0 = none → batchPlace z n im r (batchItems z n im bucket.2 raw count) = .ok items →
        admitRecs n im.model c1.attr raw count 0 [] z = (.ok hs, b2) → Answers (.batch n r) s fun b' => Reached b' fun x => ∃ bt, Admitted x n c.id r bt ∧
          bt.items = items.map (fun i => { i with seq := (hs.getD i.sess (0, 0)).2, entry := (hs.getD i.sess (0, 0)).1 }) ∧
          bt.sess.map (·.seq) = (List.range count).map (fun i => (hs.getD i (0, 0)).2)))) ∧
  (∀ (n : Fin 16) (bt : Batch) (im : Image) (s : State), (∀ c ∈ s.blk.fab.colls, c.part ≠ n.val) → (s.blk.part n).running = none → (s.blk.part n).ahead = some bt →
    (s.blk.part n).image = some im →
    (im.damaged = true → Answers (.runStart n) s fun b' => b' = settle (batchPump (finish (s.blk.modPart n fun p =>
      { p with ahead := none, lastStatus := Status.uncorrectable.code }) bt.cmd .uncorrectable bt.num) n)) ∧
    (im.damaged = false → Answers (.runStart n) s fun b' =>
      let b1 := s.blk.each im.attn fun b c => writeList b n im bt c
      let b2 := b1.each (im.cells.map (·.2)) fun b k => b.modCell k fun c => c.startRun bt.arg0 bt.arg1 bt.num b.now
      b' = settle (batchPump (b2.modPart n fun p => { p with ahead := none, running := some { bt with startedAt := b2.now } }) n))) ∧
  (∀ (n : Fin 16) (bt : Batch) (s : State), (s.blk.part n).running = some bt → (∀ k ∈ imageCells s.blk n, (s.blk.cell k).quiet = true) → bt.faultKey = none ∨ bt.status ≠ .uncorrectable →
    Answers (.runEnd n) s fun b' => ∃ x fl, b' = settle (finish x bt.cmd bt.status bt.num fl) ∧ (x.part n).running = none ∧ (x.part n).lastStatus = bt.status.code ∧
      x.mem = s.blk.mem ∧ ∀ k ∈ imageCells s.blk n, (x.cell k).inRun = false ∧ (x.cell k).coal = []) ∧
  (∀ (n : Fin 16) (r : Rec) (s : State), Starts1 s.blk n r 0x04 → Body r [(16, 4)] →
    let t := taken s.blk n r
    let c := cmdAt s.blk n r
    let num := r.u 16 4
    (∀ bt, (t.part n).running = some bt → bt.num = num → Answers (.cmdCancel n r) s fun b' => b' = settle (finish (stopRun (t.modPart n fun p =>
      { p with running := p.running.map fun r => if r.status = .done then { r with status := .cancelled } else r }) n .cancelled) c.id .done 1)) ∧
    (∀ bt, (∀ x, (t.part n).running = some x → x.num ≠ num) → (t.part n).ahead = some bt → bt.num = num → Answers (.cmdCancel n r) s fun b' =>
      b' = settle (batchPump (finish (finish (t.modPart n fun p => { p with ahead := none, lastStatus := Status.cancelled.code }) c.id .done 0) bt.cmd .cancelled bt.num) n)) ∧
    ((∀ x, (t.part n).running = some x → x.num ≠ num) → (∀ x, (t.part n).ahead = some x → x.num ≠ num) → Answers (.cmdCancel n r) s fun b' => b' = settle (finish t c.id .done 0))) ∧
  (∀ (n : Fin 16) (s : State), bounded s.blk n = true →
    let late (c : Cmd) : Bool := c.admitting n 1 && decide (c.at_ + 1000 * admitBound s.blk c < s.blk.now)
    (∀ c, s.blk.hub.cmds.find? late = some c → Answers (.clearingTimeout n) s fun b' =>
      b' = settle (batchPump (finish (clearTimeout s.blk n 0x52 1 0 (admitBound s.blk c)) c.id .timeout) n)) ∧
    (∀ bt, s.blk.hub.cmds.find? late = none → (s.blk.part n).running = none → (s.blk.part n).ahead = some bt → bt.startedAt + 1000 * startBound bt < s.blk.now →
      Answers (.clearingTimeout n) s fun b' => b' = settle (batchPump (finish ((undoAdmit (clearTimeout s.blk n 0x52 0 bt.num (startBound bt)) bt).modPart n fun p =>
        { p with ahead := none, lastStatus := Status.timeout.code }) bt.cmd .timeout bt.num) n))) ∧
  (∀ (p : Path) (n : Fin 16) (mode : Bool) (s : State), Writes (.clearingModeWrite p n mode) s p (0xC7F54000 + 8 * n) (b2n mode) fun b =>
    modeChange (b.modPart n fun p => { p with clearMode := mode }) n (bounded b n) 0)
/-- R334 to R342: updates, waits, thresholds and quotas of tallies. -/
def Obligations.Tallies : Prop :=
  (∀ (n : Fin 16) (h : Fin 4096) (u : TUpd) (s : State), s.blk.hub.tq.find? (fun u => u.part == n.val && u.handle == h.val) = some u →
    let t := s.blk.tally n h
    let v := (if u.set then u.amount else t.val + u.amount) % 2 ^ 32
    let at_ (x : Nat) : Prop := (v + 2 ^ 32 - x % 2 ^ 32) % 2 ^ 32 < 2 ^ 31
    Answers (.tallyUpdate n h) s fun b' => (b'.tally n h).val = v ∧ (b'.tally n h).thresh = t.thresh ∧
      ((b'.tally n h).armed = true ↔ t.armed = true ∧ ¬at_ t.thresh) ∧ b'.hub.tq = s.blk.hub.tq.erase u ∧ b'.cells = s.blk.cells ∧
      (∀ w ∈ b'.hub.watches, w.part = n.val → w.handle = h.val → at_ w.value → w.released = true) ∧
      b'.hub.watches.map (fun w => { w with released := true }) = s.blk.hub.watches.map (fun w => { w with released := true }) ∧
      ∀ m i, m < 16 → i < 4096 → m ≠ n.val ∨ i ≠ h.val → b'.tally m i = s.blk.tally m i) ∧
  (∀ (k : Fin 800) (unit : Fin 11) (w : Watch) (s : State), Quiet s.blk → watchOf s.blk k unit = some w → w.released = true →
    let t := (s.blk.cell k).thread unit
    let told := s.blk.modHub fun h => { h with watches := h.watches.map fun x => if x.cell == w.cell && x.unit == w.unit then { x with told := true } else x }
    (∀ h v r, unit.val < 8 → t.st = .wait → t.wait = .tally h v r → Answers (.tallyWaitRelease k unit) s fun b' =>
      b' = (watchDrop s.blk k unit).modThread k unit fun t => ({ t with st := .run, wait := .none } : Thread).advance) ∧
    (unit.val = 8 ∨ unit.val = 9 → Answers (.tallyWaitRelease k unit) s fun b' => b' = told) ∧
    (unit.val = 10 → Answers (.tallyWaitRelease k unit) s fun b' => b' = settle (attnGo told k))) ∧
  (∀ (n : Fin 16) (r : Rec) (s : State),
    let t := taken s.blk n r
    let c := cmdAt s.blk n r
    let h := r.u 16 2
    h < (t.part n).tallyQuota →
    (Starts1 s.blk n r 0x70 → Body r [(16, 2), (20, 4)] → Answers (.tallySet n r) s fun b' => let y := tallyFlush t n h
      b' = finish (tallyApply y { part := n, handle := h, set := true, amount := r.u 20 4, loc := chipLoc }) c.id .done (y.tally n h).val) ∧
    (Starts1 s.blk n r 0x71 → Body r [(16, 3), (20, 4)] → r.u 18 1 < 2 → Answers (.tallyThresh n r) s fun b' =>
      b' = finish (tallyFire (t.modTally n h fun x => if r.u 18 1 = 1 then { x with armed := true, thresh := r.u 20 4 } else { x with armed := false }) n h) c.id .done)) ∧
  (∀ (p : Path) (n : Fin 16) (v : Word) (s : State),
    let a := 0xC7F5C000 + 8 * n.val
    let q := bits v.toNat 0 13
    let unlocked (b : Block) : Block := if bit v.toNat 13 then b.modPart n fun p => { p with quotaLocked := false } else b
    let sum := ((List.range 16).map fun k => if k = n.val then 0 else (s.blk.part k).tallyQuota).sum
    (requester s.blk p ≠ .platform → Writes (.tallyQuotaWrite p n v) s p a v.toNat unlocked) ∧
    (requester s.blk p = .platform →
      (4096 < q + sum → Writes (.tallyQuotaWrite p n v) s p a v.toNat id) ∧
      (q + sum ≤ 4096 → (s.blk.part n).image.isSome = true → Writes (.tallyQuotaWrite p n v) s p a v.toNat fun b => (unlocked b).modPart n fun p => { p with quotaLocked := true }) ∧
      (q + sum ≤ 4096 → (s.blk.part n).image = none → Writes (.tallyQuotaWrite p n v) s p a v.toNat fun b => tallyZero ((unlocked b).modPart n fun p => { p with tallyQuota := q }) n)))
/-- R343 to R349: deposit windows open, wait for the reuse delay, close, and take or refuse the writes that arrive. -/
def Obligations.Windows : Prop :=
  (∀ (n : Fin 16) (r : Rec) (s : State),
    let t := taken s.blk n r
    let c := cmdAt s.blk n r
    (let sp := r.u 16 1
     let fl := r.u 17 1
     let len := r.u 20 4
     let addr := r.u 24 8
     Starts1 s.blk n r 0x72 → Body r [(16, 22)] → fl < 8 → (bit fl 1 = true → sp = 1 ∧ len % 1024 = 0 ∧ ∃ k o, storePlace t n addr len = some (k, o) ∧ o % 1024 = 0) → len ≠ 0 → len % 64 = 0 → len ≤ 2 ^ 30 → r.u 36 2 < 8192 → r.u 18 2 = 0xFFFF ∨ tallyOk t n (r.u 18 2) = true →
      (sp = 2 ∧ addr % 64 = 0 ∧ addr < 2 ^ 40 ∧ pvaOk t n .hubWrite0 addr len = true) ∨
        (sp = 1 ∧ bits addr 8 23 % 64 = 0 ∧ bit addr 31 = false ∧ addr < 2 ^ 42 ∧ (storePlace t n addr len).isSome = true) →
      winsOpen t n < (t.part n).winQuota → winsHeld t < 2048 → winFree t n ≠ [] →
      (∀ i, winPick (winReady t n) = some i → Answers (.winOpen n r) s fun b' => b' = winOpenAt t c i) ∧
      (winPick (winReady t n) = none → Answers (.winOpen n r) s fun b' => b' = t.modHub fun h => { h with winOpens := h.winOpens ++ [(n.val, c.id)] })) ∧
    (let h := r.u 16 4
     let i := h % 65536
     let w := t.win n i
     let shut := t.modWin n i fun w => { w with gen := (w.gen + 1) % 65536, opened := false, closedAt := some t.now, closing := some c.id }
     Starts1 s.blk n r 0x73 → Body r [(16, 4)] → i < 2048 → w.opened = true → w.gen = h / 65536 →
      (w.flying ≠ 0 → Answers (.winClose n r) s fun b' => b' = shut) ∧
      (w.flying = 0 → Answers (.winClose n r) s fun b' => b' = finish (shut.modWin n i fun w => { w with closing := none }) c.id .done w.arrivals)) ∧
    (∀ x i d, s.blk.hub.winOpens.find? (fun x => x.1 == n.val) = some x → winPick (winReady s.blk n) = some i → cmdOf s.blk x.2 = some d →
      Answers (.winReuseExpiry n) s fun b' => b' = winOpenAt (s.blk.modHub fun h => { h with winOpens := h.winOpens.erase x }) d i)) ∧
  (∀ (b : Block) (c : Cmd) (i : Nat), cmdOf b c.id = some c → c.st = .running → i < 2048 →
    let b' := winOpenAt b c i
    let w := b'.win c.part i
    let r := c.desc
    w.opened = true ∧ w.gen = (b.win c.part i).gen ∧ w.space = r.u 16 1 ∧ w.flags = r.u 17 1 ∧ w.tally = r.u 18 2 ∧ w.len = r.u 20 4 ∧ w.addr = r.u 24 8 ∧ w.expected = r.u 32 4 ∧
    w.srcNode = r.u 36 2 ∧ w.arrivals = 0 ∧ w.flying = 0 ∧ ∃ d, cmdOf b' c.id = some d ∧ d.status = .done ∧ d.result = i + 65536 * w.gen) ∧
  (∀ (x : WinWrite) (rest : List WinWrite) (s : State), s.blk.hub.winq = x :: rest →
    let b := s.blk.modHub fun h => { h with winq := rest }
    let w := b.win x.part x.index
    let cnt := if bit w.flags 0 then x.len / 64 else 1
    let fits : Prop := x.off + x.len ≤ w.len ∧ (w.expected = 0 ∨ w.arrivals + cnt ≤ w.expected)
    let refused (st : Status) (b' : Block) : Prop :=
      b' = answerWin (winCount (b.modWin x.part x.index fun w => { w with refused := satAdd 32 w.refused 1 }) x.part 6) x st
    let does (P : Block → Prop) : Prop := Answers .windowWriteArrival s fun b' => ∃ y, b' = settle y ∧ P y
    ((b.part x.part).winQuota ≤ x.index → does fun b' => b' = answerWin (winCount b x.part 6) x .protection) ∧
    (x.index < (b.part x.part).winQuota →
      (w.opened = true → w.srcNode ≠ 0x1FFF → w.srcNode ≠ x.node → does (refused .protection)) ∧
      (w.opened = false → does fun b' =>
        b' = answerWin (winLate (winCount (b.modWin x.part x.index fun w => { w with late := satAdd 32 w.late 1 }) x.part 5) x) x .windowClosed) ∧
      (w.opened = true → w.srcNode = 0x1FFF ∨ w.srcNode = x.node →
        (w.gen ≠ x.gen → does fun b' =>
          b' = answerWin (winLate (winCount (b.modWin x.part x.index fun w => { w with late := satAdd 32 w.late 1 }) x.part 5) x) x .windowClosed) ∧
        (w.gen = x.gen → w.len < x.off + x.len → does (refused .protection)) ∧
        (w.gen = x.gen → x.off + x.len ≤ w.len → w.expected ≠ 0 → w.expected < w.arrivals + cnt → does (refused .countMismatch)) ∧
        (w.gen = x.gen → fits →
          let takes (b : Block) (claims : List Nat) : Block :=
            (winCount ((setKeys b claims 2).modWin x.part x.index fun w => { w with arrivals := (w.arrivals + cnt) % 2 ^ 32, flying := w.flying + 1 }) x.part 4).modHub
              fun h => { h with winAcc := h.winAcc ++ [{ x with claims := claims }] }
          (bit w.flags 1 = false → does fun b' => b' = takes b []) ∧
          (∀ k gs, bit w.flags 1 = true → winGrans b x.part w x.off x.len = some (k, gs) →
            ((∀ g ∈ gs, (b.cell k).tag g = 0) → does fun b' => b' = takes b (gs.map (8192 * k + ·))) ∧
            ((∃ g ∈ gs, (b.cell k).tag g ≠ 0) → does (refused .remoteNak))))))) ∧
  (∀ (x : WinWrite) (rest : List WinWrite) (s : State), s.blk.hub.winAcc = x :: rest →
    let b := s.blk.modHub fun h => { h with winAcc := rest }
    let w := b.win x.part x.index
    let l := winLand b w x
    let l1 := setKeys l.1 x.claims (if l.2 = .done then 1 else 0)
    let y := if w.tally = 0xFFFF then l1 else tallyNow l1 { part := x.part, handle := w.tally, set := false, amount := if bit w.flags 0 then x.len / 64 else 1, loc := chipLoc }
    let z := answerWin (y.modWin x.part x.index fun w => { w with flying := w.flying - 1 }) x l.2
    let v := z.win x.part x.index
    Answers .windowWriteLanded s fun b' => b' = settle (winClosed (if bit v.flags 2 = true ∧ v.filled = false ∧ (v.opened = true ∨ v.closing.isSome = true) ∧ v.expected ≠ 0 ∧
          v.arrivals = v.expected ∧ v.flying = 0 then
        event (z.modWin x.part x.index fun w => { w with filled := true }) x.part 0x0703 .done 0 chipLoc (detail [(16, 4, x.index + 65536 * x.gen), (20, 4, v.arrivals)])
      else z) x.part x.index)) ∧
  (∀ (b : Block) (w : Win) (x : WinWrite) (m : Nat), w.space = 2 → translate b x.part .tenantWrite (w.addr + x.off) = some m →
    (w.addr + x.off) % 2 ^ 21 + x.len ≤ 2 ^ 21 → 0 < x.len → let l := winLand b w x
    l.2 = .done ∧ l.1.cells = b.cells ∧ ∀ a, l.1.mem.byte a = if m ≤ a ∧ a < m + x.len then BitVec.ofNat 8 (x.data / 256 ^ (a - m)) else b.mem.byte a)

namespace Sys2Proof.Claims
open Sys2Proof.Machine

/-- Only one queue pair and the counters differ. -/
def OnlyQp (b b' : Block) (e i : Nat) : Prop :=
  { b' with rem := b.rem, cnts := b.cnts } = b ∧ b'.rem.remits = b.rem.remits ∧ b'.rem.dests = b.rem.dests ∧ b'.rem.serial = b.rem.serial ∧
  ∀ f j, f ≠ e ∨ j ≠ i → b'.qp f j = b.qp f j
/-- Only one port and the counters differ. -/
def OnlyPort (b b' : Block) (e p : Nat) : Prop :=
  { b' with rem := b.rem, cnts := b.cnts } = b ∧ b'.rem.remits = b.rem.remits ∧ (∀ f j, b'.qp f j = b.qp f j) ∧
  ∀ f j, f ≠ e ∨ j ≠ p → b'.port f j = b.port f j
/-- A frame from address `ip` on port `p` is for a queue pair that is in use and set up for both (R329). -/
def FromPeer (b : Block) (e p i : Nat) (ip : Nat) : Prop := (b.port e p).up = true ∧ (b.qp e i).st ≠ 0 ∧ (b.qp e i).port = p ∧ ip = (b.qp e i).desc.u 0 16
/-- No remittance of queue pair `i` of E-die `e` is left. -/
def NoRemits (b : Block) (e i : Nat) : Prop := ∀ y ∈ b.rem.remits, y.edie ≠ e ∨ y.qp ≠ some i
/-- The words of a page that a remittance ships: the whole frame, or `c` positions of each head's K and V. -/
def shipped (b : Block) (r : Remit) : List (Nat × Nat) :=
  let m := b.model r.part r.model
  if r.c = 16 then [(0, m.pageBytes)] else (List.range (2 * m.kvHeads)).map fun k => (k * (16 * m.headDim), r.c * m.headDim)

end Sys2Proof.Claims

/-- R305 to R309, R312, R331, R332: QP_SETUP, QP_RESET, DEST_SET, DEST_CLEAR, RESEND, and the hand-off of a page. -/
def Obligations.RemittanceCommands : Prop :=
  (∀ (n : Fin 16) (r : Rec) (s : State),
    let t := taken s.blk n r
    let c := cmdAt s.blk n r
    (let e := r.u 16 1
     let p := r.u 17 1
     let d : Rec := BitVec.ofNat 512 (pvaRead t n .hubRead0 (r.u 24 8) 2 64)
     ∀ i, Starts1 s.blk n r 0x60 → Body r [(16, 2), (24, 8)] → e < 4 → p < 2 → (p = 1 → bit (portMode t e) 0 = true) → r.u 24 8 % 64 = 0 →
      pvaOk t n .hubRead0 (r.u 24 8) 64 = true → d.u 40 8 % 32 = 0 → qpDescOk d = true → qpCount t e n < qpQuota t n → freeQp t e = some i →
      (pvaBad t n .hubRead0 (r.u 24 8) 64 = true → Answers (.qpSetup n r) s fun b' => b' = finish t c.id .uncorrectable) ∧
      (pvaBad t n .hubRead0 (r.u 24 8) 64 = false → Answers (.qpSetup n r) s fun b' => ∃ x, b' = finish x c.id .done (e * 4096 + i) ∧ OnlyQp t x e i ∧
        (x.qp e i).st = 1 ∧ (x.qp e i).part = n ∧ (x.qp e i).port = p ∧ (x.qp e i).desc = d ∧ (x.qp e i).nextPsn = d.u 28 3 ∧ (x.qp e i).pkts = [] ∧
        (x.qp e i).rate = (if d.u 56 4 = 0 then lineRate t e else d.u 56 4))) ∧
    (let e := r.u 16 3 / 4096
     let i := r.u 16 3 % 4096
     Starts1 s.blk n r 0x61 → Body r [(16, 3)] → r.u 16 3 < 16384 → (t.qp e i).st ≠ 0 → (t.qp e i).part = n → Answers (.qpReset n r) s fun b' =>
      ∃ x, b' = finish x c.id .done ∧ x.qp e i = {} ∧ NoRemits x e i ∧ x.cells = t.cells ∧ ∀ f j, f ≠ e ∨ j ≠ i → x.qp f j = t.qp f j) ∧
    (let d : Rec := BitVec.ofNat 512 (pvaRead t n .hubRead0 (r.u 24 8) 2 64)
     let q := destTable t n
     ∀ i g, Starts1 s.blk n r 0x62 → Body r [(24, 8)] → r.u 24 8 % 64 = 0 → pvaOk t n .hubRead0 (r.u 24 8) 64 = true → pvaBad t n .hubRead0 (r.u 24 8) 64 = false →
      d.u 16 8 % 64 = 0 → d.u 24 4 % 64 = 0 → destDescOk t n d = true → i < q.2 → mget (0, false) t.rem.dests (destKey n i) = (g, false) → (∀ j < i, (mget (0, false) t.rem.dests (destKey n j)).2 = true) →
      Answers (.destSet n r) s fun b' => ∃ x, b' = finish x c.id .done (g * 65536 + i) ∧ destOf x n (g * 65536 + i) = some d ∧
        (∀ a, x.mem.byte a = if q.1 + 64 * i ≤ a ∧ a < q.1 + 64 * i + 64 then BitVec.ofNat 8 (d.toNat / 256 ^ (a - (q.1 + 64 * i))) else t.mem.byte a) ∧
        (∀ k, k ≠ destKey n i → mget (0, false) x.rem.dests k = mget (0, false) t.rem.dests k) ∧ x.cells = t.cells ∧ x.rem.remits = t.rem.remits) ∧
    (let h := r.u 16 4
     let used : Prop := ∃ y ∈ t.rem.remits, y.part = n ∧ y.dest = h
     Starts1 s.blk n r 0x63 → Body r [(16, 4)] → destOf t n h ≠ none → (∀ y ∈ t.rem.clears, ∃ z ∈ t.rem.remits, z.part = y.2.1 ∧ z.dest = y.2.2) →
      Answers (.destClear n r) s fun b' => ∃ x, (used → b' = x) ∧ (¬used → ∃ y, b' = finish y c.id .done ∧ y.rem = x.rem) ∧ destOf x n h = none ∧
        mget (0, false) x.rem.dests (destKey n (h % 65536)) = ((h / 65536 + 1) % 65536, false) ∧ x.mem = t.mem ∧ x.cells = t.cells ∧ x.rem.remits = t.rem.remits) ∧
    (let h := r.u 16 4
     let x := h % 65536
     let e := t.entry x
     let nd := r.u 20 4
     let l0 := r.u 26 2
     let ln := r.u 28 2
     let p0 := r.u 32 4
     let pn := r.u 36 4
     let dest := if r.u 24 1 = 1 then nd else e.dest
     let held (l p : Nat) : Option (Nat × Nat × Nat × Nat) :=
       let lf := mget {} e.leafs (leafKey l p)
       if lf.st = 1 ∧ 1 ≤ (t.frame n e.model lf.frame).last then some (l, p, lf.frame, (t.frame n e.model lf.frame).last) else none
     let pages := (List.range ln).flatMap fun i => (List.range pn).filterMap fun j => held (l0 + i) (p0 + j)
     Starts1 s.blk n r 0x64 → Body r [(16, 9), (26, 4), (32, 8)] → seqCheck t n h = none → r.u 24 1 < 2 → l0 + ln ≤ (t.model n e.model).layers →
      p0 + pn ≤ cdiv e.reserved 16 → (r.u 24 1 = 1 → nd = 0xFFFFFFFF ∨ destOf t n nd ≠ none) → e.st = 1 →
      let k := if dest = 0xFFFFFFFF then 0 else pages.length
      let y := (modCmd (t.modEntry x fun e => { e with dest := dest }) c.id fun c => { c with left := k, result := k }).each pages fun b p =>
        handOff b n h dest p.1 p.2.1 e.model p.2.2.1 p.2.2.2 c.attr true (some c.id)
      Answers (.resend n r) s fun b' => b' = if k = 0 then finish y c.id .done else y)) ∧
  (∀ (b : Block) (n seq dest layer page m f c attr : Nat) (again : Bool) (cmd : Option Nat),
    let b' := handOff b n seq dest layer page m f c attr again cmd
    b'.rem.serial = (b.rem.serial + 1) % 2 ^ 64 ∧ b'.cells = b.cells ∧ b'.mem = b.mem ∧
    (dest = 0xFFFFFFFF → b'.rem.remits = b.rem.remits ∧ b'.parts = b.parts) ∧
    (dest ≠ 0xFFFFFFFF → ∃ r, b'.rem.remits = b.rem.remits ++ [r] ∧ r.part = n ∧ r.seq = seq ∧ r.dest = dest ∧ r.layer = layer ∧ r.page = page ∧ r.model = m ∧ r.frame = f ∧
      r.c = c ∧ r.serial = b.rem.serial ∧ r.time = b.mtime ∧ r.edie = frameEdie b n m f ∧ r.resend = again ∧ r.cmd = cmd ∧ r.checked = false ∧ r.read = false ∧
      (b'.ed r.edie).q = (b.ed r.edie).q ++ [r.id] ∧ (b'.frame n m f).remit = (b.frame n m f).remit + 1))
/-- R311, R313 to R315, R318, R320: a remittance from its engine's queue to packets on the wire. -/
def Obligations.RemittanceWork : Prop :=
  (∀ (e : Fin 4) (r : Remit) (s : State), let b := s.blk
    remitHead b e = some r →
    (r.checked = false →
      (∀ st, remitCheck b r = .error st → Answers (.remitRequest e) s fun b' => ∃ x, b' = remitFail x r st ∧ x.rem.remits = b.rem.remits ∧ SameBytes b x) ∧
      (∀ d i, remitCheck b r = .ok (d, i) → Answers (.remitRequest e) s fun b' => SameBytes b b' ∧ (∀ f j, b'.qp f j = b.qp f j) ∧
        ∃ r' : Remit → Remit, b'.rem.remits = b.rem.remits.map (fun y => if y.id = r.id then r' y else y) ∧
          ∀ y, r' y = { y with checked := true, qp := some i, descr := d, bytes := remitData b r, fast := (r' y).fast })) ∧
    (∀ i, r.checked = true → r.qp = some i → r.read = false → r.bytes = remitData b r → (b.ed e).used + r.bytes ≤ egressBytes →
      let base := frameMpa b r.part r.model r.frame
      let q := b.qp e i
      let chk := memChecks b r.part ((shipped b r).map fun x => (base + x.1, x.2))
      (chk.1 = true ↔ ∃ x ∈ shipped b r, memBad b (base + x.1) x.2 = true) ∧
      (chk.1 = true → Answers (.remitFrameRead e) s fun b' => b' = remitFail chk.2 r .uncorrectable) ∧
      (chk.1 = false → Answers (.remitFrameRead e) s fun b' => SameBytes chk.2 b' ∧
        (b'.ed e).used = (b.ed e).used + r.bytes ∧ (b'.ed e).q = (b.ed e).q.filter (· != r.id) ∧
        (∀ y ∈ b'.rem.remits, y.id = r.id → y.read = true ∧ y.held = r.bytes ∧ y.left = (b'.qp e i).pkts.length - q.pkts.length) ∧
        ∃ all, (b'.qp e i).pkts = q.pkts ++ all ∧ (b'.qp e i).nextPsn = (q.nextPsn + all.length) % 2 ^ 24 ∧
          (all.map (·.len)).sum = r.bytes + (if bit (r.descr.u 37 1) 0 = true then 32 else 0) ∧ (∀ k ∈ all, k.remit = r.id ∧ k.sent = none ∧ k.len ≤ max 32 (pmtu q.desc)) ∧
          ∀ j k, all[j]? = some k → k.psn = (q.nextPsn + j) % 2 ^ 24))) ∧
  (∀ (mtu va rkey len data id psn : Nat) (first : Bool) (i : Nat), let n := max 1 (cdiv len mtu)
    i < n → let l := min mtu (len - i * mtu)
    ∃ k, (writePkts mtu va rkey len data id psn first)[i]? = some k ∧ k.len = l ∧ k.data = data / 2 ^ (8 * i * mtu) % 2 ^ (8 * l) ∧ k.dmaLen = len ∧ k.rkey = rkey ∧ k.va = va ∧
      k.op = (if n = 1 then 0x0A else if i = 0 then 0x06 else if i = n - 1 then 0x08 else 0x07) ∧ (k.ackReq = true ↔ i = n - 1)) ∧
  (∀ (e : Fin 4) (p : Fin 2) (s : State), let b := s.blk
    (portReady b e p = false → Answers (.packetTransmit e p) s fun b' => b' = b) ∧
    (∀ i k, portReady b e p = true → qpPick b e p = some i → (b.qp e i).pkts[(b.qp e i).done]? = some k → let q := b.qp e i
      let fr := frameOf b e q k
      k.op < 256 → Answers (.packetTransmit e p) s fun b' => SameBytes b b' ∧ (∃ x, b'.sent = b.sent ++ [.eth e p (fr.length, x)] ∧ ∀ j, j < fr.length → x / 256 ^ j % 256 = fr.getD j 0 % 256) ∧
        (b'.qp e i).done = q.done + 1 ∧ (b'.qp e i).pkts = q.pkts.set q.done { k with sent := some b.now } ∧ (b'.qp e i).freeAt = b.now + (fr.length + 20) * 8000 / max 1 q.rate ∧
        (b'.port e p).rr = i ∧ (b'.port e p).busyTill = b.now + (fr.length + 20) * 8000 / lineRate b e ∧ ∀ f j, f ≠ e.val ∨ j ≠ i → b'.qp f j = b.qp f j))
/-- R321 to R325: the Acknowledges and the timers of a queue pair, its rate, and its entry into ERROR. -/
def Obligations.RemittanceAnswers : Prop :=
  (∀ (e : Fin 4) (p : Fin 2) (i : Fin 4096) (psn : BitVec 24) (syn : BitVec 8) (ip : BitVec 128) (j : Nat) (s : State), let b := s.blk
    let q := b.qp e i
    let kind := syn.toNat / 32
    let code := syn.toNat % 32
    let full := bits (q.desc.u 35 1) 5 3
    let does (P : Block → Prop) : Prop := Answers (.acknowledge e p i psn syn ip) s P
    let fails (st : Status) (k : Nat) (b' : Block) : Prop := ∃ x, b' = qpError x e i st syn.toNat psn.toNat ∧ (x.qp e i).pkts = q.pkts.drop k ∧ (x.qp e i).st = 1
    (¬FromPeer b e p i ip.toNat → does fun b' => OnlyPort b b' e p) ∧
    (FromPeer b e p i ip.toNat → q.st = 1 → q.outstanding.findIdx? (fun k => k.psn == psn.toNat) = some j →
      (kind = 0 → does fun b' => (b'.qp e i).pkts = q.pkts.drop (j + 1) ∧ (b'.qp e i).retries = full ∧ (b'.qp e i).rnr = q.desc.u 36 1 ∧ (b'.qp e i).st = 1 ∧ SameBytes b b') ∧
      (kind = 1 → q.rnr ≠ 0 → does fun b' => (b'.qp e i).pkts = q.pkts.drop j ∧ (b'.qp e i).done = 0 ∧ (b'.qp e i).ackAt = b.now ∧ (b'.qp e i).rnr = (if q.rnr = 7 then 7 else q.rnr - 1) ∧
        (b'.qp e i).rnrAt = some (b.now + 10000 * rnrUnits.getD code 0)) ∧
      (kind = 1 → q.rnr = 0 → does (fails .remoteNak j)) ∧
      (kind = 3 → code = 0 → q.retries ≠ 0 → does fun b' => (b'.qp e i).pkts = q.pkts.drop j ∧ (b'.qp e i).done = 0 ∧ (b'.qp e i).retries = q.retries - 1) ∧
      (kind = 3 → code = 0 → q.retries = 0 → does (fails .timeout j)) ∧
      (kind = 2 ∨ 3 < kind ∨ (kind = 3 ∧ code ≠ 0) → does (fails .remoteNak 0)))) ∧
  (∀ (e : Fin 4) (i : Fin 4096) (s : State), let b := s.blk
    let q := b.qp e i
    (∀ t, q.rnrAt = some t → t ≤ b.now → Answers (.rnrTimer e i) s fun b' => OnlyQp b b' e i ∧ b'.qp e i = { q with rnrAt := none, ackAt := b.now }) ∧
    (∀ k, q.outstanding.head? = some k → q.st = 1 → q.rnrAt = none → (b.port e q.port).up = true → max (k.sent.getD 0) q.ackAt + 4096 * 2 ^ (q.desc.u 35 1 % 32) ≤ b.now →
      (q.retries ≠ 0 → Answers (.ackTimeout e i) s fun b' => OnlyQp b b' e i ∧ b'.qp e i = { q with done := 0, ackAt := b.now, retries := q.retries - 1 }) ∧
      (q.retries = 0 → Answers (.ackTimeout e i) s fun b' => ∃ x, b' = qpError x e i .timeout 0 k.psn ∧ x.rem = b.rem)) ∧
    (q.st ≠ 0 → q.rateAt + 50000 ≤ b.now → Answers (.rateRecovery e i) s fun b' => OnlyQp b b' e i ∧
      b'.qp e i = { q with rate := min (rateCap b e q) (q.rate + rateCap b e q / 8), rateAt := b.now }) ∧
    (∀ (p : Fin 2) (ip : BitVec 128), FromPeer b e p i ip.toNat →
      ((∀ t, q.cnpAt = some t → t + 50000 ≤ b.now) → Answers (.congestionNotification e p i ip) s fun b' => OnlyQp b b' e i ∧
        b'.qp e i = { q with rate := min q.rate (max 1000 (q.rate / 2)), cnpAt := some b.now, rateAt := b.now }) ∧
      (∀ t, q.cnpAt = some t → b.now < t + 50000 → Answers (.congestionNotification e p i ip) s fun b' => { b' with cnts := b.cnts } = b))) ∧
  (∀ (b : Block) (e i : Nat) (st : Status) (syn psn : Nat), (b.qp e i).st = 1 → let b' := qpError b e i st syn psn
    (b'.qp e i).st = 2 ∧ (b'.qp e i).err = st.code ∧ (b'.qp e i).pkts = [] ∧ (b'.qp e i).done = 0 ∧ NoRemits b' e i ∧ ∀ f j, f ≠ e ∨ j ≠ i → b'.qp f j = b.qp f j) ∧
  (∀ (b : Block) (r : Remit) (st : Status) (quiet : Bool), let b' := remitFail b r st quiet
    b'.rem.remits = b.rem.remits.filter (fun y => y.id != r.id) ∧ b'.cells = b.cells ∧ b'.regs = b.regs ∧ ∀ f j, (b'.qp f j).st = (b.qp f j).st)
/-- R303, R304, R323, R326, R329, R330: the Ethernet ports: frames, pauses, violations, the link's loss, hold and return, and PORT_MODE. -/
def Obligations.EthernetPorts : Prop :=
  (∀ (e : Fin 4) (p : Fin 2) (s : State), let b := s.blk
    let x := b.port e p
    (∀ fr : Bytes, x.up = true →
      (∀ j, rxClass b e p fr = some j → Answers (.rxFrame e p fr) s fun b' => OnlyPort b b' e p ∧ b'.port e p = { x with viol := (b'.port e p).viol } ∧
        (∀ k, mget 0 (b'.port e p).viol k = mget 0 x.viol k + if k = j then 1 else 0) ∧ b'.cnt (remBase e + 0x840 + 8 * j) = (b.cnt (remBase e + 0x840 + 8 * j) + 1) % 2 ^ 64) ∧
      (rxClass b e p fr = none → Answers (.rxFrame e p fr) s fun b' => b' = b)) ∧
    (∀ (cls : Fin 8) (ns : Nat), x.up = true →
      (bits (portMode b e) 3 3 = cls → Answers (.priorityPause e p cls ns) s fun b' => OnlyPort b b' e p ∧ b'.cnts = b.cnts ∧
        b'.port e p = { x with pauseAt := if ns = 0 then none else some (b.now + ns) }) ∧
      (bits (portMode b e) 3 3 ≠ cls → Answers (.priorityPause e p cls ns) s fun b' => b' = b)) ∧
    (∀ t, x.pauseAt = some t → t ≤ b.now → Answers (.pauseExpiry e p) s fun b' => OnlyPort b b' e p ∧ b'.port e p = { x with pauseAt := none }) ∧
    (let d := fun j => min 65535 (mget 0 x.viol j - mget 0 x.violSeen j)
     (∃ j < 7, d j ≠ 0) → (∀ t, x.violAt = some t → t + 10000000 ≤ b.now) → Answers (.peerViolation e p) s fun b' => ∃ y,
      b' = eventPlat y 0 0x0604 .done 0 (regionLoc (20 + e)) (detail ((16, 1, p.val) :: (List.range 7).map fun j => (18 + 2 * j, 2, d j))) ∧
      OnlyPort b y e p ∧ y.port e p = { x with violSeen := x.viol, violAt := some b.now }) ∧
    (∀ iface : Fin 3, portOn b e p = true → x.up = false → (b.dom (20 + e) 3).locked = true → (b.dom (20 + e) 3).stopped = false → (b.dom (20 + e) 3).inReset = false →
      Answers (.portLinkUp e p iface) s fun b' => (b'.port e p).up = true ∧ (b'.port e p).iface = (match b.pins.iface with | 1 => 1 | 2 => 2 | 3 => 0 | _ => iface.val % 2) ∧ (b'.port e p).since = b.now ∧ (b'.port e p).lostAt = none ∧
        (∀ i, (b.qp e i).st = 1 → (b.qp e i).port = p → b'.qp e i = { b.qp e i with done := 0, ackAt := b.now }) ∧ b'.rem.remits = b.rem.remits ∧ b'.cells = b.cells) ∧
    (x.up = true → Answers (.portLinkDown e p) s fun b' => ∃ y, b' = eventPlat y 0 0x0603 .linkDown 0 (regionLoc (20 + e)) (detail [(16, 1, p), (17, 1, 0), (18, 4, 0)]) ∧
      OnlyPort b y e p ∧ y.port e p = { x with up := false, since := b.now, lostAt := some b.now, pauseAt := none }) ∧
    (∀ t, x.lostAt = some t → t + 1000000 * holdMs b e ≤ b.now → Answers (.portHoldExpiry e p) s fun b' => (b'.port e p).lostAt = none ∧ b'.cells = b.cells ∧
      ∀ i, (b.qp e i).st = 1 → (b.qp e i).port = p → (b'.qp e i).st = 2 ∧ (b'.qp e i).err = Status.linkDown.code ∧ NoRemits b' e i)) ∧
  (∀ (p : Path) (e : Fin 4) (v : Word) (s : State), Writes (.portModeWrite p e v) s p (remBase e) v.toNat fun b => writePortMode b e v.toNat) ∧
  (∀ (b : Block) (e : Fin 4) (v : Nat), let old := portMode b e
    let b' := writePortMode b e v
    (bit v 0 ≠ bit old 0 → bits old 1 2 ≠ 0 → portMode b' e = old % 64 + 64 ∧ ∀ p, b'.port e p = b.port e p) ∧
    (bit v 0 = bit old 0 ∨ bits old 1 2 = 0 → portMode b' e % 64 = v % 64 ∧ (bit (portMode b' e) 6 = true ↔ bit old 6 = true ∧ bit v 6 = false) ∧
      ∀ p < 2, (bit old (1 + p) = true → bit v (1 + p) = false → (b.port e p).up = true → (b'.port e p).up = false ∧ (b'.port e p).lostAt = some b.now) ∧
        (bit old (1 + p) = false → bit v (1 + p) = true → b'.port e p = { b.port e p with since := b.now }) ∧ (bit old (1 + p) = bit v (1 + p) → b'.port e p = b.port e p)))

namespace Sys2Proof.Claims
open Sys2Proof.Machine

/-- Port `p` has entered a state now; the other ports, the connections and every cell are as they were (R354). -/
def Moves (b b' : Block) (p st : Nat) : Prop :=
  (b'.link p).st = st ∧ (b'.link p).since = b.now ∧ (∀ q, q ≠ p → b'.link q = b.link q) ∧ b'.fab.conns = b.fab.conns ∧ b'.cells = b.cells ∧ b'.now = b.now
/-- A port keeps what it holds for its peer through a recovery. -/
def KeepsFlits (b b' : Block) (p : Nat) : Prop :=
  (b'.link p).replay = (b.link p).replay ∧ (b'.link p).q = (b.link p).q ∧ (b'.link p).credits = (b.link p).credits ∧ (b'.link p).rx = (b.link p).rx ∧
  (b'.link p).txSeq = (b.link p).txSeq ∧ (b'.link p).rxSeq = (b.link p).rxSeq
/-- A port has lost its replay buffer, its queued packets, its credits and its receive buffers. -/
def Emptied (b' : Block) (p : Nat) : Prop :=
  (b'.link p).replay = [] ∧ (b'.link p).q = [] ∧ (b'.link p).credits = [] ∧ (b'.link p).rx = [] ∧ (b'.link p).rxUsed = [] ∧ (b'.link p).rxBuf = (0, 0) ∧
  (b'.link p).txSeq = 0 ∧ (b'.link p).rxSeq = 0
/-- The port's link hears its peer: it is UP and its clock domain is neither stopped nor in reset. -/
def Hears (b : Block) (p : Nat) : Prop := (b.link p).st = 2 ∧ domHeld b (20 + p / 6) 4 = false
/-- Nothing has reached an engine of this module. -/
def NotDelivered (b b' : Block) : Prop := b'.fab.inbox = b.fab.inbox ∧ b'.hub.winq = b.hub.winq ∧ b'.fab.localq = b.fab.localq ∧ b'.cells = b.cells

end Sys2Proof.Claims

/-- R353, R354, R357, R359, R459: the states of a port: what moves it, what it keeps in recovery and loses when it goes down. -/
def Obligations.FabricLinks : Prop :=
  (∀ (p : Fin 24) (s : State), let b := s.blk
    let l := b.link p
    let held := domHeld b (20 + p.val / 6) 4
    (l.st = 1 → l.identFault = false → l.since + 50000000 ≤ b.now → Answers (.linkTrainTimeout p) s fun b' => Moves b b' p 1) ∧
    (l.st = 2 → l.goodAt + 10000 ≤ b.now → Answers (.linkSilence p) s fun b' => Moves b b' p 3 ∧ KeepsFlits b b' p ∧ (timeParent b = some p → b'.clk.aligned = false)) ∧
    (l.st = 3 → l.since + 1000000 ≤ b.now → Answers (.recoverTimeout p) s fun b' => Moves b b' p 4 ∧ Emptied b' p) ∧
    (l.st = 4 → l.since + 100000 ≤ b.now → held = false → Answers (.downRetrain p) s fun b' => Moves b b' p 1) ∧
    (∀ (node : Fin 8192) (port : Fin 24), held = false →
      (l.st = 1 → nodeValid b = true → node.val = nodeId b → Answers (.retrainDone p node port) s fun b' => (b'.link p).st = 1 ∧ (b'.link p).identFault = true ∧
        (b'.link p).peerNode = node ∧ b'.cells = b.cells) ∧
      (l.st = 1 → nodeValid b = false ∨ node.val ≠ nodeId b → Answers (.retrainDone p node port) s fun b' => ∃ x, b' = pumpLink x p ∧ Moves b x p 2 ∧ KeepsFlits b x p ∧
        (x.link p).peerNode = node ∧ (x.link p).peerPort = port ∧ (x.link p).identFault = false) ∧
      (l.st = 3 → Answers (.retrainDone p node port) s fun b' => ∃ x pre, b' = pumpLink x p ∧ Moves b x p 2 ∧ (x.link p).q = l.q ∧
        (x.link p).replay = l.replay.map (fun f => { f with sends := 1 }) ∧ x.sent = pre ++ l.replay.map fun f => Msg.snd p 1 (272, flitWire f.bytes)))) ∧
  (∀ (a : Path) (p : Fin 24) (s : State),
    (∀ en : Bool, Writes (.linkEnable a p en) s a (linkCtrlAddr p) (b2n en) fun b => linkCtrl b p (b2n en)) ∧
    Writes (.linkRetrain a p) s a (linkCtrlAddr p) 3 fun b => linkCtrl b p 3) ∧
  (∀ (b : Block) (p : Fin 24) (v : Nat), let was := bit (b.reg (linkCtrlAddr p)) 0
    let b' := linkCtrl b p v
    bit (b'.reg (linkCtrlAddr p)) 0 = bit v 0 ∧
    (bit v 0 = false → was = true → Moves b b' p 0 ∧ Emptied b' p) ∧
    (bit v 0 = true → was = false ∨ bit v 1 = true → Moves b b' p 1 ∧ Emptied b' p ∧ (b'.link p).identFault = false) ∧
    (bit v 0 = was → bit v 1 = false → b'.fab = b.fab))
/-- R355 to R359, R361, R362, R364 to R366, R386: flits and packets received, answers, the end-to-end timeout and the reopening of
a connection; a packet of a connection is delivered once, in order. -/
def Obligations.FabricPackets : Prop :=
  (∀ (p : Fin 24) (w : BitVec 2176) (s : State), let b := s.blk
    let does (P : Block → Prop) : Prop := Answers (.flitReceive ⟨p.val, by omega⟩ w) s P
    Hears b p →
    (wireFlit w.toNat = none → does fun b' => b' = nakFlit (portCount b p 3) p) ∧
    (∀ f fixes, wireFlit w.toNat = some (f, fixes) →
      let y := portCount b p 2 fixes
      let good : Prop := crc64 248 (f % 2 ^ 1984) = bits f 1984 64
      let first := bits f 41 5
      let z := y.modLink p fun l => { (l.acked (bits f 16 12)) with goodAt := b.now, credits := mmod 0 l.credits (bits f 28 3) fun n => n - bits f 31 10 }
      (¬good → does fun b' => b' = nakFlit (portCount y p 3) p) ∧
      (good → 4 < bits f 0 4 ∨ (14 < first ∧ first ≠ 31) → does fun b' => b' = nakFlit (portCount (fabCount y (p.val / 6) 1) p 3) p) ∧
      (good → first ≤ 14 ∨ first = 31 →
        (bits f 0 4 = 1 → bits f 4 12 = (z.link p).rxSeq → does fun b' => b' = pumpLink (sendCtl (rxSlots p first (List.range 15) (bits f 64 1920)
          (portCount (z.modLink p fun l => { l with rxSeq := (l.rxSeq + 1) % 4096 }) p 1)) p 0 0 0 0) p) ∧
        (bits f 0 4 = 1 → bits f 4 12 ≠ (z.link p).rxSeq → does fun b' => b' = pumpLink z p) ∧
        (bits f 0 4 = 2 → does fun b' => b' = pumpLink (rxNak z p) p) ∧
        (bits f 0 4 = 4 → does fun b' => b' = pumpLink (z.modClk fun c => { c with timeRx := mset (0, 0, 0) c.timeRx p (bits f 64 1920, b.mtime, 1) }) p) ∧
        (bits f 0 4 = 0 ∨ bits f 0 4 = 3 → does fun b' => b' = pumpLink z p)))) ∧
  (∀ (b : Block) (p : Nat), let l := b.link p
    ((∃ f ∈ l.replay, 9 ≤ f.sends) → Moves b (rxNak b p) p 3 ∧ KeepsFlits b (rxNak b p) p) ∧
    ((∀ f ∈ l.replay, f.sends < 9) → ((rxNak b p).link p).replay = l.replay.map (fun f => { f with sends := f.sends + 1 }) ∧
      (rxNak b p).sent = b.sent ++ l.replay.map fun f => Msg.snd p 1 (272, flitWire f.bytes))) ∧
  (∀ (p : Fin 24) (k : Pkt) (rest : List Pkt) (s : State), let b := s.blk
    let vc := 2 * k.cls + k.v
    let z := giveCredits (b.modLink p fun l => { l with rx := rest, rxUsed := mmod 0 l.rxUsed vc fun n => n - k.credits }) p vc k.credits
    let e := p.val / 6
    let mine : Prop := k.dst = nodeId b
    let conn : Prop := k.typ ≠ 2 ∧ k.typ ≠ 9
    let does (P : Block → Prop) : Prop := Answers (.packetReceive p) s P
    let old : Prop := 1000000 * lifetimeMs b < k.age b
    (b.link p).rx = k :: rest →
    (nodeValid b = false → does fun b' => b' = settle z) ∧
    (nodeValid b = true → k.ok = false → mine → conn → does fun b' => b' = settle (connAccept (fabCount z e 2) k true)) ∧
    (nodeValid b = true → k.ok = false → ¬mine ∨ ¬conn → does fun b' => b' = settle (fabCount z e 2)) ∧
    (nodeValid b = true → k.ok = true →
      (old ∨ (¬mine ∧ k.hops = 0) → does fun b' => b' = settle (fabCount z e 3)) ∧
      (¬old → mine → conn → does fun b' => b' = settle (connAccept z k false)) ∧
      (¬old → mine → ¬conn → does fun b' => b' = settle (deliver z k none)) ∧
      (¬old → ¬mine → k.hops ≠ 0 →
        (∀ y, routeSend z e (k.set 56 8 (k.hops - 1)) = some y → does fun b' => b' = settle (fabCount y e 7)) ∧
        (routeSend z e (k.set 56 8 (k.hops - 1)) = none → does fun b' => b' = settle (fabCount z e 4))))) ∧
  (∀ (b : Block) (p vc n : Nat), let b' := giveCredits b p vc n
    ((b.link p).st ≠ 2 → b'.sent = b.sent ∧ mget 0 (b'.link p).owed vc = mget 0 (b.link p).owed vc + n) ∧
    ((b.link p).st = 2 → n ≤ 1023 → b' = sendCtl b p 0 vc n 0)) ∧
  (∀ (b : Block) (k : Pkt), let b' := connAccept b k false
    let r := mget {} b.fab.rconns k.src
    let now' := mget {} b'.fab.rconns k.src
    (r.epoch = k.epoch → k.cseq = r.expect → now'.expect = (r.expect + 1) % 2 ^ 24 ∧ now'.epoch = r.epoch ∧
      (k.typ ≠ 1 → b'.fab.inbox = b.fab.inbox ++ [{ pkt := k, conn := some k.cseq }] ∧ b'.hub.winq = b.hub.winq) ∧
      (k.typ = 1 → b'.fab.inbox = b.fab.inbox ∧ ∃ x, b'.hub.winq = b.hub.winq ++ [x] ∧ x.part = k.dpart ∧ x.index = k.u 16 2 ∧ x.gen = k.u 18 2 ∧ x.off = k.u 20 4 ∧
        x.len = k.len ∧ x.data = k.data ∧ x.node = k.src)) ∧
    (r.epoch = k.epoch → k.cseq ≠ r.expect → NotDelivered b b' ∧ now' = r) ∧
    (r.epoch ≠ k.epoch → k.cseq ≠ 0 → NotDelivered b b' ∧ now' = r)) ∧
  (∀ (x : Inbox) (i : Nat) (s : State), s.blk.fab.inbox.find? (fun x => x.pkt.typ == 2) = some x →
    let b := s.blk.modFab fun f => { f with inbox := f.inbox.erase x }
    let k := x.pkt
    let c := b.conn k.src
    c.out.findIdx? (fun o => o.cseq == k.u 16 3) = some i →
    let y := b.modConn k.src fun c => { c with timeouts := 0 }
    let cum := bit (k.u 20 1) 0
    let z := (y.modConn k.src fun c => { c with out := if cum = true then c.out.drop (i + 1) else c.out.eraseIdx i }).each (if cum = true then c.out.take (i + 1) else (c.out.drop i).take 1)
      fun b o => answerLocal b o.from_ (if o.cseq = k.u 16 3 then .ofCode (k.u 19 1) else .done) o.pkt
    (bit (k.u 20 1) 1 = true → Answers .answer s fun b' => b' = settled (connResend y k.src i)) ∧
    (bit (k.u 20 1) 1 = false → Answers .answer s fun b' => b' = settled (connPump k.src ((z.conn k.src).wait.length) z))) ∧
  (∀ (d : Fin 8192) (s : State), let b := s.blk
    let c := b.conn d
    (∀ x, c.out.head? = some x → x.at_ + 1000 * e2eUs b ≤ b.now →
      (e2eRetries b ≤ c.timeouts + 1 → Answers (.e2eTimeout d) s fun b' => b' = settled (connBreak b d)) ∧
      (c.timeouts + 1 < e2eRetries b → Answers (.e2eTimeout d) s fun b' => b' = settled (connResend (b.modConn d fun c => { c with timeouts := c.timeouts + 1 }) d 0))) ∧
    (∀ t, c.broken = some t → t + 1000000 * lifetimeMs b ≤ b.now → Answers (.connectionReopen d) s fun b' =>
      b'.conn d = { c with broken := none, epoch := (c.epoch + 1) % 16, next := 0 } ∧ ∀ e, e ≠ d.val → b'.conn e = b.conn e)) ∧
  (∀ (b : Block) (d : Nat), let c := (connBreak b d).conn d
    c.out = [] ∧ c.wait = [] ∧ c.broken = some b.now ∧ c.epoch = (b.conn d).epoch ∧ ∀ e, e ≠ d → (connBreak b d).conn e = b.conn e)
/-- R363, R387, R459: LINK_STALL, FABRIC_VIOLATION, and the TIME flits by which a module follows its parent's time. -/
def Obligations.FabricReports : Prop :=
  (∀ (p : Fin 24) (vc : Fin 6) (x : VcPkt) (s : State), let b := s.blk
    let l := b.link p
    let mark := mget 0 l.stallAt vc
    let since := max x.at_ (mark / 2)
    l.q.find? (fun x => x.vc == vc.val) = some x → 1024 < x.pkt.credits + mget 0 l.credits vc → mark % 2 = 0 → since + 1000000 * stallMs b ≤ b.now →
    Answers (.linkStall p vc) s fun b' => ∃ y, b' = eventPlat y 0 0x0802 .done 0 (regionLoc (20 + p.val / 6)) (detail [(16, 1, p), (17, 1, vc), (18, 4, (b.now - since) / 1000000)]) ∧
      y.cells = b.cells ∧ y.hub = b.hub ∧ (y.link p).q = l.q ∧ mget 0 (y.link p).stallAt vc % 2 = 1) ∧
  (∀ (e : Fin 4) (s : State), let b := s.blk
    let cnt (k : Nat) : Nat := b.cnt (eBase e + 0x30A00 + 8 * k)
    let gain (k : Nat) : Nat := cnt k - mget 0 b.fab.violSeen (8 * e.val + k)
    (∃ k < 7, gain k ≠ 0) → mget 0 b.fab.violAt e = 0 ∨ mget 0 b.fab.violAt e + 10000000 ≤ b.now + 1 → Answers (.fabricViolation e) s fun b' => ∃ y,
      b' = eventPlat y 0 0x0805 .done 0 (regionLoc (20 + e.val)) (detail ((16, 1, e.val) :: (List.range 7).map fun k => (18 + 2 * k, 2, min 65535 (gain k)))) ∧
      { y with fab := b.fab } = b ∧ y.fab.links = b.fab.links ∧ y.fab.conns = b.fab.conns ∧ mget 0 y.fab.violAt e = b.now + 1 ∧ ∀ k < 7, mget 0 y.fab.violSeen (8 * e.val + k) = cnt k) ∧
  (∀ (p : Fin 24) (s : State), let b := s.blk
    (b.link p).st = 2 → mget 0 b.clk.timeTick p + 10000 ≤ b.now → Answers (.timeFlitSend p) s fun b' => mget 0 b'.clk.timeTick p = b.now ∧ b'.fab = b.fab ∧
      (b.hub.fatal = none → (mget (0, 0, 0) b.clk.timeRx p).2.1 < 2 ^ 64 → ∃ f, b'.sent = b.sent ++ [.snd p 4 (272, flitWire f)] ∧ bits f 0 4 = 4 ∧ bits f 64 64 = b.mtime ∧
        bits f 128 64 = (mget (0, 0, 0) b.clk.timeRx p).2.1 ∧ bits f 192 64 = bits (mget (0, 0, 0) b.clk.timeRx p).1 0 64)) ∧
  (∀ (p : Nat) (s : State), let b := s.blk
    let rx := mget (0, 0, 0) b.clk.timeRx p
    let peer := bits rx.1 128 64
    let off : Int := (((bits rx.1 64 64 : Int) - peer) - ((rx.2.1 : Int) - bits rx.1 0 64)) / 2
    timeParent b = some p → rx.2.2 ≠ 0 → (b.link p).st = 2 → peer ≠ 0 → Answers .timeFlit s fun b' => b'.clk.offset = off ∧ b'.cells = b.cells ∧ b'.fab = b.fab ∧
      b'.mtOff = b.mtOff + (if 1000 < off then off.toNat else 0) ∧ b'.clk.slew = (if 1000 < off ∨ off.natAbs < 2 then 0 else off) ∧
      b'.clk.good = (if off.natAbs < 10 then min 10 (b.clk.good + 1) else 0) ∧ (b'.clk.aligned = true ↔ b.clk.aligned = true ∨ 10 ≤ b'.clk.good) ∧
      (mget (0, 0, 0) b'.clk.timeRx p).2.2 = 0)

namespace Sys2Proof.Claims
open Sys2Proof.Machine

/-- A COLL record whose fields, encodings, group, ranges and escrow are in order (R372, R375). -/
def CollFits (b : Block) (n : Nat) (r : Rec) (g : Group) : Prop :=
  let kind := r.u 18 1
  let fl := r.u 19 1
  let cnt := r.u 40 4
  let p := max 1 g.members.length
  let src := r.u 24 8
  let dst := r.u 32 8
  let fmt (f : Nat) : Prop := f = 0 ∨ f = 1 ∨ f = 2 ∨ f = 10
  let enc (st : Bool) (a : Nat) : Prop := if st = true then bit a 31 = false ∧ a < 2 ^ 42 ∧ bits a 8 23 % 64 = 0 else a < 2 ^ 40 ∧ a % 64 = 0
  let len := if kind < 2 then cnt * inSize (r.u 20 1) else if kind = 2 then cnt else if bit fl 2 = true then 0 else sumN (sendCounts b n r p) * cnt
  bodyOk r [(16, 44)] = true ∧ kind < 4 ∧ fl < 16 ∧ cnt ≠ 0 ∧ r.u 47 1 ≠ 0 ∧ (bit fl 2 = true → kind = 3) ∧ enc (bit fl 0) src ∧ enc (bit fl 1) dst ∧
  (if kind < 2 then fmt (r.u 20 1) ∧ fmt (r.u 21 1) ∧ r.u 22 1 ≤ 63 ∧ 1 ≤ r.u 23 1 ∧ r.u 23 1 ≤ 32 else r.u 20 4 = 0) ∧
  (kind = 1 → cnt % p = 0) ∧ (2 ≤ kind → cnt % 64 = 0) ∧ (kind ≠ 3 → r.u 48 8 = 0 ∧ r.u 56 4 = 0) ∧
  (kind = 3 → r.u 48 8 % 64 = 0 ∧ pvaOk b n .hubRead0 (r.u 48 8) (4 * p) = true ∧ pvaOk b n .hubWrite0 (r.u 48 8 + 4 * p) (4 * p) = true) ∧
  (len = 0 ∨ if bit fl 0 = true then (storePlace b n src len).isSome = true else pvaOk b n .hubRead0 src len = true) ∧
  (kind < 2 → r.u 20 1 = 10 → bit fl 0 = true → fracOk b n src len (r.u 22 1) false = true) ∧ destFrac b n r (resultBytes r p) = true ∧
  (bit fl 2 = true ∨ destOk b n r (resultBytes r p) = true) ∧ ∃ l, escrowList b n r = some l ∧ escrowBytes r p ≤ sumN (l.map (·.2.2))
/-- The collective in a queue that an arrival is for, and the rank it comes from (R380, R381). -/
def ForColl (b : Block) (x : Inbox) (c : Coll) (r : Nat) : Prop :=
  stateCheck (b.part x.pkt.dpart) = none ∧ collFor b x.pkt = some c ∧ rankOf (collGroup b c) x.pkt = some r
/-- The data arrivals: command, packet type, what holds one back, whether its fields are in order, and its effect. -/
def dataArrivals : List (Instr × Nat × (Block → Pkt → Bool) × (Block → Coll → Nat → Pkt → Bool) × (Block → Nat → Nat → Pkt → Block)) := [
  (.collUp, 4, upHold, upOk, upGo), (.collDown, 5, fun _ _ => false, downOk, downGo),
  (.collCounts, 6, fun _ _ => false, fun _ c r _ => c.kind == 3 && mget 0 c.counts r == 0, countsGo), (.collA2a, 7, fun _ _ => false, a2aOk, a2aGo)]

end Sys2Proof.Claims

/-- R368 to R370, R373, R375, R379, R385: GROUP_SET, GROUP_CLEAR, COLL, the queue a COLL waits for, and the tree of a group. -/
def Obligations.Groups : Prop :=
  (∀ (n : Fin 16) (r : Rec) (s : State),
    let t := taken s.blk n r
    let c := cmdAt s.blk n r
    (let cnt := r.u 32 2
     let pva := r.u 24 8
     let v := pvaRead t n .hubRead0 pva (pvaFuel (4 * cnt)) (4 * cnt)
     let ms := (List.range cnt).map fun i => bits v (32 * i) 32
     let me := nodeId t + 8192 * n.val
     let q := (t.part n).groupQuota
     ∀ i g, Starts1 s.blk n r 0x80 → Body r [(20, 15)] → 2 ≤ cnt → cnt ≤ 8192 → 2 ≤ r.u 34 1 → r.u 34 1 ≤ 16 → r.u 20 4 ≠ 0 → (∀ j x, groupOf t n j = some x → x.tag ≠ r.u 20 4) →
      pva < 2 ^ 40 → pvaOk t n .hubRead0 pva (4 * cnt) = true → (pvaCheck t n .hubRead0 pva (4 * cnt)).1 = false → (∀ m ∈ ms, m < 2 ^ 17) → ms.Nodup → ms[i]? = some me →
      g < q → groupOf t n g = none → g < 1024 → (∀ j < g, groupOf t n j ≠ none) → ((List.range 1024).filter fun j => (groupOf t n j).isSome).length < q → groupsAll t < 1024 →
      Answers (.groupSet n r) s fun b' => ∃ x, b' = settled (finish x c.id .done (g + 65536 * i)) ∧
        groupOf x n g = some { part := n, tag := r.u 20 4, members := ms, fanin := r.u 34 1, rank := i } ∧ (∀ m j, m ≠ n.val ∨ j ≠ g → m < 16 → groupOf x m j = groupOf t m j) ∧ x.cells = t.cells) ∧
    (let g := r.u 16 2
     let busy : Prop := ∃ x ∈ t.fab.colls, x.part = n ∧ x.group = g
     ∀ y, Starts1 s.blk n r 0x81 → Body r [(16, 2)] → groupNamed t n g = some y → y.clearing = none →
      (busy → Answers (.groupClear n r) s fun b' => ∃ x, b' = settled x ∧ groupOf x n g = some { y with clearing := some c.id } ∧ x.hub = t.hub ∧ x.cells = t.cells) ∧
      (¬busy → Answers (.groupClear n r) s fun b' => ∃ x, b' = settled (finish x c.id .done) ∧ groupOf x n g = none ∧ x.hub = t.hub ∧ x.cells = t.cells)) ∧
    (∀ g, Starts1 s.blk n r 0x82 → groupNamed t n (r.u 16 2) = some g → CollFits t n r g →
      (collQueued t n < 4 → Answers (.coll n r) s fun b' => b' = settled (collEnter t c)) ∧
      (4 ≤ collQueued t n → Answers (.coll n r) s fun b' => b' = settled ((modCmd t c.id fun c => { c with left := 1 }).modFab fun f => { f with ringWait := f.ringWait ++ [n.val] })))) ∧
  (∀ (n : Fin 16) (c : Cmd) (s : State), n.val ∈ s.blk.fab.ringWait → collQueued s.blk n < 4 →
    s.blk.hub.cmds.find? (fun c => c.part == n.val && c.op == 0x82 && c.left == 1 && c.st == .running) = some c → Answers (.collQueueTake n) s fun b' => ∃ x,
      b' = settled (collEnter (modCmd x c.id fun c => { c with left := 0 }) c) ∧ x = s.blk.modFab fun f => { f with ringWait := f.ringWait.filter (· != n.val) }) ∧
  (∀ (b : Block) (c : Cmd) (g : Group), let gi := c.desc.u 16 2
    groupOf b c.part gi = some g → (∀ e ∈ b.fab.rdv, e.part = c.part → e.pkt.u 16 4 = g.tag → e.pkt.u 20 4 ≠ g.seq) → let b' := collEnter b c
    groupOf b' c.part gi = some { g with seq := (g.seq + 1) % 2 ^ 32 } ∧ b'.cells = b.cells ∧ b'.mem = b.mem ∧
    ∃ x, b'.fab.colls = b.fab.colls ++ [x] ∧ x.part = c.part ∧ x.cmd = c.id ∧ x.group = gi ∧ x.tag = g.tag ∧ x.seq = g.seq ∧ x.desc = c.desc ∧ x.started = false ∧ x.ready = []) ∧
  (∀ p f r q : Nat, 1 ≤ f → (q ∈ treeKids p f r ↔ q ≠ 0 ∧ q < p ∧ treeParent f q = r) ∧ (q ≠ 0 → treeParent f q < q))
/-- R371 to R374, R377, R380, R381: a collective starts, with reduction memory on all four E-dies or on none; and its
arrivals are taken, kept or refused. -/
def Obligations.Collectives : Prop :=
  (∀ (n : Fin 16) (c : Coll) (s : State), let b := s.blk
    let want : Prop := c.kind < 2
    let take : Prop := want ∧ (∀ e < 4, mget 0 b.fab.rmemUsed e + c.pipe ≤ 512) ∧ bit (c.desc.u 19 1) 3 = false
    (b.part n).running = none → b.fab.colls.find? (fun c => c.part == n.val && !c.started) = some c → Answers (.collStart n) s fun b' => ∃ (x : Block) (f : Coll → Coll), b' = settled (collPump x c.id) ∧
      x.fab.colls = b.fab.colls.map (fun y => if y.id = c.id then f y else y) ∧ (∀ y : Coll, f y = { y with started := true, rmem := (f y).rmem, fallback := (f y).fallback, at_ := b.now }) ∧
      (∀ y, (f y).rmem = true ↔ take) ∧ (∀ y, (f y).fallback = true ↔ want ∧ ¬take) ∧ SameBytes b x ∧
      (take → ∀ e < 4, mget 0 x.fab.rmemUsed e = mget 0 b.fab.rmemUsed e + c.pipe) ∧ (¬take → x.fab.rmemUsed = b.fab.rmemUsed)) ∧
  (∀ i ∈ ([(.collReady, 3, readyIn), (.collAbort, 8, abortIn)] : List (Instr × Nat × (Block → Nat → Pkt → Block))), ∀ (x : Inbox) (y : Block) (s : State),
    takeArrival s.blk i.2.1 (fun _ => false) = some (x, y) →
    (∀ st, stateCheck (y.part x.pkt.dpart) = some st → Answers i.1 s fun b' => b' = settled (arrAnswer y x st)) ∧
    (stateCheck (y.part x.pkt.dpart) = none → collFor y x.pkt = none → Answers i.1 s fun b' => b' = settled (rdvKeep y x)) ∧
    (∀ c, stateCheck (y.part x.pkt.dpart) = none → collFor y x.pkt = some c → rankOf (collGroup y c) x.pkt = none → Answers i.1 s fun b' =>
      b' = settled (arrAnswer (fabCount y (x.pkt.src % 4) 6) x .descInvalid)) ∧
    (∀ c r, ForColl y x c r → Answers i.1 s fun b' => b' = settled (i.2.2 (arrAnswer y x .done) c.id x.pkt))) ∧
  (∀ i ∈ dataArrivals, ∀ (x : Inbox) (y : Block) (s : State), takeArrival s.blk i.2.1 (i.2.2.1 s.blk) = some (x, y) →
    let k := x.pkt
    let bad : Block := arrAnswer (fabCount y (k.src % 4) 6) x .descInvalid
    (∀ st, stateCheck (y.part k.dpart) = some st → Answers i.1 s fun b' => b' = settled (arrAnswer y x st)) ∧
    (stateCheck (y.part k.dpart) = none → collFor y k = none → Answers i.1 s fun b' => b' = settled bad) ∧
    (∀ c, stateCheck (y.part k.dpart) = none → collFor y k = some c → rankOf (collGroup y c) k = none → Answers i.1 s fun b' => b' = settled bad) ∧
    (∀ c r, ForColl y x c r →
      (r = k.u 29 2 → r ∈ c.ready → c.started = true → i.2.2.2.1 y c r k = true → Answers i.1 s fun b' => b' = settled (collPump (i.2.2.2.2
        (arrAnswer (collCount (collProgress (modColl y c.id fun c => { c with at_ := y.now }) c.part) c.part 5 k.len) x .done) c.id r k) c.id)) ∧
      (r ≠ k.u 29 2 ∨ r ∉ c.ready ∨ c.started = false ∨ i.2.2.2.1 y c r k = false → Answers i.1 s fun b' => b' = settled bad))) ∧
  (∀ (b : Block) (typ : Nat) (hold : Pkt → Bool) (x : Inbox) (y : Block), takeArrival b typ hold = some (x, y) → x.pkt.typ = typ ∧ hold x.pkt = false ∧ { y with fab := b.fab } = b ∧
    y.fab.inbox.length + y.fab.localq.length + 1 = b.fab.inbox.length + b.fab.localq.length) ∧
  (∀ (b : Block) (x : Inbox) (q : Nat), x.conn = some q → let n := x.pkt.dpart
    (∀ g e, groupOf b n g = some e → e.tag = x.pkt.u 16 4 → (x.pkt.u 20 4 + 2 ^ 32 - e.seq) % 2 ^ 32 < 2 ^ 31) →
    (b.fab.rdv.countP (fun e => e.part == n) < 64 → (rdvKeep b x).fab.rdv = b.fab.rdv ++ [{ part := n, pkt := x.pkt }]) ∧
    (64 ≤ b.fab.rdv.countP (fun e => e.part == n) → rdvKeep b x = answerPkt b x.pkt.src q .quota 0)) ∧
  (∀ (b : Block) (c : Coll) (r : Nat) (x : Pkt), b.coll c.id = some c → let b' := a2aGo b c.id r x
    b'.fab.colls = b.fab.colls.map (fun y => if y.id = c.id then { y with rows := mmod 0 y.rows r (· + x.len) } else y) ∧
    b'.cells = (collPlace b c (rowsBase c r + x.u 24 4) x.len x.data).cells ∧ b'.mem = b.mem)
/-- R376, R378, R382 to R384, R388: the commit of a collective, ORDER_STALL, COLL_TIMEOUT, the retry of a rendezvous, and what ends
with a collective. -/
def Obligations.CollectiveEnds : Prop :=
  (∀ (n : Fin 16) (c : Coll) (s : State), let b := s.blk
    let p := (collGroup b c).members.length
    let len := if c.kind = 3 then (if c.countsOnly then 0 else rowsBase c p) else resultBytes c.desc p
    let cnts := c.desc.u 48 8 + 4 * p
    let does (P : Block → Prop) : Prop := Answers (.collCommit n) s P
    b.fab.colls.find? (fun c => c.part == n.val && collWhole b c) = some c →
    (escrowList b c.part c.desc = none → does fun b' => b' = settled (collFail b c .protection)) ∧
    (∀ esc, escrowList b c.part c.desc = some esc →
      (destOk b c.part c.desc len = false → does fun b' => b' = settled (collFail b c .protection)) ∧
      (destOk b c.part c.desc len = true → (c.kind = 3 → pvaOk b c.part .hubWrite0 cnts (4 * p) = true) →
        (destFrac b c.part c.desc len = false → does fun b' => b' = settled (collFail b c .descInvalid)) ∧
        (destFrac b c.part c.desc len = true →
          (∀ y, escrowGet c.id esc 0 len b = (none, y) → does fun b' => b' = settled (collFail y c .uncorrectable)) ∧
          (∀ v y st fl w, escrowGet c.id esc 0 len b = (some v, y) → destPut y c len v = (st, fl, w) →
            (st ≠ .done → does fun b' => b' = settled (collFail w c st)) ∧
            (st = .done → c.fallback = false →
              (c.kind ≠ 3 → does fun b' => b' = settled (collEnd w c .done false false 0 fl)) ∧
              (c.kind = 3 → does fun b' => b' = settled (collEnd (pvaWrite w c.part .hubWrite0 cnts (pvaFuel (4 * p)) (4 * p)
                ((List.range p).foldr (fun i a => (mget 0 c.counts i - 1) % 2 ^ 32 + a * 2 ^ 32) 0)) c .done false false 0 fl))) ∧
            (st = .done → c.fallback = true → c.kind < 2 → does fun b' => ∃ u x, x.mem = w.mem ∧ x.cells = w.cells ∧
              b' = settled (collEnd (escrowPut esc len (4 * c.pipe * 65536) u x) c .done false false 0 fl))))))) ∧
  (∀ (n : Fin 16) (s : State), let b := s.blk
    let each (l : List Coll) (st : Status) : Block := b.each l fun b c => withColl b c.id fun c => collFail b c st
    (collQueued b n = 4 → mget 0 b.fab.progress n + 4000000 ≤ b.now + 1 → Answers (.orderStall n) s fun b' =>
      b' = settled (each (b.fab.colls.filter fun c => c.part == n.val && !collReadyAll b c) .orderStall)) ∧
    Answers (.collTimeout n) s fun b' => b' = settled (each (b.fab.colls.filter fun c => c.part == n.val && decide (c.at_ + 1000000 * collMs b ≤ b.now)) .timeout)) ∧
  (∀ (x : Nat × Nat × Pkt) (s : State), s.blk.fab.retry.find? (fun x => decide (x.1 + 100000 ≤ s.blk.now)) = some x →
    let b := s.blk.modFab fun f => { f with retry := f.retry.erase x }
    let hit (c : Coll) : Bool := c.part == x.2.1 && c.tag == x.2.2.u 16 4 && c.seq == x.2.2.u 20 4
    (∀ c, b.fab.colls.find? hit = some c → Answers .rendezvousRetry s fun b' => b' = settled (connSend (collProgress b c.part) x.2.2 (.coll c.part c.id))) ∧
    (b.fab.colls.find? hit = none → x.2.2.typ = 3 → Answers .rendezvousRetry s fun b' => b' = settled b) ∧
    (b.fab.colls.find? hit = none → x.2.2.typ ≠ 3 → Answers .rendezvousRetry s fun b' => b' = settled (connSend b x.2.2 (.coll x.2.1 0)))) ∧
  (∀ (b : Block) (c : Coll) (st : Status) (got tell : Bool) (rank : Nat) (fl : Flags) (d : Cmd), cmdOf b c.cmd = some d → d.st = .running → let b' := collEnd b c st got tell rank fl
    let inEscrow (j a : Nat) : Prop := ∃ l, escrowList b c.part c.desc = some l ∧ ∃ y ∈ l, y.1 = j ∧ y.2.1 ≤ a ∧ a < y.2.1 + y.2.2
    b'.fab.colls = b.fab.colls.filter (fun y => y.id != c.id) ∧ (∀ j a, st = .done ∨ ¬inEscrow j a → (b'.cell j).store.byte a = (b.cell j).store.byte a) ∧
    (c.rmem = true → ∀ e < 4, mget 0 b'.fab.rmemUsed e = mget 0 b.fab.rmemUsed e - c.desc.u 23 1) ∧
    (c.rmem = false → b'.fab.rmemUsed = b.fab.rmemUsed) ∧ ∃ d', cmdOf b' c.cmd = some d' ∧ d'.status = st ∧ d'.flags = d.flags.or (fl.or c.flags) ∧ (d'.st = .commit ∨ d'.st = .posting))

namespace Sys2Proof.Claims
open Sys2Proof.Machine

/-- A cell holds nothing of a program: no thread, engine work, coalesced line or bank-side work. -/
def Quenched (c : Cell) : Prop := c.thr = [] ∧ c.run = none ∧ c.arrq = [] ∧ c.bankq = [] ∧ c.coal = []
/-- Only power control, the counters and the platform's event ring may differ. -/
def OnlyPower (b b' : Block) : Prop :=
  b'.cells = b.cells ∧ b'.parts = b.parts ∧ b'.entries = b.entries ∧ b'.rem = b.rem ∧ b'.clk = b.clk ∧ b'.regs = b.regs ∧ b'.hub.cmds = b.hub.cmds ∧ b'.hub.tallies = b.hub.tallies
/-- The valid readings of a die's four sensors. -/
def reading (t : List (List (Option Nat))) (r s : Nat) : Option Nat := (t.getD r []).getD s none

end Sys2Proof.Claims

/-- R44, R56, R397, R400 to R408: where a page's granules lie, a new MTT base, ASSIGN, KILL and SYNC, the steps of a kill, and the zeroing
of freed pages. -/
def Obligations.PartitionLife : Prop :=
  (∀ e p o : Nat, e < 4 → p < 2 ^ 17 → o < 2 ^ 21 → let a := pageMpa (pageKey e p) + o
    mpaEdie a = e ∧ mpaPage a = p ∧ mpaSubchannel a = (o / 256 + 7 * p) % 48) ∧
  (∀ (b : Block) (n v : Nat), n < 16 → let y := writeMttBase b n v
    (y.part n).mttBase = v % 2 ^ 40 / 2 ^ 22 * 2 ^ 22 ∧ (y.part n).mttEn = bit v 63 ∧ y.mem = b.mem ∧ ∀ k ∈ partCells b n, (y.cell k).xlate = []) ∧
  (∀ (e : Fin 4) (p : Fin 131072) (s : State), let b := s.blk
    let key := pageKey e p
    (∃ z ∈ b.hub.zeroing, z.1 = key) → Answers (.pageZeroed e p) s fun b' => b'.cells = b.cells ∧ (∀ z ∈ b'.hub.zeroing, z.1 ≠ key) ∧
      ∀ a, b'.mem.byte a = if pageMpa key ≤ a ∧ a < pageMpa key + 2 ^ 21 then 0 else b.mem.byte a) ∧
  (∀ (a : Path) (n : Fin 16) (s : State),
    Writes (.assign a n) s a 0xC7F70200 (1 + 4 * n) (fun b => assign b n) ∧ Writes (.kill a n) s a 0xC7F70200 (2 + 4 * n) (fun b => killOp b n) ∧
    Writes (.sync a n) s a 0xC7F70200 (3 + 4 * n) fun b => syncOp b n) ∧
  (∀ (b : Block) (n : Nat), n < 16 →
    (let y := assign b n
     ((b.part n).st ≠ .free → y = opStatus b 1 n 1) ∧
     ((b.part n).st = .free → (∃ k ∈ partBlocks b n, blockOwner b k ≠ none ∨ bit b.hub.fence k = true) → y = opStatus b 1 n 2) ∧
     ((b.part n).st = .free → (∀ k ∈ partBlocks b n, blockOwner b k = none ∧ bit b.hub.fence k = false) → (y.part n).st = .active ∧ (y.part n).blocks = (b.part n).blocks ∧
      y.hub.opStatus = 2 + n * 8 ∧ mget 0 y.sec.partMeas n = 0 ∧ (∀ x, 0xC7F52000 + 0x100 * n ≤ x → x < 0xC7F52100 + 0x100 * n → y.cnt x = 0) ∧
      (∀ k ∈ partCells b n, y.cell k = { b.cell k with part := n, assigned := true }) ∧ (∀ k, k ∉ partCells b n → y.cell k = b.cell k) ∧ ∀ m, m ≠ n → y.part m = b.part m)) ∧
    ((b.part n).st = .active → killOp b n = killPart (opStatus b 2 n 0) n 1 ∧ opBusy (killOp b n) = true) ∧
    ((b.part n).st = .free → killOp b n = opStatus b 2 n 1) ∧ ((b.part n).st = .killing ∨ (b.part n).st = .scrubbing → killOp b n = opStatus b 2 n 3) ∧
    (∀ k ∈ partCells b n, ((syncOp b n).cell k).xlate = []) ∧
    (∀ cause, (b.part n).st = .active → (∀ c ∈ b.hub.cmds, ∀ d ∈ b.hub.cmds, c.id = d.id → c = d) → (∀ i ∈ (b.part n).commits, ∀ c, cmdOf b i = some c → c.st = .commit) →
      let y := killPart b n cause
      (y.part n).st = .killing ∧ (y.part n).killCause = cause ∧ (y.part n).running = none ∧ (y.part n).ahead = none ∧ (y.part n).image = none ∧
      (∀ k ∈ partCells b n, Quenched (y.cell k)) ∧ (∀ c ∈ y.fab.colls, c.part ≠ n) ∧ (∀ r ∈ y.rem.remits, r.part ≠ n) ∧ (∀ w ∈ y.hub.watches, w.part ≠ n) ∧
      (∀ c ∈ b.hub.cmds, c.part = n → ∃ d, cmdOf y c.id = some d ∧ d.status = .aborted ∧ (d.st = .commit ∨ d.st = .posting)) ∧ ∀ m, m ≠ n → (y.part m).st = (b.part m).st)) ∧
  (∀ (n : Fin 16) (s : State), let b := s.blk
    let p := b.part n
    (p.st = .killing → Answers (.killStopDone n) s fun b' => (b'.part n).st = .scrubbing ∧ b'.mem = b.mem ∧
      (∀ k ∈ partCells b n, (b'.cell k).zeroing = true ∧ Quenched (b'.cell k) ∧ (b'.cell k).fenced = (b.cell k).fenced) ∧ ∀ k, k ∉ partCells b n → b'.cell k = b.cell k) ∧
    (p.st = .scrubbing → (∀ k ∈ partCells b n, (b.cell k).zeroing = false) → Answers (.partScrubbed n) s fun b' => ∃ y,
      b' = eventPlat y n 0x0902 .done 0 chipLoc (detail [(16, 1, n), (20, 4, (b.now - p.killAt) / 1000)]) ∧ (y.part n).st = .free ∧ (∀ key, pageOwner y key ≠ some n.val) ∧
      (∀ k ∈ partCells b n, (y.cell k).assigned = false) ∧
      ∀ a, y.mem.byte a = if p.zeroList.any (fun z => decide (z.1 ≤ a) && decide (a < z.1 + z.2)) = true then 0 else b.mem.byte a) ∧
    (p.st = .scrubbing → p.scrubLate = false → p.stopAt + 10000000 + zeroNs p.scrubBytes < b.now → Answers (.scrubBoundExpiry n) s fun b' => ∃ y,
      b' = eventPlat y n 0x0902 .timeout 0 chipLoc (detail [(16, 1, n), (20, 4, (b.now - p.killAt) / 1000)]) ∧ y = b.modPart n fun p => { p with scrubLate := true }))
/-- R417 to R431, R443: the purses, the limits, the estimate and the telemetry of power. -/
def Obligations.PowerTicks : Prop :=
  (∀ s : State, let b := s.blk
    let p := b.pow
    (tickDue b 0 50000 = true → Answers .purseTick s fun b' => OnlyPower b b' ∧
      (b'.pow.guard = true ↔ 97 * peakW b < 100 * p.avg2 ∨ (p.guard = true ∧ 92 * peakW b ≤ 100 * p.avg2)) ∧ (∀ r < 20, (b'.purse r).cap = purseCapacity b' r ∧
        (b'.purse r).held = (b.purse r).held ∧ (b'.purse r).waiters = (b.purse r).waiters)) ∧
    (tickDue b 1 1000000 = true → Answers .sustainedTick s fun b' =>
      let a := avgOf ((capPower p :: p.h1s).take 1000)
      let late (d : Nat) (x : Option Nat) : Prop := ∀ t, x = some t → t + d ≤ b.now
      OnlyPower b b' ∧ b'.pow.h1s = (capPower p :: p.h1s).take 1000 ∧
      (susW b < a + 50 → late 10000000 p.susAt → b'.pow.susPoint = min 7 (p.susPoint + 1) ∧ b'.pow.susAt = some b.now) ∧
      (susW b < a + 50 → ¬late 10000000 p.susAt → b'.pow.susPoint = p.susPoint) ∧
      (a + 300 < susW b → p.susLow ≠ none → late 100000000 p.susLow → b'.pow.susPoint = p.susPoint - 1) ∧
      (a + 300 < susW b → p.susLow = none ∨ ¬late 100000000 p.susLow → b'.pow.susPoint = p.susPoint) ∧ (susW b ≤ a + 300 → a + 50 ≤ susW b → b'.pow.susPoint = p.susPoint) ∧
      (p.memThr < b'.pow.memThr → b'.pow.memThr = p.memThr + 1 ∧ b'.pow.memThr ≤ 6 ∧ (p.guard = true ∨ p.committed = 7)) ∧ p.memThr ≤ b'.pow.memThr + 1) ∧
    (let g : Prop := p.guard = true ∧ p.guardAt + 500000 ≤ b.now ∧ 97 * peakW b < 100 * p.avg2
     let q := (memThrottle b).pow
     (g → (∀ t, p.memAt = some t → t + 1000000 ≤ b.now) → p.memThr < 6 → q.memThr = p.memThr + 1) ∧
     (g → (∃ t, p.memAt = some t ∧ b.now < t + 1000000) → q.memThr = p.memThr) ∧ (g → p.memThr ≤ q.memThr ∧ q.memThr ≤ max 6 p.memThr)) ∧
    (∀ w, tickDue b 2 10000 = true → Answers (.estimateTick w) s fun b' => OnlyPower b b' ∧ b'.pow.raw = (w + pointBase p.point) * 1024 / max 1 effFuse ∧
      b'.pow.est = b'.pow.raw * p.kCal / 4096 ∧ b'.pow.h2 = (capPower b'.pow :: p.h2).take 200) ∧
    (∀ st : List (Option (Nat × Nat)), tickDue b 3 100000 = true → Answers (.telemetryRead st) s fun b' => OnlyPower b b' ∧ b'.pow.est = p.est ∧
      (none ∈ st → b'.pow.telem = p.telem ∧ b'.pow.k = p.k) ∧
      (none ∉ st → b'.pow.telem = (st.map fun x => match x with | some (v, i) => v * i | none => 0).sum / 1000000 ∧
        (p.frozen = true ∨ p.lost = true → b'.pow.k = p.k) ∧
        (p.frozen = false → p.lost = false → p.raw ≠ 0 → 3277 * 65536 ≤ b'.pow.k ∧ b'.pow.k ≤ 5120 * 65536 ∧
          (3277 * 65536 ≤ p.k → p.k ≤ 5120 * 65536 → b'.pow.k ≤ p.k + p.k / 10000 ∧ p.k ≤ b'.pow.k + p.k / 10000)))) ∧
    (∀ t, p.diverged = false → p.divSince = some t → t + 10000000 < b.now → p.lost = false → Answers .modelDivergence s fun b' => b'.pow.diverged = true ∧ b'.pow.frozen = true ∧ OnlyPower b b') ∧
    (∀ t, p.diverged = true → p.agreeSince = some t → t + 100000000 ≤ b.now → Answers .modelDivergence s fun b' => b'.pow.diverged = false ∧ b'.pow.frozen = p.lost ∧ OnlyPower b b') ∧
    (∀ stage : Fin 64, p.lost = false → (∃ x ∈ p.stageAt, x.1 = stage ∧ x.2 + 1000000 ≤ b.now + 1) → Answers (.telemetryLost stage) s fun b' =>
      b'.pow.lost = true ∧ b'.pow.frozen = true ∧ b'.pow.telem = 0 ∧ OnlyPower b b') ∧
    (∀ stage : Fin 64, p.lost = true → (∀ x ∈ p.stageAt, b.now + 1 < x.2 + 1000000) → Answers (.telemetryLost stage) s fun b' => b'.pow.lost = false ∧ b'.pow.frozen = p.diverged ∧ OnlyPower b b') ∧
    (∀ (r : Fin 20) (ns : Nat), hubUp b = true → let on := mget false p.droop r
      Answers (.droop r ns) s fun b' => OnlyPower b b' ∧ mget false b'.pow.droop r = !on ∧
        b'.cnts = (if on = true then b.count (purseBase r + 0x828) ns else b.count (purseBase r + 0x820)).cnts)) ∧
  (∀ (b : Block) (r : Nat), purseCapacity b r ≤ purseCeil b r ∧ (b.pow.guard = true → purseCapacity b r = 0)) ∧
  (∀ (b : Block) (e : Nat), let y := chargeEnergy b e
    let total (x : Block) : Nat := ((List.range 128).map fun i => x.cnt (0xC7F71000 + 0x20 * i)).sum + x.cnt 0xC7F70280
    total y % 2 ^ 64 = (total b + e) % 2 ^ 64 ∧ { y with cnts := b.cnts, free := b.free } = b ∧ ∀ a, a ≠ 0xC7F70280 → a < 0xC7F71000 ∨ 0xC7F72000 ≤ a → y.cnt a = b.cnt a) ∧
  (∀ p : Power, capPower p = if p.lost = true then p.est * 13 / 10 else if p.diverged = true then max p.est p.telem else p.est)
/-- R432 to R438: the job-wide lock: requests, the master's point and its commit, the switch, and a master that falls silent. -/
def Obligations.PowerLock : Prop :=
  (∀ s : State, let b := s.blk
    let p := b.pow
    let r := ownRequest b
    let u := p.forced
    let moved : Prop := tickDue b 4 1000000 = true ∨ r ≠ p.sentReq ∨ (u = true ∧ p.urgentSent = false)
    let asks (x : Block) : Prop := { x with pow := b.pow } = b ∧ x.pow.requested = r ∧ x.pow.sentReq = r ∧ x.pow.urgentSent = u ∧ mget 0 x.pow.ticks 4 = b.now ∧ x.pow.point = p.point ∧ x.pow.serial = p.serial
    (isReady b = true → ¬moved → Answers .epochRequestSend s fun b' => b' = settle (b.modPow fun p => { p with requested := r })) ∧
    (isReady b = true → moved → jobEn b = true → Answers .epochRequestSend s fun b' => ∃ x, asks x ∧ b' = settle (sendEpoch x (jobMaster b) (epochPkt b (jobMaster b) 0 r u p.serial 0))) ∧
    (isReady b = true → moved → jobEn b = false → Answers .epochRequestSend s fun b' => ∃ x, asks x ∧ x.pow.reqs = [(0, r, u, b.now)] ∧ b' = settle (if u = true then masterEval x else x)) ∧
    (isReady b = true → isMaster b = true → tickDue b 5 1000000 = true → Answers .masterEvaluate s fun b' => b' = settle (masterEval (tickMark b 5))) ∧
    (∀ k y, takeEpoch b 0 = some (k, y) → let fits : Prop := jobEn b = true ∧ isMaster b = true ∧ k.u 18 2 = jobNum b ∧ k.u 17 1 < 16
      (¬fits → Answers .epochRequest s fun b' => b' = settle (fabCount y (k.src % 4) 2)) ∧
      (fits → Answers .epochRequest s fun b' => ∃ x, { x with pow := y.pow } = y ∧ mget (0, false, 0) x.pow.reqs k.src = (k.u 17 1 % 8, bit (k.u 17 1) 3, b.now) ∧
        (∀ n, n ≠ k.src → mget (0, false, 0) x.pow.reqs n = mget (0, false, 0) p.reqs n) ∧ b' = settle (if bit (k.u 17 1) 3 = true ∧ isReady b = true then masterEval x else x))) ∧
    (∀ k y, takeEpoch b 1 = some (k, y) → let fits : Prop := jobEn b = true ∧ k.u 18 2 = jobNum b ∧ k.src = jobMaster b
      (¬fits → Answers .epochCommit s fun b' => b' = fabCount y (k.src % 4) 2) ∧
      (fits → Answers .epochCommit s fun b' => b' = commitArrive y (k.u 20 4) (k.u 17 1 % 8) (k.u 24 8))) ∧
    (∀ c, p.commit = some c → (b.mtime < c.at_ → Answers .pointSwitch s fun b' => b' = b) ∧
      (c.at_ ≤ b.mtime → (∀ t v, p.rampFrom = some (t, v) → b.now < t + rampNs v c.point → Answers .pointSwitch s fun b' => b' = b) ∧
        ((∀ t v, p.rampFrom = some (t, v) → t + rampNs v c.point ≤ b.now) → Answers .pointSwitch s fun b' => let q := b'.pow
          let hold : Prop := u = true ∨ c.at_ ≤ p.relTime
          OnlyPower b b' ∧ q.committed = c.point ∧ q.commit = none ∧ q.rampFrom = none ∧ q.slowPoint = 0 ∧ (u = false → q.volt = some (pointMv c.point)) ∧
          (q.alertEmer = true ↔ p.alertEmer = true ∧ hold) ∧ (q.heatEmer = true ↔ p.heatEmer = true ∧ hold) ∧
          (u = false → q.alertEmer = false → q.heatEmer = false → q.point = c.point) ∧ (u = true ∨ q.alertEmer = true ∨ q.heatEmer = true → q.point = 7)))) ∧
    (jobEn b = true → isReady b = true → p.commitAt + 1000000 * silentMs b ≤ b.now → Answers .lockSilent s fun b' => OnlyPower b b' ∧ b'.pow.committed = p.committed ∧
      b'.pow.lock = 3 ∧ (max p.committed p.slowPoint < r → b'.pow.slowPoint = r ∧ (emergency b = false → b'.pow.point = r)) ∧
      (r ≤ max p.committed p.slowPoint → b'.pow.slowPoint = p.slowPoint ∧ b'.pow.point = p.point))) ∧
  (∀ b : Block, let cur := match b.pow.lastSent with | some c => c.point | none => b.pow.committed
    let nodes := if jobEn b = true then members b else [0]
    let req (n : Nat) : Nat := match b.pow.reqs.find? (fun x => x.1 == n) with
      | some (_, r, _, t) => if t + 1000000 * silentMs b < b.now ∧ jobEn b = true then cur else r
      | none => cur
    let sn := match b.pow.lastSent with | some c => max c.serial b.pow.serial | none => b.pow.serial
    let slow := if nodes = [] then cur else (nodes.map req).foldl max 0
    (slow = cur → (masterEval b).pow.lastSent = b.pow.lastSent) ∧
    (slow ≠ cur → (masterEval b).pow.lastSent = some { serial := sn + 1, point := slow, at_ := (b.mtime + 1000 * leadUs b) % 2 ^ 64 })) ∧
  (∀ (b : Block) (sn point at_ : Nat), let p := b.pow
    let q := (commitArrive b sn point at_).pow
    let acts : Prop := p.serial < sn ∨ (sn = p.serial ∧ p.slowPoint ≠ 0 ∧ p.commit = none)
    q.commitAt = b.now ∧ q.point = p.point ∧ q.committed = p.committed ∧ (p.lock = 3 → q.lock = if emergency b = true ∧ p.committed < 7 then 2 else 1) ∧ (p.lock ≠ 3 → q.lock = p.lock) ∧
    (acts → q.serial = sn ∧ q.commit = some { serial := sn, point := point, at_ := at_, late := decide (at_ < b.mtime) } ∧ q.volt = some (railMv b) ∧
      q.rampFrom = if p.forced = false ∧ railMv b < pointMv point then some (b.now, railMv b) else none) ∧
    (¬acts → q.serial = p.serial ∧ q.commit = p.commit ∧ q.rampFrom = p.rampFrom))
/-- R436, R439 to R442: the alert wire and the thermal controller. -/
def Obligations.PowerEmergencies : Prop :=
  ∀ s : State, let b := s.blk
    let p := b.pow
    (hubUp b = true → Quiet b → p.alert = none → Answers .pwrAlertAssert s fun b' => b'.pow.point = 7 ∧ b'.pow.alert = some b.now ∧ b'.pow.alertRel = none ∧ b'.pow.alertHold = true ∧
      b'.pow.alertEmer = true ∧ (∀ j, (b'.cell j).store = (b.cell j).store)) ∧
    (∀ (t : Nat) (chat : Bool), p.alert = some t → Answers (.pwrAlertRelease chat) s fun b' => OnlyPower b b' ∧ b'.pow.alert = none ∧ b'.pow.alertRel = some b.now ∧
      b'.pow.committed = p.committed ∧ b'.pow.relTime = b.mtime ∧ b'.pow.point = (if p.alertEmer = true ∨ p.heatEmer = true ∨ p.thEmer = true then 7 else max p.committed p.slowPoint) ∧
      (b'.sec.chatterAlert = true ↔ b.sec.chatterAlert = true ∨ chat = true)) ∧
    (∀ t, isReady b = true → p.alert = some t → (match p.stuckAt with | none => t + 100000000 | some u => u + 10000000000) ≤ b.now → Answers .alertStuck s fun b' =>
      b' = eventPlat (b.modPow fun p => { p with stuckAt := some b.now }) 0 0x0A05 .done 0 chipLoc (detail [(16, 4, (b.now - t) / 1000000000)])) ∧
    (∀ t, p.alertRel = some t → p.alert = none → t + 10000000 ≤ b.now → Answers .causeClear s fun b' => b'.pow.alertHold = false ∧ b'.pow.alertRel = none) ∧
    (∀ t, p.thEmerEnd = some t → p.thEmer = false → t + 10000000 ≤ b.now → Answers .causeClear s fun b' => b'.pow.thEmerEnd = none) ∧
    Answers .causeClear s (fun b' => ({ b' with pow := { b'.pow with alertHold := p.alertHold, alertRel := p.alertRel, thEmerEnd := p.thEmerEnd } } : Block) = b) ∧
    (∀ t : List (List (Option Nat)), tickDue b 6 100000 = true → Quiet b → Answers (.thermalRead t) s fun b' =>
      let lim := thermLimit b
      let q := b'.pow
      let m := q.hotAt.1
      let late : Prop := ∀ x, p.thAt = some x → x + 10000000 ≤ b.now
      (∀ r < 25, (∀ i < 4, bit (mget 0 q.invalid r) i = true ↔ reading t r i = none) ∧ (∀ i < 4, ∀ x, reading t r i = some x → x ≤ mget 0 q.temps r ∧
          x + (if mget 0 q.invalid r = 0 then 0 else 5) ≤ m) ∧ (mget 0 q.temps r = 0 ∨ ∃ i < 4, reading t r i = some (mget 0 q.temps r)) ∧
        mget 0 q.peaks r = max (mget 0 p.peaks r) (mget 0 q.temps r)) ∧
      (lim ≤ m + 5 → late → q.thPoint = min 7 (p.thPoint + 1)) ∧ (lim ≤ m + 5 → ¬late → q.thPoint = p.thPoint) ∧
      (m + 5 < lim → q.thPoint = p.thPoint ∨ (m + 8 < lim ∧ q.thPoint = p.thPoint - 1 ∧ ∃ x, p.thCool = some x ∧ x + 100000000 ≤ b.now)) ∧
      (q.thEmer = true ↔ lim ≤ m + 1 ∨ (p.thEmer = true ∧ lim ≤ m + 6)) ∧ (q.thEmer = true → p.thEmer = false → q.point = 7) ∧ (p.thEmer = true → q.thEmer = false → q.point = p.point ∧ q.heatEmer = true ∧ q.relTime = b.mtime) ∧
      (lim + 5 ≤ m ↔ q.hotSince ≠ none) ∧ b'.regs = b.regs ∧ b'.parts = b.parts) ∧
    (∀ t, p.hotSince = some t → t + 1000000 ≤ b.now → b.hub.fatal = none → Answers .thermalTrip s fun b' => b'.pins.tripped = true ∧
      b'.hub.fatal = some (4, regionLoc p.hotAt.2.1, b.now) ∧ Msg.pin 2 true ∈ b'.sent ∧ b'.cells = mmap {} b.cells fun c => { c with stopped := true })

namespace Sys2Proof.Claims
open Sys2Proof.Machine

/-- A module reset's outcome: every unit is empty, what a reset keeps is kept, the cause is recorded, and boot step 1 begins
where power, references, MOD_RESET_N and the latches allow it (R455, R457, R460, R535). -/
def WasReset (b b' : Block) (cause dom reg : Nat) : Prop :=
  let go : Prop := b.clk.power = true ∧ b.clk.pgood = true ∧ b.clk.latched = false ∧ b.clk.modResetN = true ∧ b.pins.tripped = false ∧ b.clk.absent100.any (·.2) = false
  b'.cells = [] ∧ b'.walkers = [] ∧ b'.parts = [] ∧ b'.entries = [] ∧ b'.rem = {} ∧ b'.fab = {} ∧ b'.sec = {} ∧ b'.regs = [] ∧ b'.cnts = [] ∧
  b'.hub.cmds = [] ∧ b'.hub.kw.st = 0 ∧ b'.hub.escal = [] ∧ b'.now = b.now ∧ b'.clk.ready = false ∧ b'.clk.failed = false ∧ b'.clk.cause = cause ∧ b'.clk.causeDom = dom ∧
  b'.clk.causeReg = reg ∧ b'.clk.power = b.clk.power ∧ b'.kept.fwSvn = b.kept.fwSvn ∧ b'.kept.keySvn = b.kept.keySvn ∧ b'.kept.slots = b.kept.slots ∧
  b'.pow = (if b.pins.alert = true ∧ b'.clk.up = true then { alert := some b.now, alertHold := true, alertEmer := true } else {}) ∧ b'.pins.alert = b.pins.alert ∧ b'.pins.ir = (if 4 ≤ b.pins.ir then 1 else b.pins.ir) ∧
  (go → b'.clk.up = true ∧ b'.clk.step = 1 ∧ b'.kept.releases = b.kept.releases + 1 ∧ b'.mtime = 0) ∧ (¬go → b'.clk.up = false ∧ b'.clk.step = 0 ∧ b'.kept = b.kept)
/-- A domain's clock runs and can stop: the module is up, the die has the domain, and it is neither stopped nor in reset. -/
def Clocked (b : Block) (r d : Nat) : Prop := hubUp b = true ∧ hasDom r d = true ∧ (b.dom r d).on = true ∧ (b.dom r d).stopped = false ∧ (b.dom r d).inReset = false

end Sys2Proof.Claims

/-- R444 to R446, R449 to R456, R463, R550: references, PLLs, clocks that stop, and domain resets. -/
def Obligations.ClockDomains : Prop :=
  (∀ (r : Fin 25) (s : State), let b := s.blk
    (20 ≤ r.val → r.val < 24 → Quiet b → Answers (.refclkAbsent r true) s fun b' => mget false b'.clk.absent156 r = true ∧ (b'.dom r 3).locked = false ∧
      { b' with clk := b.clk } = b ∧ ∀ q d, domKey q d ≠ domKey r 3 → b'.dom q d = b.dom q d) ∧
    (hubUp b = true → Answers (.refclkAbsent r false) s fun b' => b' = moduleReset (b.modClk fun c => { c with absent100 := mset false c.absent100 r true }) 3 0 0) ∧
    Answers (.refclkReturn r true) s (fun b' => b' = b.modClk fun c => { c with absent156 := mset false c.absent156 r false }) ∧
    Answers (.refclkReturn r false) s (fun b' => b' = bootStart (b.modClk fun c => { c with absent100 := mset false c.absent100 r false }))) ∧
  (∀ (r : Fin 25) (d : Fin 7) (s : State), let b := s.blk
    let x := b.dom r d
    (hubUp b = true → 4 ≤ b.clk.step → hasDom r d = true → x.locked = false → refAbsent b r d = false → let y := pllLock r d b
      (y.dom r d).locked = true ∧ (y.dom r d).on = true ∧ (y.dom r d).stopped = (x.stopped && x.inReset) ∧ (y.dom r d).inReset = x.inReset ∧
      (x.stopped = true → x.inReset = false → d = 0 → b.hub.fatal = none → ∀ k ∈ regionCells r, (y.cell k).stopped = false) ∧
      Answers (.pllLock r d) s fun b' => b' = settled (kwDrainAll (if domHeld y r d = true then y else y.each (y.hub.mreqs.filter fun q => regDomain q.addr == (r.val, d.val)) serveOne))) ∧
    (Clocked b r d →
      (d = 1 ∨ d = 2 ∨ d = 6 → Answers (.clockStopped r d) s fun b' => WasReset b b' 4 d r) ∧
      (d = 0 ∨ d = 3 ∨ d = 4 ∨ d = 5 → Quiet b → Answers (.clockStopped r d) s fun b' => b'.dom r d = { x with locked := false, stopped := true, stopAt := b.now } ∧
        (d = 0 → ∀ k ∈ regionCells r, b'.cell k = { b.cell k with stopped := true }) ∧ (d = 5 → b'.hub.kw.frozen = true ∧ b'.cells = b.cells) ∧
        (d = 3 → ∀ p < 2, (b'.port (r - 20) p).up = false) ∧ (d = 4 → b'.fab = b.fab ∧ b'.cells = b.cells))) ∧
    (x.stopped = true → x.inReset = false → x.stopAt + 1000000 * holdResetMs b ≤ b.now → Answers (.clkStopHoldExpiry r d) s fun b' => b' = settle (enterReset b r d 0)) ∧
    (∀ cause, (x.inReset = true → enterReset b r d cause = b.modDom r d fun x => { x with causes := x.causes ++ [cause] }) ∧
      (x.inReset = false → ((enterReset b r d cause).dom r d).inReset = true ∧ ∀ q ∈ (enterReset b r d cause).hub.mreqs, regDomain q.addr ≠ (r.val, d.val))) ∧
    (x.inReset = true → x.locked = true → refAbsent b r d = false → Answers (.domainResetRelease r d) s fun b' => ∃ y,
      b' = eventPlat y 0 0x0B02 .done 0 (regionLoc r) (detail [(16, 1, d.val), (18, 1, x.causes.headD 0)]) ∧ y.dom r d = { x with inReset := false, stopped := false, causes := [] } ∧
      (d = 0 → ∀ k ∈ regionCells r, (y.cell k).store = [] ∧ (y.cell k).tags = [] ∧ (y.cell k).ranges = [] ∧ (y.cell k).zeroing = false ∧ (b.hub.fatal = none → (y.cell k).stopped = false)) ∧
      (d = 5 → y.hub.kw.st = 1 ∧ y.hub.kw.frozen = false) ∧ (d = 3 → 20 ≤ r.val → r.val < 24 → ∀ p < 2, (y.port (r - 20) p).since = b.now) ∧ (d ≠ 0 → y.cells = b.cells))) ∧
  (∀ (a : Path) (r : Fin 25) (doms : BitVec 7) (s : State), Effects (.domainResetAssert a r doms) s a (regionBase r + 0x90018) doms.toNat fun b =>
    writeDomainReset b r doms.toNat) ∧
  (∀ (r : Fin 25) (lost : BitVec 8) (s : State), let b := s.blk
    calDue b (100 + r) 1000 = true → Answers (.moduleTimeCorrection r lost) s fun b' => mget 0 b'.clk.calib (100 + r) = b.now ∧ b'.cells = b.cells ∧
      (lost = 0 → b' = calMark b (100 + r)) ∧ b'.reg (overAddr r) = Nat.lor (b.reg (overAddr r)) lost.toNat) ∧
  (∀ (e : Fin 4) (zq : Bool) (s : State), let key := 300 + 2 * e.val + (if zq = true then 1 else 0)
    (calDue s.blk key (if zq = true then 32000000 else 1000000) = true → Answers (.memCalibration e zq) s fun b' => b' = calMark s.blk key) ∧
    (calDue s.blk key (if zq = true then 32000000 else 1000000) = false → Answers (.memCalibration e zq) s fun b' => b' = s.blk))
/-- R455, R457, R460 to R463, R527, R528, R535 to R537: module reset and its causes, input power, and start-up step by step. -/
def Obligations.ResetAndBoot : Prop :=
  (∀ (b : Block) (cause dom reg : Nat), WasReset b (moduleReset b cause dom reg) cause dom reg) ∧
  (∀ (p : Path) (key : BitVec 8) (s : State), Reaches s.blk p 0xC7F90108 key.toNat →
    (key = 0xA5 → Answers (.moduleReset p key) s fun b' => WasReset s.blk b' 2 0 0) ∧
    (key ≠ 0xA5 → Answers (.moduleReset p key) s fun b' => b' = settled (answered (asked s.blk p) p))) ∧
  (∀ s : State, let b := s.blk
    let c := b.clk
    (hubUp b = true → Answers .modResetNAssert s fun b' => WasReset (b.modClk fun c => { c with modResetN := false }) b' 1 0 0 ∧ b'.clk.up = false) ∧
    (hubUp b = false → Answers .modResetNAssert s fun b' => b' = b.modClk fun c => { c with modResetN := false }) ∧
    Answers .modResetNRelease s (fun b' => b' = bootStart { b with pins := { b.pins with ir := if b.pins.ir = 3 then 1 else b.pins.ir }, clk := { c with modResetN := true } }) ∧
    (c.power = false → c.latched = false → Answers .powerInputRise s fun b' => b'.clk.power = true ∧ b'.clk.powerAt = b.now ∧ b'.clk.pgood = false ∧ b'.clk.up = false ∧ b'.clk.step = 0 ∧
      b'.clk.cause = 0 ∧ b'.cells = [] ∧ b'.kept = b.kept) ∧
    (c.power = true ∨ c.latched = true → Answers .powerInputRise s fun b' => b' = b) ∧
    Answers .powerInputLoss s (fun b' => b'.clk.power = false ∧ b'.clk.latched = false ∧ b'.pins.tripped = false ∧ b'.clk.up = false ∧ b'.cells = [] ∧ b'.kept = b.kept) ∧
    (c.power = true → Answers .overvoltage s fun b' => b'.clk.power = false ∧ b'.clk.latched = true ∧ b'.clk.up = false ∧ b'.cells = [] ∧ b'.kept = b.kept) ∧
    (c.power = false → Answers .overvoltage s fun b' => b' = b) ∧
    (c.power = true → c.failed = false → c.ready = false → (c.up = true ∨ c.pgood = false) → c.stepAt + bootBound c.step < b.now → Answers .bootStepTimeout s fun b' =>
      b'.clk.failed = true ∧ b'.clk.status = Status.timeout.code ∧ Msg.pin 1 true ∈ b'.sent ∧ b'.clk.step = c.step ∧ b'.clk.ready = false)) ∧
  (∀ (st : BitVec 8) (sub : Fin 192) (bad : BitVec 4) (s : State), let b := s.blk
    let c := b.clk
    let does (P : Block → Prop) : Prop := Answers (.bootStepDone st sub bad) s P
    let timed (b' : Block) : Prop := mget 0 b'.clk.times c.step = (b.now - c.stepAt) / 1000
    let late : Prop := c.stepAt + bootBound c.step < b.now
    c.power = true → c.failed = false → c.ready = false → c.up = true ∨ c.pgood = false →
    (late → does fun b' => b'.clk.failed = true ∧ b'.clk.status = Status.timeout.code ∧ b'.clk.subch = 0 ∧ b'.clk.step = c.step ∧ timed b' ∧ Msg.pin 1 true ∈ b'.sent) ∧
    (c.up = false → ¬late → st = 0 → does fun b' => b'.clk.pgood = true ∧ timed b' ∧ (b'.clk.up = true ↔ c.latched = false ∧ c.modResetN = true ∧ b.pins.tripped = false ∧
      c.absent100.any (·.2) = false)) ∧
    (¬late → st ≠ 0 → does fun b' => b'.clk.failed = true ∧ b'.clk.status = (if c.up = true ∧ c.step = 4 then Status.uncorrectable else Status.ofCode st.toNat).code ∧
      b'.clk.subch = (if c.up = true ∧ c.step = 4 then sub.val else 0) ∧ Msg.pin 1 true ∈ b'.sent) ∧
    (c.up = true → ¬late → st = 0 →
      (∀ e, bootEffect b bad.toNat = .error e → does fun b' => b'.clk.failed = true ∧ b'.clk.status = e.code ∧ Msg.pin 1 true ∈ b'.sent) ∧
      (∀ y, bootEffect b bad.toNat = .ok y → c.step ≠ 6 → does fun b' => b'.clk.step = c.step + 1 ∧ b'.clk.stepAt = b.now ∧ timed b' ∧ b'.clk.ready = false ∧
        { b' with clk := y.clk } = y) ∧
      (c.step = 6 → does fun b' => b'.clk.ready = true ∧ timed b' ∧ b'.cells = b.cells ∧ ∃ l, b'.sent = l ++ [.pin 0 true, .pin 1 false])))
/-- R465 to R469, R471, R472, R474, R475, R480, R481: doorbells, rings that are enabled, the answers of the host to DMA requests, the
flits of the Kwasar link with their checks and credits, and the link's state. -/
def Obligations.HostLink : Prop :=
  (∀ (f : Fin 16) (ring : BitVec 2) (idx : BitVec 32) (s : State), let b := s.blk
    let does (P : Block → Prop) : Prop := Answers (.doorbell f ring idx) s P
    (kwUp b = false → does fun b' => b' = b) ∧ (kwUp b = true → ring = 3 → does fun b' => b' = kwCount b 3) ∧ (kwUp b = true → ring ≠ 3 → funcPart b f = none → does fun b' => b' = kwCount b 4) ∧
    (∀ n, kwUp b = true → ring ≠ 3 → funcPart b f = some n → let x := partRing (b.part n) ring.toNat
      let ahead := (idx.toNat + 2 ^ 32 - x.head) % 2 ^ 32
      (x.en = false → does fun b' => b' = kwCount b 4) ∧
      (ring = 0 → x.en = true → x.size < ahead ∨ ahead < (x.tail + 2 ^ 32 - x.head) % 2 ^ 32 → does fun b' => b' = kwCount (ringFault b n 0 .descInvalid 4 idx.toNat) 4) ∧
      (ring = 0 → x.en = true → ahead ≤ x.size → (x.tail + 2 ^ 32 - x.head) % 2 ^ 32 ≤ ahead → does fun b' =>
        b' = fetchAll (b.modPart n fun p => { p with cmd := { p.cmd with tail := idx.toNat } }) n) ∧
      (ring = 1 → x.en = true → does fun b' => b' = postAll (b.modPart n fun p => { p with comp := { p.comp with head := idx.toNat } }) n) ∧
      (ring = 2 → x.en = true → does fun b' => b' = lostPost (b.modPart n fun p => { p with evt := { p.evt with head := idx.toNat } }) n))) ∧
  (∀ (tag st : BitVec 8) (off : BitVec 16) (data : Bytes) (s : State), let b := s.blk
    let o := off.toNat
    let does (P : Block → Prop) : Prop := Answers (.dmaData tag st off data) s P
    kwUp b = true →
    (512 < data.len → does fun b' => b' = settle (kwCount b 3)) ∧ (data.len ≤ 512 → dmaOf b tag.toNat false = none → does fun b' => b' = settle (kwCount b 6)) ∧
    (∀ d, data.len ≤ 512 → dmaOf b tag.toNat false = some d →
      let fits : Prop := o + data.len ≤ d.len ∧ ∀ g ∈ d.got, g.1 + g.2 ≤ o ∨ o + data.len ≤ g.1
      let d' : Dma := { d with got := d.got ++ [(o, data.len)], data := d.data + (data.val % 2 ^ (8 * data.len)) * 2 ^ (8 * o) }
      let y := kwCount (b.modHub fun h => { h with dma := h.dma.map fun x => if x.tag = d.tag then d' else x }) 8 data.len
      (st ≠ 0 → does fun b' => b' = settle (dmaEnd b d (.ofCode st.toNat))) ∧ (st = 0 → ¬fits → does fun b' => b' = settle (dmaEnd (kwCount b 5) d .remoteNak)) ∧
      (st = 0 → fits → (d'.got.map (·.2)).sum = d.len → does fun b' => b' = settle (dmaEnd y d' .done)) ∧ (st = 0 → fits → (d'.got.map (·.2)).sum ≠ d.len → does fun b' => b' = settle y))) ∧
  (∀ (tag st : BitVec 8) (s : State), let b := s.blk
    (kwUp b = true → (dmaOf b tag.toNat true = none → Answers (.dmaWrAck tag st) s fun b' => b' = settle (kwCount b 6)) ∧
      ∀ d, dmaOf b tag.toNat true = some d → Answers (.dmaWrAck tag st) s fun b' => b' = settle (dmaEnd b d (.ofCode st.toNat))) ∧
    (∀ d, b.hub.dma.find? (fun d => d.tag == tag.toNat) = some d → d.sent + 1000 * dmaTimeoutUs b ≤ b.now → Answers (.dmaTimeout tag) s fun b' =>
      b' = settle (dmaEnd (b.modHub fun h => { h with retired := h.retired ++ [(d.tag, b.now + 2000 * dmaTimeoutUs b)] }) d .timeout)) ∧
    Answers (.dmaTagRetireExpiry tag) s fun b' => (∀ r ∈ b'.hub.retired, r.1 ≠ tag.toNat ∨ b.now < r.2) ∧ (∀ r ∈ b.hub.retired, r.1 ≠ tag.toNat → r ∈ b'.hub.retired) ∧ SameBytes b b') ∧
  (∀ (a : Path) (n : Fin 16) (r : Fin 3) (cfg : BitVec 16) (s : State), let v := cfg.toNat / 2 * 2 + 1
    Writes (.ringEnable a (n.castSucc) r cfg) s a (0xC7FA0008 + 0x100 * n + 0x20 * r) v (fun b => writeRingCfg b n r v) ∧
    Writes (.ringEnable a 16 r cfg) s a 0xC7FA1008 v fun b => writePlatCfg b v) ∧
  (∀ (b : Block) (n : Fin 16) (r : Fin 3) (v : Nat), let x := partRing (b.part n) r
    let y := b.modPart n fun p => setRing p r (x.config v)
    bit v 0 = true → bit v 16 = false →
    (x.en = true → writeRingCfg b n r v = b) ∧
    (∀ k st, x.en = false → ringCheck y n r (x.config v) = some (k, st) → (partRing ((writeRingCfg b n r v).part n) r).fault = true ∧ (partRing ((writeRingCfg b n r v).part n) r).en = false) ∧
    (x.en = false → ringCheck y n r (x.config v) = none → let z := partRing ((writeRingCfg b n r v).part n) r
      z.en = true ∧ z.head = 0 ∧ z.tail = 0 ∧ z.base = x.base ∧ z.log2 = clamp 6 16 (bits v 2 5) ∧ z.space = bit v 1)) ∧
  (∀ s : State, let b := s.blk
    let k := b.hub.kw
    (∀ cause : Fin 3, k.st = 2 → Answers (.kwLinkDown cause) s fun b' => b' = settle (kwFlush (kwTo b 3 (cause.val + 1)))) ∧
    (∀ cause : Fin 3, k.st = 3 → k.since + 1000000 ≤ b.now → Answers (.kwLinkDown cause) s fun b' => b' = settle (kwTo b 4 0)) ∧
    (∀ (rev : BitVec 8) (funcs : Fin 17), k.st = 1 ∨ k.st = 3 → domHeld b 24 5 = false → Answers (.kwLinkUp rev funcs) s fun b' => b'.hub.kw.st = 2 ∧ b'.hub.kw.since = b.now ∧
      (k.st = 1 → b'.hub.kw.rev = rev.toNat ∧ b'.hub.kw.funcs = funcs) ∧ (k.st = 3 → b'.hub.kw.rev = k.rev ∧ b'.hub.kw.funcs = k.funcs) ∧ b'.cells = b.cells ∧
      (b'.link 24).q = [] ∧ ∀ f ∈ (b.link 24).replay, Msg.snd 24 1 (272, flitWire f.bytes) ∈ b'.sent) ∧
    (domHeld b 24 5 = false → (k.st = 1 ∧ k.since + 20000000 ≤ b.now) ∨ (k.st = 4 ∧ k.since + 100000 ≤ b.now) → Answers .kwTrainTimeout s fun b' => b' = kwTo b 1 0) ∧
    (let gain (i : Nat) : Nat := b.cnt (0xC7FA7800 + 8 * i) - k.posted.getD i 0
     (∀ t, k.postAt = some t → t + 10000000 ≤ b.now) → (∃ i < 7, gain i ≠ 0) → Answers .kwViolation s fun b' => ∃ y, b' = eventPlat y 0 0x0C04 .done 0 chipLoc
        (detail ((List.range 7).map fun i => (16 + 2 * i, 2, min 65535 (gain i)))) ∧ { y with hub := b.hub } = b ∧ (∀ i < 7, y.hub.kw.posted.getD i 0 = b.cnt (0xC7FA7800 + 8 * i)) ∧
        y.hub.kw.postAt = some b.now)) ∧
  (∀ (b : Block) (st cause : Nat), let y := (kwTo b st cause).hub.kw
    y.st = st ∧ y.since = b.now ∧ y.cause = cause ∧ y.rev = b.hub.kw.rev ∧ y.retrains = if st = 1 ∨ st = 3 then min 255 (b.hub.kw.retrains + 1) else b.hub.kw.retrains) ∧
  (∀ (w : BitVec 2176) (s : State), let b := s.blk
    let does (P : Block → Prop) : Prop := Answers (.flitReceive 24 w) s P
    kwUp b = true → domHeld b 24 5 = false →
    (wireFlit w.toNat = none → does fun b' => b' = settled (nakFlit (kwCount b 0) 24)) ∧
    (∀ f fixes, wireFlit w.toNat = some (f, fixes) →
      let good : Prop := crc64 248 (f % 2 ^ 1984) = bits f 1984 64
      let legal : Prop := bits f 0 4 ≤ 3 ∧ bits f 28 3 ≤ 3 ∧ (bits f 41 5 ≤ 14 ∨ bits f 41 5 = 31)
      let z := b.modLink 24 fun l => { (l.acked (bits f 16 12)) with goodAt := b.now, credits := mmod 0 l.credits (bits f 28 3) (· - bits f 31 10) }
      let next : Prop := bits f 0 4 = 1 ∧ bits f 4 12 = (z.link 24).rxSeq
      (¬good → does fun b' => b' = settled (nakFlit (kwCount b 0) 24)) ∧ (good → ¬legal → does fun b' => b' = settled (nakFlit (kwCount b 1) 24)) ∧
      (good → legal → next → does fun b' => b' = settled (kwDrainAll (sendCtl (kwSlots (bits f 41 5) (List.range 15) (bits f 64 1920)
        (z.modLink 24 fun l => { l with rxSeq := (l.rxSeq + 1) % 4096 })) 24 0 0 0 0))) ∧
      (good → legal → bits f 0 4 = 2 → does fun b' => b' = settled (kwNak z)) ∧ (good → legal → bits f 0 4 ≠ 2 → ¬next → does fun b' => b' = settled z))) ∧
  (∀ b : Block, let l := (b.link 24).replay
    let y := kwNak b
    ((∃ f ∈ l, 9 ≤ f.sends) → y = kwFlush (kwTo b 3 1)) ∧
    ((∀ f ∈ l, f.sends < 9) → y.sent = b.sent ++ l.map (fun f => .snd 24 1 (272, flitWire f.bytes)) ∧ (y.link 24).replay = l.map (fun f => { f with sends := f.sends + 1 }) ∧
      y.hub = b.hub ∧ y.cnt 0xC7FA7838 % 2 ^ 64 = (b.cnt 0xC7FA7838 + l.length) % 2 ^ 64)) ∧
  (∀ b : Block, let y := kwPump b
    let l := b.link 24
    let new := (b.sent.drop b.hub.kw.seen).filterMap (kwQueued b.now)
    (kwUp b = false → y = b) ∧
    (kwUp b = true → { y with sent := b.sent, fab := b.fab, hub := b.hub } = b ∧ { y.hub with kw := b.hub.kw } = b.hub ∧ (∀ p < 24, y.link p = b.link p) ∧
      (∃ fs, y.sent = b.sent ++ fs ∧ ∀ m ∈ fs, ∃ f, m = .snd 24 1 (272, flitWire f)) ∧
      (∃ ks : List VcPkt, ∀ vc, (ks ++ (y.link 24).q).filter (·.vc == vc) = (l.q ++ new).filter (·.vc == vc)) ∧
      (∀ vc, mget 0 l.credits vc ≤ 256 → mget 0 (y.link 24).credits vc ≤ 256) ∧ (l.replay.length ≤ 1024 → (y.link 24).replay.length ≤ 1024))) ∧
  (∀ (b : Block) (m : Pkt) (vc : Nat), m.kwVc = some vc → kwUp b = true → let used := mget 0 (b.link 24).rxUsed vc
    let y := kwArrive b m
    (used + m.mCredits ≤ 256 → (y.link 24).rx = (b.link 24).rx ++ [m] ∧ mget 0 (y.link 24).rxUsed vc = used + m.mCredits ∧ y.hub = b.hub) ∧
    (256 < used + m.mCredits → y.hub.kw.st = 3 ∧ y.cnt 0xC7FA7810 = (b.cnt 0xC7FA7810 + 1) % 2 ^ 64))

namespace Sys2Proof.Claims
open Sys2Proof.Machine

/-- The answer of a path's request (R469, R483, R485). -/
def told (b : Block) (p : Path) (w : Bool) (st : Status) (data flags : Nat) : Block :=
  mgmtAnswer b (pathCode p) (pathFunc p) (pathTag p) w st data flags
/-- A command that makes one access of `size` bytes at address `a` has each outcome that R7, R53, R54, R57, R451, R454, R461, R481 and R485
give it: not taken, refused, answered without the register, held for a stopped clock, or performed. -/
def Accesses (i : Instr) (s : State) (p : Path) (a size : Nat) (w : Bool) (v : Nat) (fin : Block → Block) : Prop :=
  let b := s.blk
  let c := asked b p
  let d := b.dom (regDomain a).1 (regDomain a).2
  let heard : Prop := pathOpen b (pathCode p) = true ∧ pathFull b (pathCode p) = false
  let fits : Prop := size = 8 ∧ a % 8 = 0
  let may : Prop := mgmtAllowed b (requester b p) a w = true
  let off := clockOff b (regDomain a).1 (regDomain a).2
  let live : Prop := heard ∧ fits ∧ may ∧ tooEarly b a w v = false ∧ d.inReset = false ∧ off = false
  let does (y : Block) : Prop := Answers i s fun b' => b' = fin y
  (¬heard → does b) ∧
  (heard → pathCode p = 1 → size ≠ 8 → does (told (kwCount c 3) p w .descInvalid 0 0)) ∧
  (heard → pathCode p ≠ 1 ∨ size = 8 → ¬fits → does (told c p w .alignment 0 0)) ∧
  (heard → fits → ¬may → does (told c p w .protection 0 0)) ∧
  (heard → fits → may → regFind a = none → does (told (c.modPath (pathCode p) fun x => { x with unmapped := true }) p w .done 0 1)) ∧
  (heard → fits → may → (regFind a).isSome = true →
    (tooEarly b a w v = true → does (told c p w .timeout 0 0)) ∧
    (tooEarly b a w v = false → d.inReset = true → does (told c p w .linkDown 0 0)) ∧
    (tooEarly b a w v = false → d.inReset = false → off = true → does (c.modHub fun h => { h with mreqs := h.mreqs ++
      [{ path := pathCode p, func := pathFunc p, tag := pathTag p, addr := a, write := w, data := v, at_ := b.now }] }))) ∧
  ∀ r x, regFind a = some (r, x) → live →
    let x' := { x with who := whoPart (requester b p), i3c := pathCode p == 2 }
    let y := r.read x' c
    let z := r.write x' v c
    (w = false → does (told y.2 p w .done y.1 0)) ∧
    (w = true → hubUp z = true → z.kept.releases = b.kept.releases → does (told z p w .done 0 0)) ∧
    (w = true → hubUp z = false ∨ z.kept.releases ≠ b.kept.releases → does z)
/-- The commands of partition `n` and their commit order are consistent: no two commands share an identity, later identities are
new, and a commit order names ended commands of its own partition, each once. -/
def Identified (b : Block) : Prop :=
  (b.hub.cmds.map (·.id)).Nodup ∧ (∀ c ∈ b.hub.cmds, c.id < b.hub.nextId) ∧
  ∀ n, (b.part n).commits.Nodup ∧ ∀ i ∈ (b.part n).commits, i < b.hub.nextId ∧ ∀ c ∈ b.hub.cmds, c.id = i → c.st = .commit ∧ c.part = n
/-- A replay trigger is met: it is counted and reported where the hardware raised it, a parity error that recurs fences the cell. -/
def triggered (b : Block) (k trig : Nat) (r : Run) : Block :=
  let t := if r.replayDue.isSome then r.trigger else trig
  let y := if r.replayDue.isSome then b else trigReport b k t (if r.nonReplay then 3 else 2)
  parityFence (modRun y k fun r => { r with replayDue := none, trigger := t }) k false t

end Sys2Proof.Claims

/-- R7, R52 to R54, R57, R392, R451, R452, R454, R461, R481 to R483, R485: management accesses over the three paths, the I3C common
commands, and the watchdog. -/
def Obligations.Management : Prop :=
  (∀ (p : Path) (a : BitVec 32) (size : BitVec 4) (data : Word) (s : State),
    Accesses (.registerRead p a size) s p a.toNat size.toNat false 0 id ∧
    Accesses (.registerWrite p a size data) s p a.toNat size.toNat true data.toNat settled) ∧
  (∀ (b : Block) (n a : Nat) (w : Bool), mgmtAllowed b .platform a w = true ∧ mgmtAllowed b .nobody a w = false ∧
    (ownUnit b n a = true → mgmtAllowed b (.manager n) a false = true) ∧
    ∀ r x, regFind a = some (r, x) → (r.rd = 1 → mgmtAllowed b (.manager n) a false = true) ∧ (r.wr = 1 → mgmtAllowed b (.manager n) a true = false)) ∧
  (∀ (op seq : BitVec 8) (a : BitVec 32) (data : Option Word) (s : State),
    (op = 1 → data = none → Accesses (.i3cRequest op seq a data) s (.i3c seq) a.toNat 8 false 0 id) ∧
    (∀ v, op = 2 → data = some v → Accesses (.i3cRequest op seq a data) s (.i3c seq) a.toNat 8 true v.toNat settled) ∧
    ((op ≠ 1 ∨ data ≠ none) → (op ≠ 2 ∨ data = none) → Answers (.i3cRequest op seq a data) s fun b' => b' = s.blk)) ∧
  (∀ s : State, hubUp s.blk = true → let b := s.blk
    let x := b.hub.i3c
    let does (c : Ccc) (y : I3c) : Prop := Answers (.i3cCcc c) s fun b' => b' = b.modHub fun h => { h with i3c := y }
    let gives (c : Ccc) (v : Nat) : Prop := Answers (.i3cCcc c) s fun b' => b' = b.send (.i3c v)
    (∀ int, does (.enec int) { x with ibi := x.ibi || int } ∧ does (.disec int) { x with ibi := x.ibi && !int }) ∧
    (∀ a, (x.dynAddr = 0 → does (.entdaa a) { x with dynAddr := a.toNat } ∧ does (.setdasa a) { x with dynAddr := a.toNat }) ∧
      (x.dynAddr ≠ 0 → does (.entdaa a) x ∧ does (.setdasa a) x)) ∧
    does .rstdaa { x with dynAddr := 0 } ∧ (∀ n, does (.setmwl n) { x with mwl := n.toNat }) ∧ gives .getmwl x.mwl ∧ gives .getmrl 11 ∧
    (∃ v, v / 2 ^ 16 % 2 ^ 32 = (Config.fuse 0x300).toNat / 65536 % 2 ^ 32 ∧ v % 2 ^ 16 = 0x2580 ∧ gives .getpid v) ∧ gives .getbcr ((Config.fuse 0x301).toNat % 256) ∧
    gives .getdcr ((Config.fuse 0x302).toNat % 256) ∧ Answers (.i3cCcc .getstatus) s fun b' => ∃ v, v < 2 ^ 16 ∧ b' = { b.send (.i3c v) with free := b.free + 1 }) ∧
  (∀ (path : Fin 3) (s : State), let b := s.blk
    let p := b.path path
    let late (r : MReq) : Bool := r.path == path.val && !r.over_ && decide (r.at_ + 10000000 ≤ b.now)
    (b.hub.mreqs.find? late = none → Answers (.mgmtWatchdog path) s fun b' => b' = b) ∧
    ∀ r, b.hub.mreqs.find? late = some r →
      let u := b.modHub fun h => { h with mreqs := h.mreqs.map fun x => if x = r then { x with over_ := true } else x }
      let y := (if r.gone = true then u else mgmtAnswer u path r.func r.tag r.write .timeout 0 0).modPath path fun x =>
        { x with timeouts := satAdd 16 x.timeouts 1, lastAddr := r.addr }
      ((∃ t, p.postAt = some t ∧ b.now < t + 1000000) → Answers (.mgmtWatchdog path) s fun b' => b' = y.modPath path fun x => { x with sup := x.sup + 1 }) ∧
      ((∀ t, p.postAt = some t → t + 1000000 ≤ b.now) → Answers (.mgmtWatchdog path) s fun b' =>
        b' = eventPlat (y.modPath path fun x => { x with postAt := some b.now, sup := 0 }) 0 0x0C05 .timeout 0 chipLoc (detail [(16, 1, path), (18, 4, r.addr), (22, 2, p.sup)]))) ∧
  (∀ rows ∈ [cellRows, walkerRows, hubRows ++ dieRows, purseRows ++ dieRows, remitRows ++ fabricRows ++ dieRows], ∀ r ∈ rows, ∀ (x : RegAt) (b : Block),
    let y := (r.read x b).2
    y.cells = b.cells ∧ y.mem = b.mem ∧ y.regs = b.regs ∧ y.sent = b.sent ∧ y.clk = b.clk ∧ y.kept = b.kept ∧ y.hub.cmds = b.hub.cmds ∧ y.entries = b.entries) ∧
  (∀ (off rd wr reset : Nat) (fix : Nat → Nat) (d1 d2 : Nat × Nat) (x : RegAt) (v : Nat) (b : Block), let r := stored off rd wr reset fix d1 d2
    reset < 2 ^ 64 → (r.read x (r.write x v b)).1 = fix v % 2 ^ 64 ∧ ∀ z : RegAt, z.a ≠ x.a → (r.read z (r.write x v b)).1 = (r.read z b).1)
/-- R495, R499 to R506: reports, certificates and extensions of a partition's attestation, directives, and the staging of firmware. -/
def Obligations.Security : Prop :=
  (∀ (a : Path) (n : Fin 16) (ext : Bool) (s : State),
    Writes (.report a n ext) s a (0xC7FB1080 + 8 * n) (if ext = true then 5 else 1) (fun b => attestCtrl b n (if ext = true then 5 else 1)) ∧
    Writes (.certs a n ext) s a (0xC7FB1080 + 8 * n) (if ext = true then 6 else 2) (fun b => attestCtrl b n (if ext = true then 6 else 2)) ∧
    Writes (.extend a n) s a (0xC7FB1080 + 8 * n) 4 (fun b => attestCtrl b n 4) ∧
    Writes (.submit a) s a 0xC7FB4000 1 fun b => submitDirective b (pathCode a == 2)) ∧
  (∀ (a : Path) (len : BitVec 25) (func : BitVec 4) (s : State), let v := len.toNat + func.toNat * 2 ^ 25
    Writes (.go a len func) s a 0xC7FB4108 (v + 2 ^ 29) fun b => stageGo (b.setReg 0xC7FB4108 0 v)) ∧
  (∀ (b : Block) (n v : Nat), n < 16 → let x := b.attest n
    let d : BitVec 384 := BitVec.ofNat 384 (regs48 b (0xC7FB0800 + 0x40 * n))
    let y := attestCtrl b n v
    let e := if bit v 2 = true then attestCtrl b n 4 else b
    let dst := b.reg (0xC7FB1000 + 8 * n)
    let len := if bit v 0 = true then 3776 else (certBlob e).1
    let data := if bit v 0 = true then attestReport e n else (certBlob e).2
    let fails (st : Status) : Prop := ∃ z, y = event z n 0x0D03 st 0 chipLoc (detail [(16, 1, if bit v 0 = true then 0 else 1), (18, 4, 0)]) ∧ (z.attest n).busy = false ∧
      (z.attest n).status = st.code ∧ z.sec.partMeas = e.sec.partMeas ∧ { z with sec := b.sec } = b
    (x.busy = true → y = b) ∧
    (x.busy = false → bit v 0 = true → bit v 1 = true → { y with sec := b.sec } = b ∧ y.sec.partMeas = b.sec.partMeas ∧ y.attest n = { x with status := Status.descInvalid.code }) ∧
    (x.busy = false → bit v 0 = false → bit v 1 = false → bit v 2 = true → { y with sec := b.sec } = b ∧ mget 0 y.sec.partMeas n = sha3 96 ((mget 0 b.sec.partMeas n).toNat + d.toNat * 2 ^ 384) ∧
      (y.attest n).extends_ = (x.extends_ + 1) % 2 ^ 32 ∧ (y.attest n).status = 0 ∧ ∀ m, m ≠ n → mget 0 y.sec.partMeas m = mget 0 b.sec.partMeas m ∧ y.attest m = b.attest m) ∧
    (x.busy = false → bit v 0 ≠ bit v 1 →
      (inAperture b n dst len = false → fails .protection) ∧
      (inAperture b n dst len = true → dst % 64 ≠ 0 → fails .alignment) ∧
      (inAperture b n dst len = true → dst % 64 = 0 → kwUp b = false → fails .linkDown) ∧
      (inAperture b n dst len = true → dst % 64 = 0 → kwUp b = true → y = dmaWrites n (b.part n).mgrFunc dst (fun l => .sec n l) true (len / 512 + 1) len data
        (e.modAttest n fun a => { a with busy := true, kind := if bit v 0 = true then 0 else 1, left := len, total := len, bad := none })))) ∧
  (∀ (b : Block) (i3c : Bool), let d := b.sec.dirWin.read 0 5488
    let u (k n : Nat) : Nat := bits d (8 * k) (8 * n)
    let y := submitDirective b i3c
    let ends (chk : Nat) (st : Status) : Prop := y.sec.dirCheck = chk ∧ y.sec.dirStatus = st.code ∧ (chk ≠ 0 → y.kept = b.kept ∧ y.sec.meas = b.sec.meas ∧ y.sec.nonce = b.sec.nonce) ∧
      y.cells = b.cells ∧ y.parts = b.parts
    let c1 := directiveForm d = true
    let c2 := u 8 8 = deviceId ∧ u 16 32 = b.sec.nonce.toNat
    let c3 := directiveOwner b d = true
    let c4 := directiveSigned d = true
    (¬c1 → ends 1 .descInvalid) ∧ (c1 → ¬c2 → ends 2 .protection) ∧ (c1 → c2 → ¬c3 → ends 3 .protection) ∧ (c1 → c2 → c3 → ¬c4 → ends 4 .protection) ∧
    (c1 → c2 → c3 → c4 →
      (u 2 1 = 1 → b.sec.imageSvn < u 48 1 ∨ b.sec.manSvn < u 49 1 → ends 5 .protection) ∧
      (u 2 1 = 1 → u 48 1 ≤ b.sec.imageSvn → u 49 1 ≤ b.sec.manSvn → ends 0 .done ∧ fwSvn y = max (fwSvn b) (u 48 1) ∧ keySvn y = max (keySvn b) (u 49 1)) ∧
      (u 2 1 = 2 → debugDisable = true → ends 5 .protection) ∧ (u 2 1 = 2 → debugDisable = false → 32 ≤ debugSessions b → ends 5 .quota) ∧
      (u 2 1 = 2 → debugDisable = false → debugSessions b < 32 → u 50 1 ≠ debugSessions b + 1 → ends 5 .protection) ∧
      (u 2 1 = 2 → debugDisable = false → debugSessions b < 32 → u 50 1 = debugSessions b + 1 → ends 0 .done ∧ y.kept.debugRec = some d ∧ debugSessions y = debugSessions b) ∧
      (u 2 1 = 3 → ownerSlot b = 2 → ends 5 .quota) ∧
      (u 2 1 = 3 → ownerSlot b = 1 → ends 0 .done ∧ y.kept.owner2 = some (BitVec.ofNat 384 (u 64 48)) ∧ y.kept.owner1Rev = true) ∧
      (u 2 1 = 3 → ownerSlot b = 0 → i3c = true → owner1 b = none → owner2 b = none → ends 0 .done ∧ y.kept.owner1 = some (BitVec.ofNat 384 (u 64 48))) ∧
      (u 2 1 = 3 → ownerSlot b = 0 → i3c = false ∨ owner1 b ≠ none ∨ owner2 b ≠ none → ends 5 .protection)) ∧
    (y.sec.dirCheck = 0 → y.sec.nonce = BitVec.ofNat 256 (Config.random b.kept.draws % 2 ^ 256) ∧ y.kept.draws = b.kept.draws + 1 ∧ mget 0 y.sec.meas 4 = measExtend (mget 0 b.sec.meas 4) (sha3 5488 d))) ∧
  (∀ b : Block, let len := stageCtrl b % 2 ^ 25
    let func := stageCtrl b / 2 ^ 25 % 16
    let y := stageGo b
    let x := b.modSec fun s => { s with stage := { busy := true, left := len } }
    let fits : Prop := 16384 ≤ len ∧ len ≤ 16777216
    let fails (st : Status) : Prop := ∃ z, y = eventPlat z 0 0x0D04 st 0 chipLoc (detail [(16, 1, 0xFF)]) ∧ z.sec.stage = { status := st.code } ∧ { z with sec := b.sec } = b
    (b.sec.stage.busy = true → y = b) ∧ (b.sec.stage.busy = false →
      (stageAddr b % 64 ≠ 0 → fails .alignment) ∧ (stageAddr b % 64 = 0 → ¬fits → fails .descInvalid) ∧ (stageAddr b % 64 = 0 → fits → kwUp b = false → fails .linkDown) ∧
      (stageAddr b % 64 = 0 → fits → kwUp b = true → y = stageReads func (len / 4096 + 1) (stageAddr b) 0 len x)))
/-- R505, R513, R516 to R519, R521, R522, R540, R553: replays, recovery, the scrub of LPDDR6, the reset after a module-fatal stop, injected
errors, and the debug port. -/
def Obligations.Reliability : Prop :=
  (∀ (k : Fin 800) (trig : Fin 4) (s : State), let b := s.blk
    let does (y : Block) : Prop := Answers (.replayStart k none trig) s fun b' => b' = settle y
    (runOf b k = none → does (if trig = 1 ∧ (b.cell k).arrq ≠ [] then parityFence b k false 1 else b)) ∧
    ∀ r, runOf b k = some r →
      let known : Prop := r.replayDue.isSome = true
      let t := if known then r.trigger else trig
      let z := triggered b k trig r
      let lim := replayLimit b
      let item := if r.e.kind = .chain then r.rt else r.cur
      let p : PortWrite := if t = 2 then r.port.getD { sent := 0, space := 0, addr := 0 } else
        { sent := 0, stage := if r.e.kind = .chain then chainStage r else 0, space := 0, addr := 0 }
      (r.phase ≠ .running ∨ r.status ≠ .done ∨ (¬known ∧ trig = 2) → does (if trig = 1 ∧ r.phase = .coins ∧ r.status = .done then parityFence b k false 1 else b)) ∧
      (r.phase = .running → r.status = .done → known ∨ trig ≠ 2 →
        (r.nonReplay = true → does (replayEscalate z k t)) ∧
        (r.nonReplay = false → lim ≤ r.replays → r.e.kind = .chain → does (chainFail k (replayExhausted z k r.e.thr r.e.tok r.replays t item 2) (trigStatus t) p.stage p.space p.addr)) ∧
        (r.nonReplay = false → lim ≤ r.replays → r.e.kind ≠ .chain → does (attnFail k (replayExhausted z k r.e.thr r.e.tok r.replays t item 2) (trigStatus t) p.stage p.space p.addr)) ∧
        (r.nonReplay = false → r.replays < lim → let y := modRun (z.count 0xC7FC1820) k fun r => { r with replays := r.replays + 1 }
          (r.e.kind ≠ .chain → does (arrGo (modRun y k attnRestart) k)) ∧ (∀ c, r.e.kind = .chain → chainOf r.e = some c → does (arrGo (chainRestart y k c r) k))))) ∧
  (∀ (b : Block) (k : Nat) (c : Chain) (r q : Run), runOf b k = some q → let y := chainRestart b k c r
    (∃ q', runOf y k = some q' ∧ q'.rt = 0 ∧ q'.ct = 0 ∧ q'.stage = 0 ∧ q'.replays = q.replays ∧ q'.coins = q.coins ∧ q'.pins = q.pins ∧ q'.rows = q.rows) ∧
    (∀ x, (∀ p g, ({ enc := c.hold, len := 1, write := true } : Ext).at_ (b.cell k) = some p → (b.cell k).rangeAt p = some g → ∀ h ∈ r.heldRows, x < g.recBase + 8 * h ∨ g.recBase + 8 * h + 8 ≤ x) →
      (y.cell k).store.byte x = (b.cell k).store.byte x) ∧
    (∀ p g, ({ enc := c.hold, len := 1, write := true } : Ext).at_ (b.cell k) = some p → (b.cell k).rangeAt p = some g →
      ∀ h ∈ r.heldRows, (y.cell k).store.read (g.recBase + 8 * h) 8 = f32negInf) ∧ y.mem = b.mem ∧ ∀ j, j ≠ k → y.cell j = b.cell j) ∧
  (∀ (b : Block) (k thr tok tries trig item unit : Nat), let n := (b.cell k).part
    let y := replayExhausted b k thr tok tries trig item unit
    (y.part n).inRecovery = true ∧ (y.part n).recEnded = ((b.part n).recEnded + 1) % 2 ^ 32 ∧ ((b.part n).inRecovery = false → (y.part n).recStatus = (trigStatus trig).code) ∧
    ((b.part n).inRecovery = true → (y.part n).recStatus = (b.part n).recStatus) ∧ (∀ j, y.cell j = b.cell j) ∧ (replayEscalate b k trig).hub.escal = b.hub.escal ++ [(0, n, trig)]) ∧
  (∀ (k : Fin 800) (i : Fin 8) (trig : Fin 4) (s : State), let b := s.blk
    let does (y : Block) : Prop := Answers (.replayStart k (some i) trig) s fun b' => b' = settle y
    ((b.cell k).bankq[i.val]? = none → does b) ∧
    ∀ e, (b.cell k).bankq[i.val]? = some e →
      let z := parityFence (trigReport b k trig 2) k true trig
      (e.started = false ∨ 2 ≤ e.op ∨ trig = 2 → does b) ∧
      (e.started = true → e.op < 2 → trig ≠ 2 →
        (replayLimit b ≤ e.replays → does ((replayExhausted z k e.thr e.tok e.replays trig 0 3).modCell k fun c =>
          ({ c with bankq := c.bankq.filter (·.id != e.id) } : Cell).tokenDone e.thr e.tok (trigStatus trig) {})) ∧
        (e.replays < replayLimit b → does ((z.count 0xC7FC1820).modCell k fun c => { c with bankq := c.bankq.map fun x => if x.id = e.id then
          { x with due := b.cycles + (x.due - x.run), run := b.cycles, replays := x.replays + 1, trigger := trig } else x })))) ∧
  (∀ (n : Fin 16) (r : Rec) (s : State), Starts1 s.blk n r 0x30 →
    let t := taken s.blk n r
    let id := s.blk.cmdId
    (¬Body r [] → Answers (.recoveryDone n r) s fun b' => b' = finish t id .descInvalid) ∧
    (Body r [] → (t.part n).inRecovery = false → Answers (.recoveryDone n r) s fun b' => b' = finish t id .done) ∧
    (Body r [] → (t.part n).inRecovery = true → Answers (.recoveryDone n r) s fun b' => (b'.part n).inRecovery = false ∧ (b'.part n).recEnded = 0 ∧ (b'.part n).recStatus = 0 ∧
      (∃ c, cmdOf b' id = some c ∧ c.status = .done ∧ c.result = (t.part n).recEnded) ∧ b'.cells = t.cells ∧ ∀ m, m ≠ n.val → (b'.part m).inRecovery = (t.part m).inRecovery)) ∧
  (∀ (e : Fin 4) (s : State), let b := s.blk
    let page := mget 0 b.hub.scrubPos e
    let base := pageMpa (pageKey e page)
    let due := isReady b = true ∧ calDue b (400 + e) (86400000000000 / Config.pagesPerEdie) = true
    (¬due → Answers (.memScrub e) s fun b' => b' = b) ∧
    (due → Answers (.memScrub e) s fun b' => mget 0 b'.hub.scrubPos e = (if page + 1 < Config.pagesPerEdie then page + 1 else 0) ∧ b'.cells = b.cells ∧
      (b.hub.platEvt.en = false → mwf 0 b.merr = true → ∀ w, mget 0 b'.merr w = if 8 * w < base ∨ base + 2 ^ 21 ≤ 8 * w then mget 0 b.merr w else match readWord 0 (mget 0 b.merr w) with
        | .bad _ => if weightPage b (pageKey e (8 * w % 2 ^ 38 / 2 ^ 21)) = true then poisonFlips else mget 0 b.merr w
        | .corrected _ _ => 0
        | .clean _ => mget 0 b.merr w))) ∧
  (∀ s : State, let b := s.blk
    (b.hub.fatal = none → Answers .fatalResetTimer s fun b' => b' = settle b) ∧
    ∀ cause loc at_, b.hub.fatal = some (cause, loc, at_) → (b.now < at_ + 1000000 → Answers .fatalResetTimer s fun b' => b' = settle b) ∧
      (at_ + 1000000 ≤ b.now → Answers .fatalResetTimer s fun b' => WasReset b b' (if cause = 4 then 5 else 6) 0 0)) ∧
  (∀ (a : Path) (k : Fin 800) (v : Word) (s : State), Writes (.storeInject a k v) s a (cellBase k + 0x30028) v.toNat fun b => writeInject k v.toNat b) ∧
  (∀ (b : Block) (k v : Nat), let f := bits v 23 8
    let g := bits v 31 8
    (bit v 39 = true → f < 72 → g < 72 ∨ g = 0xFF → writeInject k v b = b.modCell k fun c => { c with inject := some { off := v % 2 ^ 23 / 8 * 8, flip0 := f, flip1 := g } }) ∧
    (bit v 39 = false → writeInject k v b = b)) ∧
  (∀ (i : Fin 6) (s : State), let b := s.blk
    let held : Prop := b.pins.trstAt ≠ 0 ∧ b.now < b.pins.trstAt + 1000
    let allowed : Prop := i.val < 3 ∨ (i = 3 ∧ b.clk.modResetN = false) ∨ (4 ≤ i.val ∧ b.sec.debugActive = true)
    (held → Answers (.jtagInstruction i) s fun b' => b' = b) ∧
    (¬held → Answers (.jtagInstruction i) s fun b' => { b' with pins := b.pins } = b ∧ (allowed → b'.pins = { b.pins with ir := i }) ∧ (¬allowed → b'.pins = { b.pins with ir := 1 }))) ∧
  (∀ (chat : Bool) (s : State), Answers (.trstNAssert chat) s fun b' => b'.pins = { s.blk.pins with ir := 0, trstAt := s.blk.now } ∧
    b'.sec = { s.blk.sec with chatterTrst := s.blk.sec.chatterTrst || chat } ∧ { b' with pins := s.blk.pins, sec := s.blk.sec } = s.blk)
/-- A step takes the command at the front of the queue and runs it with the rest of the queue left; with nothing waiting 2 ns pass
and the Kwasar link sends what it can (the model's choice: assumptions 2 and 105). -/
def Obligations.ModuleStep : Prop :=
  (∀ (c : Instr) (rest : List Instr) (s : State), s.pending = c :: rest → step s = exec c { s with pending := rest }) ∧
  ∀ s : State, s.pending = [] → ∃ t u, step s = .next t ∧ t.pending = [] ∧ t.blk = kwPump u ∧ u.now = s.blk.now + 2 ∧ u.aclk = s.blk.aclk + 2 * pointMhz s.blk.pow.point ∧
    { u with now := s.blk.now, aclk := s.blk.aclk, mtOff := s.blk.mtOff, clk := s.blk.clk } = s.blk ∧ (s.blk.clk.slew = 0 → u.mtOff = s.blk.mtOff ∧ u.clk = s.blk.clk)
/-- R69, R546: every well-formed instruction of a cell has one 64-bit word, that word decodes to it, and a word that decodes is the
word of what it decodes to. -/
def Obligations.WordRoundTrip : Prop :=
  (∀ (i : Instr) (w : Nat), i.wf = true → i.word = some w → w < 2 ^ 64 ∧ ∃ k t, decodeWord k t w = some i) ∧
  ∀ (k : Fin 800) (t : Fin 8) (w : Nat) (i : Instr), w < 2 ^ 64 → decodeWord k t w = some i → i.word = some w ∧ i.wf = true
/-- Every step answers a next state and keeps LPDDR6, and the list of its words in error, in their one form: addresses rise and nothing
that equals the default is listed. -/
def Obligations.CanonicalMemory : Prop :=
  ∀ s : State, s.memWf = true → mwf 0 s.blk.merr = true → ∃ t, step s = .next t ∧ t.pending = s.pending.tail ∧ t.memWf = true ∧ mwf 0 t.blk.merr = true
/-- R393, R395: every step keeps the commands in progress distinct and each partition's commit order a list of its own ended commands. -/
def Obligations.CommandIdentities : Prop :=
  ∀ s t : State, Identified s.blk → step s = .next t → Identified t.blk
/-- The machine before power comes: no unit holds anything, the registers that have a value of their own read it, nothing waits, and the
invariants hold. -/
def Obligations.ResetState : Prop :=
  let s := State.reset
  let b := s.blk
  s.pending = [] ∧ s.memWf = true ∧ mwf 0 b.merr = true ∧ Identified b ∧ (∀ k, b.cell k = {}) ∧ (∀ a, b.mem.byte a = 0) ∧ (∀ n, (b.part n).st = .free ∧ (b.part n).cmd.en = false) ∧
  (∀ k t r, (b.thread k t).st = .idle ∧ (b.thread k t).sr r = 0) ∧ b.clk.up = false ∧ b.clk.ready = false ∧ b.clk.power = false ∧ b.hub.cmds = [] ∧ b.hub.fatal = none ∧ b.sent = [] ∧
  ∀ x ∈ [(0x00030008, 50000 + 2 ^ 20), (0x00040008, 4), (0x00040010, 1000), (0x00050008, 4), (0x00050010, 1000), (0x00010008 + 0x7F00000, 4095), (0xC7FA7008, 2000),
    (0xC7F80000, 4800 + 5600 * 2 ^ 13 + 95 * 2 ^ 26), (0xC7F90218, 20), (0xC7FC1000, 2 + 4 * 256 + 3600 * 65536), (0xC7F5C200, 10)], (regAccess b none false x.1 false 0).1 = x.2

end
end

