-- ==== Sys2Proof/Laws/Map.lean ====
section
/-!
SUPPORT. Laws/Map.lean: read after write, and that every operation keeps the canonical form of maps and of byte memory.
-/
namespace Sys2Proof.Machine

variable {α : Type} [DecidableEq α] {d v : α} {m : Map α} {i j lo hi n : Nat}

theorem mget_mput (d : α) (m : Map α) (i : Nat) (v : α) (j : Nat) :
    mget d (mput m i v) j = if j = i then v else mget d m j := by
  induction m with
  | nil => simp [mput, mget]
  | cons e m ih =>
    obtain ⟨k, w⟩ := e
    simp only [mput]
    split
    · simp [mget]
    · split
      · subst_vars; by_cases h : j = k <;> simp [mget, h]
      · by_cases h : j = k
        · subst h; simp [mget]; omega
        · simp [mget, h, ih]

omit [DecidableEq α] in
theorem mget_filter_ne (d : α) (m : Map α) (i j : Nat) :
    mget d (m.filter fun e => decide (e.1 ≠ i)) j = if j = i then d else mget d m j := by
  induction m with
  | nil => simp [mget]
  | cons e m ih =>
    obtain ⟨k, w⟩ := e
    simp only [List.filter_cons]
    by_cases hk : k = i
    · subst hk; by_cases hj : j = k <;> simp_all [mget]
    · by_cases hj : j = k
      · subst hj; simp [mget, hk]
      · simp [mget, hk, hj] at *; exact ih

/-- Read after write. -/
theorem mget_mset (d : α) (m : Map α) (i : Nat) (v : α) (j : Nat) :
    mget d (mset d m i v) j = if j = i then v else mget d m j := by
  unfold mset
  split
  · rename_i h; subst h; exact mget_filter_ne v m i j
  · exact mget_mput d m i v j
@[simp] theorem mget_mset_same : mget d (mset d m i v) i = v := by simp [mget_mset]
theorem mget_mset_ne (h : j ≠ i) : mget d (mset d m i v) j = mget d m j := by simp [mget_mset, h]
omit [DecidableEq α] in
@[simp] theorem mget_nil : mget d ([] : Map α) i = d := rfl

omit [DecidableEq α] in
/-- Reading after a clear. -/
theorem mget_mclear (d : α) (m : Map α) (lo hi j : Nat) :
    mget d (mclear m lo hi) j = if lo ≤ j ∧ j < hi then d else mget d m j := by
  unfold mclear
  induction m with
  | nil => simp [mget]
  | cons e m ih =>
    obtain ⟨k, w⟩ := e
    simp only [List.filter_cons]
    by_cases hk : k < lo ∨ hi ≤ k
    · by_cases hj : j = k
      · subst hj
        have : ¬(lo ≤ j ∧ j < hi) := by omega
        simp [mget, hk, this]
      · simp [mget, hk, hj] at *; exact ih
    · by_cases hj : j = k
      · subst hj
        have h2 : lo ≤ j ∧ j < hi := by omega
        simp [hk, h2] at *; exact ih
      · simp [mget, hk, hj] at *; exact ih

/-! The canonical form. -/
theorem mwfFrom_mono {lo lo' : Nat} (h : lo' ≤ lo) (hm : mwfFrom d lo m = true) : mwfFrom d lo' m = true := by
  cases m with
  | nil => rfl
  | cons e m => simp [mwfFrom] at *; exact ⟨⟨by omega, hm.1.2⟩, hm.2⟩

theorem mwfFrom_filter (p : Nat × α → Bool) : ∀ {m : Map α} {lo : Nat}, mwfFrom d lo m = true → mwfFrom d lo (m.filter p) = true
  | [], _, _ => rfl
  | (k, w) :: m, lo, h => by
    simp [mwfFrom] at h
    have ih := mwfFrom_filter p h.2
    simp only [List.filter_cons]
    split
    · simp [mwfFrom, h.1, ih]
    · exact mwfFrom_mono (by omega) ih

theorem mwfFrom_mput (hv : v ≠ d) : ∀ {m : Map α} {lo : Nat}, lo ≤ i → mwfFrom d lo m = true → mwfFrom d lo (mput m i v) = true
  | [], lo, hi, _ => by simp [mput, mwfFrom, hi, hv]
  | (k, w) :: m, lo, hi, h => by
    simp [mwfFrom] at h
    simp only [mput]
    split
    · simp [mwfFrom, hi, hv, h]; omega
    · split
      · subst_vars; simp [mwfFrom, hv, h]
      · simp [mwfFrom, h.1, mwfFrom_mput hv (show k + 1 ≤ i by omega) h.2]

theorem mwf_mset (h : mwf d m = true) : mwf d (mset d m i v) = true := by
  unfold mset
  split
  · exact mwfFrom_filter _ h
  · exact mwfFrom_mput ‹_› (Nat.zero_le _) h
theorem mwf_mclear (h : mwf d m = true) : mwf d (mclear m lo hi) = true := mwfFrom_filter _ h

/-! Byte memory. -/
theorem Memory.byte_setByte (m : Memory) (a : Nat) (v : Byte) (x : Nat) :
    (m.setByte a v).byte x = if x = a then v else m.byte x := mget_mset _ _ _ _ _
theorem Memory.byte_zero (m : Memory) (a n x : Nat) :
    (m.zero a n).byte x = if a ≤ x ∧ x < a + n then 0 else m.byte x := mget_mclear _ _ _ _ _
/-- A byte outside the written range keeps its value; byte `x` inside is byte `x - a` of the value. -/
theorem Memory.byte_write : ∀ (n : Nat) (m : Memory) (a v x : Nat),
    (m.write a n v).byte x = if a ≤ x ∧ x < a + n then BitVec.ofNat 8 (v / 256 ^ (x - a)) else m.byte x
  | 0, m, a, v, x => by
    have : ¬(a ≤ x ∧ x < a + 0) := by omega
    simp only [Memory.write, this, if_false]
  | n + 1, m, a, v, x => by
    rw [Memory.write, Memory.byte_write n, Memory.byte_setByte]
    by_cases h : x = a
    · subst h
      have h1 : ¬(x + 1 ≤ x ∧ x < x + 1 + n) := by omega
      have h2 : x ≤ x ∧ x < x + (n + 1) := by omega
      simp [h2]
    · by_cases h1 : a + 1 ≤ x ∧ x < a + 1 + n
      · have h2 : a ≤ x ∧ x < a + (n + 1) := by omega
        have h3 : x - a = (x - (a + 1)) + 1 := by omega
        simp only [h1, h2, and_self, if_true, h3, pow_succ, Nat.div_div_eq_div_mul, Nat.mul_comm]
      · have h2 : ¬(a ≤ x ∧ x < a + (n + 1)) := by omega
        simp only [h1, h2, h, if_false]
theorem Memory.wf_setByte {m : Memory} {a : Nat} {v : Byte} (h : m.wf = true) : (m.setByte a v).wf = true := mwf_mset h
theorem Memory.wf_zero {m : Memory} {a n : Nat} (h : m.wf = true) : (m.zero a n).wf = true := mwf_mclear h
theorem Memory.wf_write : ∀ {n : Nat} {m : Memory} {a v : Nat}, m.wf = true → (m.write a n v).wf = true
  | 0, _, _, _, h => h
  | _ + 1, _, _, _, h => by unfold Memory.write; exact Memory.wf_write (Memory.wf_setByte h)
theorem Memory.wf_writeMask : ∀ {n : Nat} {m : Memory} {a v k : Nat}, m.wf = true → (m.writeMask a n v k).wf = true
  | 0, _, _, _, _, h => h
  | _ + 1, _, _, _, _, h => by
    unfold Memory.writeMask
    exact Memory.wf_writeMask (by split; exacts [Memory.wf_setByte h, h])
/-- Reading one range after writing another that does not meet it. -/
theorem Memory.read_congr {m m' : Memory} : ∀ {n a : Nat}, (∀ x, a ≤ x → x < a + n → m.byte x = m'.byte x) → m.read a n = m'.read a n
  | 0, _, _ => rfl
  | n + 1, a, h => by
    simp only [Memory.read]
    rw [h a (by omega) (by omega), Memory.read_congr (n := n) (a := a + 1) fun x h1 h2 => h x (by omega) (by omega)]
theorem Memory.read_lt (m : Memory) : ∀ (n a : Nat), m.read a n < 256 ^ n
  | 0, _ => by simp [Memory.read]
  | n + 1, a => by
    have h1 := Memory.read_lt m n (a + 1)
    have h2 : (m.byte a).toNat < 256 := (m.byte a).isLt
    have h3 : 256 ^ (n + 1) = 256 * 256 ^ n := by rw [pow_succ, Nat.mul_comm]
    simp only [Memory.read]; omega

end Sys2Proof.Machine
end

