-- ==== Sys2Proof/Laws/State.lean ====
section
/-!
SUPPORT. Laws/State.lean: what each update of the state leaves, field by field, so that no proof unfolds a record update,
and what each unit reads after an update of its kind.
-/
namespace Sys2Proof.Machine

/-! Block.setCell. -/
@[simp] theorem Block.setCell_now (b : Block) (n : Nat) (c : Cell) : (b.setCell n c).now = b.now := rfl
@[simp] theorem Block.setCell_aclk (b : Block) (n : Nat) (c : Cell) : (b.setCell n c).aclk = b.aclk := rfl
@[simp] theorem Block.setCell_mtOff (b : Block) (n : Nat) (c : Cell) : (b.setCell n c).mtOff = b.mtOff := rfl
@[simp] theorem Block.setCell_walkers (b : Block) (n : Nat) (c : Cell) : (b.setCell n c).walkers = b.walkers := rfl
@[simp] theorem Block.setCell_parts (b : Block) (n : Nat) (c : Cell) : (b.setCell n c).parts = b.parts := rfl
@[simp] theorem Block.setCell_entries (b : Block) (n : Nat) (c : Cell) : (b.setCell n c).entries = b.entries := rfl
@[simp] theorem Block.setCell_hub (b : Block) (n : Nat) (c : Cell) : (b.setCell n c).hub = b.hub := rfl
@[simp] theorem Block.setCell_rem (b : Block) (n : Nat) (c : Cell) : (b.setCell n c).rem = b.rem := rfl
@[simp] theorem Block.setCell_fab (b : Block) (n : Nat) (c : Cell) : (b.setCell n c).fab = b.fab := rfl
@[simp] theorem Block.setCell_pow (b : Block) (n : Nat) (c : Cell) : (b.setCell n c).pow = b.pow := rfl
@[simp] theorem Block.setCell_clk (b : Block) (n : Nat) (c : Cell) : (b.setCell n c).clk = b.clk := rfl
@[simp] theorem Block.setCell_sec (b : Block) (n : Nat) (c : Cell) : (b.setCell n c).sec = b.sec := rfl
@[simp] theorem Block.setCell_kept (b : Block) (n : Nat) (c : Cell) : (b.setCell n c).kept = b.kept := rfl
@[simp] theorem Block.setCell_pins (b : Block) (n : Nat) (c : Cell) : (b.setCell n c).pins = b.pins := rfl
@[simp] theorem Block.setCell_regs (b : Block) (n : Nat) (c : Cell) : (b.setCell n c).regs = b.regs := rfl
@[simp] theorem Block.setCell_cnts (b : Block) (n : Nat) (c : Cell) : (b.setCell n c).cnts = b.cnts := rfl
@[simp] theorem Block.setCell_mem (b : Block) (n : Nat) (c : Cell) : (b.setCell n c).mem = b.mem := rfl
@[simp] theorem Block.setCell_merr (b : Block) (n : Nat) (c : Cell) : (b.setCell n c).merr = b.merr := rfl
@[simp] theorem Block.setCell_sent (b : Block) (n : Nat) (c : Cell) : (b.setCell n c).sent = b.sent := rfl
@[simp] theorem Block.setCell_free (b : Block) (n : Nat) (c : Cell) : (b.setCell n c).free = b.free := rfl
/-! Block.modCell. -/
@[simp] theorem Block.modCell_now (b : Block) (n : Nat) (f : Cell → Cell) : (b.modCell n f).now = b.now := rfl
@[simp] theorem Block.modCell_aclk (b : Block) (n : Nat) (f : Cell → Cell) : (b.modCell n f).aclk = b.aclk := rfl
@[simp] theorem Block.modCell_mtOff (b : Block) (n : Nat) (f : Cell → Cell) : (b.modCell n f).mtOff = b.mtOff := rfl
@[simp] theorem Block.modCell_walkers (b : Block) (n : Nat) (f : Cell → Cell) : (b.modCell n f).walkers = b.walkers := rfl
@[simp] theorem Block.modCell_parts (b : Block) (n : Nat) (f : Cell → Cell) : (b.modCell n f).parts = b.parts := rfl
@[simp] theorem Block.modCell_entries (b : Block) (n : Nat) (f : Cell → Cell) : (b.modCell n f).entries = b.entries := rfl
@[simp] theorem Block.modCell_hub (b : Block) (n : Nat) (f : Cell → Cell) : (b.modCell n f).hub = b.hub := rfl
@[simp] theorem Block.modCell_rem (b : Block) (n : Nat) (f : Cell → Cell) : (b.modCell n f).rem = b.rem := rfl
@[simp] theorem Block.modCell_fab (b : Block) (n : Nat) (f : Cell → Cell) : (b.modCell n f).fab = b.fab := rfl
@[simp] theorem Block.modCell_pow (b : Block) (n : Nat) (f : Cell → Cell) : (b.modCell n f).pow = b.pow := rfl
@[simp] theorem Block.modCell_clk (b : Block) (n : Nat) (f : Cell → Cell) : (b.modCell n f).clk = b.clk := rfl
@[simp] theorem Block.modCell_sec (b : Block) (n : Nat) (f : Cell → Cell) : (b.modCell n f).sec = b.sec := rfl
@[simp] theorem Block.modCell_kept (b : Block) (n : Nat) (f : Cell → Cell) : (b.modCell n f).kept = b.kept := rfl
@[simp] theorem Block.modCell_pins (b : Block) (n : Nat) (f : Cell → Cell) : (b.modCell n f).pins = b.pins := rfl
@[simp] theorem Block.modCell_regs (b : Block) (n : Nat) (f : Cell → Cell) : (b.modCell n f).regs = b.regs := rfl
@[simp] theorem Block.modCell_cnts (b : Block) (n : Nat) (f : Cell → Cell) : (b.modCell n f).cnts = b.cnts := rfl
@[simp] theorem Block.modCell_mem (b : Block) (n : Nat) (f : Cell → Cell) : (b.modCell n f).mem = b.mem := rfl
@[simp] theorem Block.modCell_merr (b : Block) (n : Nat) (f : Cell → Cell) : (b.modCell n f).merr = b.merr := rfl
@[simp] theorem Block.modCell_sent (b : Block) (n : Nat) (f : Cell → Cell) : (b.modCell n f).sent = b.sent := rfl
@[simp] theorem Block.modCell_free (b : Block) (n : Nat) (f : Cell → Cell) : (b.modCell n f).free = b.free := rfl
/-! Block.modThread. -/
@[simp] theorem Block.modThread_now (b : Block) (n t : Nat) (f : Thread → Thread) : (b.modThread n t f).now = b.now := rfl
@[simp] theorem Block.modThread_aclk (b : Block) (n t : Nat) (f : Thread → Thread) : (b.modThread n t f).aclk = b.aclk := rfl
@[simp] theorem Block.modThread_mtOff (b : Block) (n t : Nat) (f : Thread → Thread) : (b.modThread n t f).mtOff = b.mtOff := rfl
@[simp] theorem Block.modThread_walkers (b : Block) (n t : Nat) (f : Thread → Thread) : (b.modThread n t f).walkers = b.walkers := rfl
@[simp] theorem Block.modThread_parts (b : Block) (n t : Nat) (f : Thread → Thread) : (b.modThread n t f).parts = b.parts := rfl
@[simp] theorem Block.modThread_entries (b : Block) (n t : Nat) (f : Thread → Thread) : (b.modThread n t f).entries = b.entries := rfl
@[simp] theorem Block.modThread_hub (b : Block) (n t : Nat) (f : Thread → Thread) : (b.modThread n t f).hub = b.hub := rfl
@[simp] theorem Block.modThread_rem (b : Block) (n t : Nat) (f : Thread → Thread) : (b.modThread n t f).rem = b.rem := rfl
@[simp] theorem Block.modThread_fab (b : Block) (n t : Nat) (f : Thread → Thread) : (b.modThread n t f).fab = b.fab := rfl
@[simp] theorem Block.modThread_pow (b : Block) (n t : Nat) (f : Thread → Thread) : (b.modThread n t f).pow = b.pow := rfl
@[simp] theorem Block.modThread_clk (b : Block) (n t : Nat) (f : Thread → Thread) : (b.modThread n t f).clk = b.clk := rfl
@[simp] theorem Block.modThread_sec (b : Block) (n t : Nat) (f : Thread → Thread) : (b.modThread n t f).sec = b.sec := rfl
@[simp] theorem Block.modThread_kept (b : Block) (n t : Nat) (f : Thread → Thread) : (b.modThread n t f).kept = b.kept := rfl
@[simp] theorem Block.modThread_pins (b : Block) (n t : Nat) (f : Thread → Thread) : (b.modThread n t f).pins = b.pins := rfl
@[simp] theorem Block.modThread_regs (b : Block) (n t : Nat) (f : Thread → Thread) : (b.modThread n t f).regs = b.regs := rfl
@[simp] theorem Block.modThread_cnts (b : Block) (n t : Nat) (f : Thread → Thread) : (b.modThread n t f).cnts = b.cnts := rfl
@[simp] theorem Block.modThread_mem (b : Block) (n t : Nat) (f : Thread → Thread) : (b.modThread n t f).mem = b.mem := rfl
@[simp] theorem Block.modThread_merr (b : Block) (n t : Nat) (f : Thread → Thread) : (b.modThread n t f).merr = b.merr := rfl
@[simp] theorem Block.modThread_sent (b : Block) (n t : Nat) (f : Thread → Thread) : (b.modThread n t f).sent = b.sent := rfl
@[simp] theorem Block.modThread_free (b : Block) (n t : Nat) (f : Thread → Thread) : (b.modThread n t f).free = b.free := rfl
/-! Block.countC. -/
@[simp] theorem Block.countC_now (b : Block) (n o k : Nat) : (b.countC n o k).now = b.now := rfl
@[simp] theorem Block.countC_aclk (b : Block) (n o k : Nat) : (b.countC n o k).aclk = b.aclk := rfl
@[simp] theorem Block.countC_mtOff (b : Block) (n o k : Nat) : (b.countC n o k).mtOff = b.mtOff := rfl
@[simp] theorem Block.countC_walkers (b : Block) (n o k : Nat) : (b.countC n o k).walkers = b.walkers := rfl
@[simp] theorem Block.countC_parts (b : Block) (n o k : Nat) : (b.countC n o k).parts = b.parts := rfl
@[simp] theorem Block.countC_entries (b : Block) (n o k : Nat) : (b.countC n o k).entries = b.entries := rfl
@[simp] theorem Block.countC_hub (b : Block) (n o k : Nat) : (b.countC n o k).hub = b.hub := rfl
@[simp] theorem Block.countC_rem (b : Block) (n o k : Nat) : (b.countC n o k).rem = b.rem := rfl
@[simp] theorem Block.countC_fab (b : Block) (n o k : Nat) : (b.countC n o k).fab = b.fab := rfl
@[simp] theorem Block.countC_pow (b : Block) (n o k : Nat) : (b.countC n o k).pow = b.pow := rfl
@[simp] theorem Block.countC_clk (b : Block) (n o k : Nat) : (b.countC n o k).clk = b.clk := rfl
@[simp] theorem Block.countC_sec (b : Block) (n o k : Nat) : (b.countC n o k).sec = b.sec := rfl
@[simp] theorem Block.countC_kept (b : Block) (n o k : Nat) : (b.countC n o k).kept = b.kept := rfl
@[simp] theorem Block.countC_pins (b : Block) (n o k : Nat) : (b.countC n o k).pins = b.pins := rfl
@[simp] theorem Block.countC_regs (b : Block) (n o k : Nat) : (b.countC n o k).regs = b.regs := rfl
@[simp] theorem Block.countC_cnts (b : Block) (n o k : Nat) : (b.countC n o k).cnts = b.cnts := rfl
@[simp] theorem Block.countC_mem (b : Block) (n o k : Nat) : (b.countC n o k).mem = b.mem := rfl
@[simp] theorem Block.countC_merr (b : Block) (n o k : Nat) : (b.countC n o k).merr = b.merr := rfl
@[simp] theorem Block.countC_sent (b : Block) (n o k : Nat) : (b.countC n o k).sent = b.sent := rfl
@[simp] theorem Block.countC_free (b : Block) (n o k : Nat) : (b.countC n o k).free = b.free := rfl
/-! Block.modWalker. -/
@[simp] theorem Block.modWalker_now (b : Block) (n : Nat) (f : Walker → Walker) : (b.modWalker n f).now = b.now := rfl
@[simp] theorem Block.modWalker_aclk (b : Block) (n : Nat) (f : Walker → Walker) : (b.modWalker n f).aclk = b.aclk := rfl
@[simp] theorem Block.modWalker_mtOff (b : Block) (n : Nat) (f : Walker → Walker) : (b.modWalker n f).mtOff = b.mtOff := rfl
@[simp] theorem Block.modWalker_cells (b : Block) (n : Nat) (f : Walker → Walker) : (b.modWalker n f).cells = b.cells := rfl
@[simp] theorem Block.modWalker_parts (b : Block) (n : Nat) (f : Walker → Walker) : (b.modWalker n f).parts = b.parts := rfl
@[simp] theorem Block.modWalker_entries (b : Block) (n : Nat) (f : Walker → Walker) : (b.modWalker n f).entries = b.entries := rfl
@[simp] theorem Block.modWalker_hub (b : Block) (n : Nat) (f : Walker → Walker) : (b.modWalker n f).hub = b.hub := rfl
@[simp] theorem Block.modWalker_rem (b : Block) (n : Nat) (f : Walker → Walker) : (b.modWalker n f).rem = b.rem := rfl
@[simp] theorem Block.modWalker_fab (b : Block) (n : Nat) (f : Walker → Walker) : (b.modWalker n f).fab = b.fab := rfl
@[simp] theorem Block.modWalker_pow (b : Block) (n : Nat) (f : Walker → Walker) : (b.modWalker n f).pow = b.pow := rfl
@[simp] theorem Block.modWalker_clk (b : Block) (n : Nat) (f : Walker → Walker) : (b.modWalker n f).clk = b.clk := rfl
@[simp] theorem Block.modWalker_sec (b : Block) (n : Nat) (f : Walker → Walker) : (b.modWalker n f).sec = b.sec := rfl
@[simp] theorem Block.modWalker_kept (b : Block) (n : Nat) (f : Walker → Walker) : (b.modWalker n f).kept = b.kept := rfl
@[simp] theorem Block.modWalker_pins (b : Block) (n : Nat) (f : Walker → Walker) : (b.modWalker n f).pins = b.pins := rfl
@[simp] theorem Block.modWalker_regs (b : Block) (n : Nat) (f : Walker → Walker) : (b.modWalker n f).regs = b.regs := rfl
@[simp] theorem Block.modWalker_cnts (b : Block) (n : Nat) (f : Walker → Walker) : (b.modWalker n f).cnts = b.cnts := rfl
@[simp] theorem Block.modWalker_mem (b : Block) (n : Nat) (f : Walker → Walker) : (b.modWalker n f).mem = b.mem := rfl
@[simp] theorem Block.modWalker_merr (b : Block) (n : Nat) (f : Walker → Walker) : (b.modWalker n f).merr = b.merr := rfl
@[simp] theorem Block.modWalker_sent (b : Block) (n : Nat) (f : Walker → Walker) : (b.modWalker n f).sent = b.sent := rfl
@[simp] theorem Block.modWalker_free (b : Block) (n : Nat) (f : Walker → Walker) : (b.modWalker n f).free = b.free := rfl
/-! Block.countW. -/
@[simp] theorem Block.countW_now (b : Block) (n o k : Nat) : (b.countW n o k).now = b.now := rfl
@[simp] theorem Block.countW_aclk (b : Block) (n o k : Nat) : (b.countW n o k).aclk = b.aclk := rfl
@[simp] theorem Block.countW_mtOff (b : Block) (n o k : Nat) : (b.countW n o k).mtOff = b.mtOff := rfl
@[simp] theorem Block.countW_cells (b : Block) (n o k : Nat) : (b.countW n o k).cells = b.cells := rfl
@[simp] theorem Block.countW_parts (b : Block) (n o k : Nat) : (b.countW n o k).parts = b.parts := rfl
@[simp] theorem Block.countW_entries (b : Block) (n o k : Nat) : (b.countW n o k).entries = b.entries := rfl
@[simp] theorem Block.countW_hub (b : Block) (n o k : Nat) : (b.countW n o k).hub = b.hub := rfl
@[simp] theorem Block.countW_rem (b : Block) (n o k : Nat) : (b.countW n o k).rem = b.rem := rfl
@[simp] theorem Block.countW_fab (b : Block) (n o k : Nat) : (b.countW n o k).fab = b.fab := rfl
@[simp] theorem Block.countW_pow (b : Block) (n o k : Nat) : (b.countW n o k).pow = b.pow := rfl
@[simp] theorem Block.countW_clk (b : Block) (n o k : Nat) : (b.countW n o k).clk = b.clk := rfl
@[simp] theorem Block.countW_sec (b : Block) (n o k : Nat) : (b.countW n o k).sec = b.sec := rfl
@[simp] theorem Block.countW_kept (b : Block) (n o k : Nat) : (b.countW n o k).kept = b.kept := rfl
@[simp] theorem Block.countW_pins (b : Block) (n o k : Nat) : (b.countW n o k).pins = b.pins := rfl
@[simp] theorem Block.countW_regs (b : Block) (n o k : Nat) : (b.countW n o k).regs = b.regs := rfl
@[simp] theorem Block.countW_cnts (b : Block) (n o k : Nat) : (b.countW n o k).cnts = b.cnts := rfl
@[simp] theorem Block.countW_mem (b : Block) (n o k : Nat) : (b.countW n o k).mem = b.mem := rfl
@[simp] theorem Block.countW_merr (b : Block) (n o k : Nat) : (b.countW n o k).merr = b.merr := rfl
@[simp] theorem Block.countW_sent (b : Block) (n o k : Nat) : (b.countW n o k).sent = b.sent := rfl
@[simp] theorem Block.countW_free (b : Block) (n o k : Nat) : (b.countW n o k).free = b.free := rfl
/-! Block.setPart. -/
@[simp] theorem Block.setPart_now (b : Block) (n : Nat) (p : Part) : (b.setPart n p).now = b.now := rfl
@[simp] theorem Block.setPart_aclk (b : Block) (n : Nat) (p : Part) : (b.setPart n p).aclk = b.aclk := rfl
@[simp] theorem Block.setPart_mtOff (b : Block) (n : Nat) (p : Part) : (b.setPart n p).mtOff = b.mtOff := rfl
@[simp] theorem Block.setPart_cells (b : Block) (n : Nat) (p : Part) : (b.setPart n p).cells = b.cells := rfl
@[simp] theorem Block.setPart_walkers (b : Block) (n : Nat) (p : Part) : (b.setPart n p).walkers = b.walkers := rfl
@[simp] theorem Block.setPart_entries (b : Block) (n : Nat) (p : Part) : (b.setPart n p).entries = b.entries := rfl
@[simp] theorem Block.setPart_hub (b : Block) (n : Nat) (p : Part) : (b.setPart n p).hub = b.hub := rfl
@[simp] theorem Block.setPart_rem (b : Block) (n : Nat) (p : Part) : (b.setPart n p).rem = b.rem := rfl
@[simp] theorem Block.setPart_fab (b : Block) (n : Nat) (p : Part) : (b.setPart n p).fab = b.fab := rfl
@[simp] theorem Block.setPart_pow (b : Block) (n : Nat) (p : Part) : (b.setPart n p).pow = b.pow := rfl
@[simp] theorem Block.setPart_clk (b : Block) (n : Nat) (p : Part) : (b.setPart n p).clk = b.clk := rfl
@[simp] theorem Block.setPart_sec (b : Block) (n : Nat) (p : Part) : (b.setPart n p).sec = b.sec := rfl
@[simp] theorem Block.setPart_kept (b : Block) (n : Nat) (p : Part) : (b.setPart n p).kept = b.kept := rfl
@[simp] theorem Block.setPart_pins (b : Block) (n : Nat) (p : Part) : (b.setPart n p).pins = b.pins := rfl
@[simp] theorem Block.setPart_regs (b : Block) (n : Nat) (p : Part) : (b.setPart n p).regs = b.regs := rfl
@[simp] theorem Block.setPart_cnts (b : Block) (n : Nat) (p : Part) : (b.setPart n p).cnts = b.cnts := rfl
@[simp] theorem Block.setPart_mem (b : Block) (n : Nat) (p : Part) : (b.setPart n p).mem = b.mem := rfl
@[simp] theorem Block.setPart_merr (b : Block) (n : Nat) (p : Part) : (b.setPart n p).merr = b.merr := rfl
@[simp] theorem Block.setPart_sent (b : Block) (n : Nat) (p : Part) : (b.setPart n p).sent = b.sent := rfl
@[simp] theorem Block.setPart_free (b : Block) (n : Nat) (p : Part) : (b.setPart n p).free = b.free := rfl
/-! Block.modPart. -/
@[simp] theorem Block.modPart_now (b : Block) (n : Nat) (f : Part → Part) : (b.modPart n f).now = b.now := rfl
@[simp] theorem Block.modPart_aclk (b : Block) (n : Nat) (f : Part → Part) : (b.modPart n f).aclk = b.aclk := rfl
@[simp] theorem Block.modPart_mtOff (b : Block) (n : Nat) (f : Part → Part) : (b.modPart n f).mtOff = b.mtOff := rfl
@[simp] theorem Block.modPart_cells (b : Block) (n : Nat) (f : Part → Part) : (b.modPart n f).cells = b.cells := rfl
@[simp] theorem Block.modPart_walkers (b : Block) (n : Nat) (f : Part → Part) : (b.modPart n f).walkers = b.walkers := rfl
@[simp] theorem Block.modPart_entries (b : Block) (n : Nat) (f : Part → Part) : (b.modPart n f).entries = b.entries := rfl
@[simp] theorem Block.modPart_hub (b : Block) (n : Nat) (f : Part → Part) : (b.modPart n f).hub = b.hub := rfl
@[simp] theorem Block.modPart_rem (b : Block) (n : Nat) (f : Part → Part) : (b.modPart n f).rem = b.rem := rfl
@[simp] theorem Block.modPart_fab (b : Block) (n : Nat) (f : Part → Part) : (b.modPart n f).fab = b.fab := rfl
@[simp] theorem Block.modPart_pow (b : Block) (n : Nat) (f : Part → Part) : (b.modPart n f).pow = b.pow := rfl
@[simp] theorem Block.modPart_clk (b : Block) (n : Nat) (f : Part → Part) : (b.modPart n f).clk = b.clk := rfl
@[simp] theorem Block.modPart_sec (b : Block) (n : Nat) (f : Part → Part) : (b.modPart n f).sec = b.sec := rfl
@[simp] theorem Block.modPart_kept (b : Block) (n : Nat) (f : Part → Part) : (b.modPart n f).kept = b.kept := rfl
@[simp] theorem Block.modPart_pins (b : Block) (n : Nat) (f : Part → Part) : (b.modPart n f).pins = b.pins := rfl
@[simp] theorem Block.modPart_regs (b : Block) (n : Nat) (f : Part → Part) : (b.modPart n f).regs = b.regs := rfl
@[simp] theorem Block.modPart_cnts (b : Block) (n : Nat) (f : Part → Part) : (b.modPart n f).cnts = b.cnts := rfl
@[simp] theorem Block.modPart_mem (b : Block) (n : Nat) (f : Part → Part) : (b.modPart n f).mem = b.mem := rfl
@[simp] theorem Block.modPart_merr (b : Block) (n : Nat) (f : Part → Part) : (b.modPart n f).merr = b.merr := rfl
@[simp] theorem Block.modPart_sent (b : Block) (n : Nat) (f : Part → Part) : (b.modPart n f).sent = b.sent := rfl
@[simp] theorem Block.modPart_free (b : Block) (n : Nat) (f : Part → Part) : (b.modPart n f).free = b.free := rfl
/-! Block.setEntry. -/
@[simp] theorem Block.setEntry_now (b : Block) (n : Nat) (e : LEntry) : (b.setEntry n e).now = b.now := rfl
@[simp] theorem Block.setEntry_aclk (b : Block) (n : Nat) (e : LEntry) : (b.setEntry n e).aclk = b.aclk := rfl
@[simp] theorem Block.setEntry_mtOff (b : Block) (n : Nat) (e : LEntry) : (b.setEntry n e).mtOff = b.mtOff := rfl
@[simp] theorem Block.setEntry_cells (b : Block) (n : Nat) (e : LEntry) : (b.setEntry n e).cells = b.cells := rfl
@[simp] theorem Block.setEntry_walkers (b : Block) (n : Nat) (e : LEntry) : (b.setEntry n e).walkers = b.walkers := rfl
@[simp] theorem Block.setEntry_parts (b : Block) (n : Nat) (e : LEntry) : (b.setEntry n e).parts = b.parts := rfl
@[simp] theorem Block.setEntry_hub (b : Block) (n : Nat) (e : LEntry) : (b.setEntry n e).hub = b.hub := rfl
@[simp] theorem Block.setEntry_rem (b : Block) (n : Nat) (e : LEntry) : (b.setEntry n e).rem = b.rem := rfl
@[simp] theorem Block.setEntry_fab (b : Block) (n : Nat) (e : LEntry) : (b.setEntry n e).fab = b.fab := rfl
@[simp] theorem Block.setEntry_pow (b : Block) (n : Nat) (e : LEntry) : (b.setEntry n e).pow = b.pow := rfl
@[simp] theorem Block.setEntry_clk (b : Block) (n : Nat) (e : LEntry) : (b.setEntry n e).clk = b.clk := rfl
@[simp] theorem Block.setEntry_sec (b : Block) (n : Nat) (e : LEntry) : (b.setEntry n e).sec = b.sec := rfl
@[simp] theorem Block.setEntry_kept (b : Block) (n : Nat) (e : LEntry) : (b.setEntry n e).kept = b.kept := rfl
@[simp] theorem Block.setEntry_pins (b : Block) (n : Nat) (e : LEntry) : (b.setEntry n e).pins = b.pins := rfl
@[simp] theorem Block.setEntry_regs (b : Block) (n : Nat) (e : LEntry) : (b.setEntry n e).regs = b.regs := rfl
@[simp] theorem Block.setEntry_cnts (b : Block) (n : Nat) (e : LEntry) : (b.setEntry n e).cnts = b.cnts := rfl
@[simp] theorem Block.setEntry_mem (b : Block) (n : Nat) (e : LEntry) : (b.setEntry n e).mem = b.mem := rfl
@[simp] theorem Block.setEntry_merr (b : Block) (n : Nat) (e : LEntry) : (b.setEntry n e).merr = b.merr := rfl
@[simp] theorem Block.setEntry_sent (b : Block) (n : Nat) (e : LEntry) : (b.setEntry n e).sent = b.sent := rfl
@[simp] theorem Block.setEntry_free (b : Block) (n : Nat) (e : LEntry) : (b.setEntry n e).free = b.free := rfl
/-! Block.modEntry. -/
@[simp] theorem Block.modEntry_now (b : Block) (n : Nat) (f : LEntry → LEntry) : (b.modEntry n f).now = b.now := rfl
@[simp] theorem Block.modEntry_aclk (b : Block) (n : Nat) (f : LEntry → LEntry) : (b.modEntry n f).aclk = b.aclk := rfl
@[simp] theorem Block.modEntry_mtOff (b : Block) (n : Nat) (f : LEntry → LEntry) : (b.modEntry n f).mtOff = b.mtOff := rfl
@[simp] theorem Block.modEntry_cells (b : Block) (n : Nat) (f : LEntry → LEntry) : (b.modEntry n f).cells = b.cells := rfl
@[simp] theorem Block.modEntry_walkers (b : Block) (n : Nat) (f : LEntry → LEntry) : (b.modEntry n f).walkers = b.walkers := rfl
@[simp] theorem Block.modEntry_parts (b : Block) (n : Nat) (f : LEntry → LEntry) : (b.modEntry n f).parts = b.parts := rfl
@[simp] theorem Block.modEntry_hub (b : Block) (n : Nat) (f : LEntry → LEntry) : (b.modEntry n f).hub = b.hub := rfl
@[simp] theorem Block.modEntry_rem (b : Block) (n : Nat) (f : LEntry → LEntry) : (b.modEntry n f).rem = b.rem := rfl
@[simp] theorem Block.modEntry_fab (b : Block) (n : Nat) (f : LEntry → LEntry) : (b.modEntry n f).fab = b.fab := rfl
@[simp] theorem Block.modEntry_pow (b : Block) (n : Nat) (f : LEntry → LEntry) : (b.modEntry n f).pow = b.pow := rfl
@[simp] theorem Block.modEntry_clk (b : Block) (n : Nat) (f : LEntry → LEntry) : (b.modEntry n f).clk = b.clk := rfl
@[simp] theorem Block.modEntry_sec (b : Block) (n : Nat) (f : LEntry → LEntry) : (b.modEntry n f).sec = b.sec := rfl
@[simp] theorem Block.modEntry_kept (b : Block) (n : Nat) (f : LEntry → LEntry) : (b.modEntry n f).kept = b.kept := rfl
@[simp] theorem Block.modEntry_pins (b : Block) (n : Nat) (f : LEntry → LEntry) : (b.modEntry n f).pins = b.pins := rfl
@[simp] theorem Block.modEntry_regs (b : Block) (n : Nat) (f : LEntry → LEntry) : (b.modEntry n f).regs = b.regs := rfl
@[simp] theorem Block.modEntry_cnts (b : Block) (n : Nat) (f : LEntry → LEntry) : (b.modEntry n f).cnts = b.cnts := rfl
@[simp] theorem Block.modEntry_mem (b : Block) (n : Nat) (f : LEntry → LEntry) : (b.modEntry n f).mem = b.mem := rfl
@[simp] theorem Block.modEntry_merr (b : Block) (n : Nat) (f : LEntry → LEntry) : (b.modEntry n f).merr = b.merr := rfl
@[simp] theorem Block.modEntry_sent (b : Block) (n : Nat) (f : LEntry → LEntry) : (b.modEntry n f).sent = b.sent := rfl
@[simp] theorem Block.modEntry_free (b : Block) (n : Nat) (f : LEntry → LEntry) : (b.modEntry n f).free = b.free := rfl
/-! Block.modHub. -/
@[simp] theorem Block.modHub_now (b : Block) (f : Hub → Hub) : (b.modHub f).now = b.now := rfl
@[simp] theorem Block.modHub_aclk (b : Block) (f : Hub → Hub) : (b.modHub f).aclk = b.aclk := rfl
@[simp] theorem Block.modHub_mtOff (b : Block) (f : Hub → Hub) : (b.modHub f).mtOff = b.mtOff := rfl
@[simp] theorem Block.modHub_cells (b : Block) (f : Hub → Hub) : (b.modHub f).cells = b.cells := rfl
@[simp] theorem Block.modHub_walkers (b : Block) (f : Hub → Hub) : (b.modHub f).walkers = b.walkers := rfl
@[simp] theorem Block.modHub_parts (b : Block) (f : Hub → Hub) : (b.modHub f).parts = b.parts := rfl
@[simp] theorem Block.modHub_entries (b : Block) (f : Hub → Hub) : (b.modHub f).entries = b.entries := rfl
@[simp] theorem Block.modHub_rem (b : Block) (f : Hub → Hub) : (b.modHub f).rem = b.rem := rfl
@[simp] theorem Block.modHub_fab (b : Block) (f : Hub → Hub) : (b.modHub f).fab = b.fab := rfl
@[simp] theorem Block.modHub_pow (b : Block) (f : Hub → Hub) : (b.modHub f).pow = b.pow := rfl
@[simp] theorem Block.modHub_clk (b : Block) (f : Hub → Hub) : (b.modHub f).clk = b.clk := rfl
@[simp] theorem Block.modHub_sec (b : Block) (f : Hub → Hub) : (b.modHub f).sec = b.sec := rfl
@[simp] theorem Block.modHub_kept (b : Block) (f : Hub → Hub) : (b.modHub f).kept = b.kept := rfl
@[simp] theorem Block.modHub_pins (b : Block) (f : Hub → Hub) : (b.modHub f).pins = b.pins := rfl
@[simp] theorem Block.modHub_regs (b : Block) (f : Hub → Hub) : (b.modHub f).regs = b.regs := rfl
@[simp] theorem Block.modHub_cnts (b : Block) (f : Hub → Hub) : (b.modHub f).cnts = b.cnts := rfl
@[simp] theorem Block.modHub_mem (b : Block) (f : Hub → Hub) : (b.modHub f).mem = b.mem := rfl
@[simp] theorem Block.modHub_merr (b : Block) (f : Hub → Hub) : (b.modHub f).merr = b.merr := rfl
@[simp] theorem Block.modHub_sent (b : Block) (f : Hub → Hub) : (b.modHub f).sent = b.sent := rfl
@[simp] theorem Block.modHub_free (b : Block) (f : Hub → Hub) : (b.modHub f).free = b.free := rfl
/-! Block.send. -/
@[simp] theorem Block.send_now (b : Block) (m : Msg) : (b.send m).now = b.now := rfl
@[simp] theorem Block.send_aclk (b : Block) (m : Msg) : (b.send m).aclk = b.aclk := rfl
@[simp] theorem Block.send_mtOff (b : Block) (m : Msg) : (b.send m).mtOff = b.mtOff := rfl
@[simp] theorem Block.send_cells (b : Block) (m : Msg) : (b.send m).cells = b.cells := rfl
@[simp] theorem Block.send_walkers (b : Block) (m : Msg) : (b.send m).walkers = b.walkers := rfl
@[simp] theorem Block.send_parts (b : Block) (m : Msg) : (b.send m).parts = b.parts := rfl
@[simp] theorem Block.send_entries (b : Block) (m : Msg) : (b.send m).entries = b.entries := rfl
@[simp] theorem Block.send_hub (b : Block) (m : Msg) : (b.send m).hub = b.hub := rfl
@[simp] theorem Block.send_rem (b : Block) (m : Msg) : (b.send m).rem = b.rem := rfl
@[simp] theorem Block.send_fab (b : Block) (m : Msg) : (b.send m).fab = b.fab := rfl
@[simp] theorem Block.send_pow (b : Block) (m : Msg) : (b.send m).pow = b.pow := rfl
@[simp] theorem Block.send_clk (b : Block) (m : Msg) : (b.send m).clk = b.clk := rfl
@[simp] theorem Block.send_sec (b : Block) (m : Msg) : (b.send m).sec = b.sec := rfl
@[simp] theorem Block.send_kept (b : Block) (m : Msg) : (b.send m).kept = b.kept := rfl
@[simp] theorem Block.send_pins (b : Block) (m : Msg) : (b.send m).pins = b.pins := rfl
@[simp] theorem Block.send_regs (b : Block) (m : Msg) : (b.send m).regs = b.regs := rfl
@[simp] theorem Block.send_cnts (b : Block) (m : Msg) : (b.send m).cnts = b.cnts := rfl
@[simp] theorem Block.send_mem (b : Block) (m : Msg) : (b.send m).mem = b.mem := rfl
@[simp] theorem Block.send_merr (b : Block) (m : Msg) : (b.send m).merr = b.merr := rfl
@[simp] theorem Block.send_free (b : Block) (m : Msg) : (b.send m).free = b.free := rfl
/-! Block.count. -/
@[simp] theorem Block.count_now (b : Block) (a k : Nat) : (b.count a k).now = b.now := rfl
@[simp] theorem Block.count_aclk (b : Block) (a k : Nat) : (b.count a k).aclk = b.aclk := rfl
@[simp] theorem Block.count_mtOff (b : Block) (a k : Nat) : (b.count a k).mtOff = b.mtOff := rfl
@[simp] theorem Block.count_cells (b : Block) (a k : Nat) : (b.count a k).cells = b.cells := rfl
@[simp] theorem Block.count_walkers (b : Block) (a k : Nat) : (b.count a k).walkers = b.walkers := rfl
@[simp] theorem Block.count_parts (b : Block) (a k : Nat) : (b.count a k).parts = b.parts := rfl
@[simp] theorem Block.count_entries (b : Block) (a k : Nat) : (b.count a k).entries = b.entries := rfl
@[simp] theorem Block.count_hub (b : Block) (a k : Nat) : (b.count a k).hub = b.hub := rfl
@[simp] theorem Block.count_rem (b : Block) (a k : Nat) : (b.count a k).rem = b.rem := rfl
@[simp] theorem Block.count_fab (b : Block) (a k : Nat) : (b.count a k).fab = b.fab := rfl
@[simp] theorem Block.count_pow (b : Block) (a k : Nat) : (b.count a k).pow = b.pow := rfl
@[simp] theorem Block.count_clk (b : Block) (a k : Nat) : (b.count a k).clk = b.clk := rfl
@[simp] theorem Block.count_sec (b : Block) (a k : Nat) : (b.count a k).sec = b.sec := rfl
@[simp] theorem Block.count_kept (b : Block) (a k : Nat) : (b.count a k).kept = b.kept := rfl
@[simp] theorem Block.count_pins (b : Block) (a k : Nat) : (b.count a k).pins = b.pins := rfl
@[simp] theorem Block.count_regs (b : Block) (a k : Nat) : (b.count a k).regs = b.regs := rfl
@[simp] theorem Block.count_mem (b : Block) (a k : Nat) : (b.count a k).mem = b.mem := rfl
@[simp] theorem Block.count_merr (b : Block) (a k : Nat) : (b.count a k).merr = b.merr := rfl
@[simp] theorem Block.count_sent (b : Block) (a k : Nat) : (b.count a k).sent = b.sent := rfl
@[simp] theorem Block.count_free (b : Block) (a k : Nat) : (b.count a k).free = b.free := rfl
/-! Block.setReg. -/
@[simp] theorem Block.setReg_now (b : Block) (a r v : Nat) : (b.setReg a r v).now = b.now := rfl
@[simp] theorem Block.setReg_aclk (b : Block) (a r v : Nat) : (b.setReg a r v).aclk = b.aclk := rfl
@[simp] theorem Block.setReg_mtOff (b : Block) (a r v : Nat) : (b.setReg a r v).mtOff = b.mtOff := rfl
@[simp] theorem Block.setReg_cells (b : Block) (a r v : Nat) : (b.setReg a r v).cells = b.cells := rfl
@[simp] theorem Block.setReg_walkers (b : Block) (a r v : Nat) : (b.setReg a r v).walkers = b.walkers := rfl
@[simp] theorem Block.setReg_parts (b : Block) (a r v : Nat) : (b.setReg a r v).parts = b.parts := rfl
@[simp] theorem Block.setReg_entries (b : Block) (a r v : Nat) : (b.setReg a r v).entries = b.entries := rfl
@[simp] theorem Block.setReg_hub (b : Block) (a r v : Nat) : (b.setReg a r v).hub = b.hub := rfl
@[simp] theorem Block.setReg_rem (b : Block) (a r v : Nat) : (b.setReg a r v).rem = b.rem := rfl
@[simp] theorem Block.setReg_fab (b : Block) (a r v : Nat) : (b.setReg a r v).fab = b.fab := rfl
@[simp] theorem Block.setReg_pow (b : Block) (a r v : Nat) : (b.setReg a r v).pow = b.pow := rfl
@[simp] theorem Block.setReg_clk (b : Block) (a r v : Nat) : (b.setReg a r v).clk = b.clk := rfl
@[simp] theorem Block.setReg_sec (b : Block) (a r v : Nat) : (b.setReg a r v).sec = b.sec := rfl
@[simp] theorem Block.setReg_kept (b : Block) (a r v : Nat) : (b.setReg a r v).kept = b.kept := rfl
@[simp] theorem Block.setReg_pins (b : Block) (a r v : Nat) : (b.setReg a r v).pins = b.pins := rfl
@[simp] theorem Block.setReg_cnts (b : Block) (a r v : Nat) : (b.setReg a r v).cnts = b.cnts := rfl
@[simp] theorem Block.setReg_mem (b : Block) (a r v : Nat) : (b.setReg a r v).mem = b.mem := rfl
@[simp] theorem Block.setReg_merr (b : Block) (a r v : Nat) : (b.setReg a r v).merr = b.merr := rfl
@[simp] theorem Block.setReg_sent (b : Block) (a r v : Nat) : (b.setReg a r v).sent = b.sent := rfl
@[simp] theorem Block.setReg_free (b : Block) (a r v : Nat) : (b.setReg a r v).free = b.free := rfl
/-! Block.memWrite. -/
@[simp] theorem Block.memWrite_now (b : Block) (a l v : Nat) : (b.memWrite a l v).now = b.now := rfl
@[simp] theorem Block.memWrite_aclk (b : Block) (a l v : Nat) : (b.memWrite a l v).aclk = b.aclk := rfl
@[simp] theorem Block.memWrite_mtOff (b : Block) (a l v : Nat) : (b.memWrite a l v).mtOff = b.mtOff := rfl
@[simp] theorem Block.memWrite_cells (b : Block) (a l v : Nat) : (b.memWrite a l v).cells = b.cells := rfl
@[simp] theorem Block.memWrite_walkers (b : Block) (a l v : Nat) : (b.memWrite a l v).walkers = b.walkers := rfl
@[simp] theorem Block.memWrite_parts (b : Block) (a l v : Nat) : (b.memWrite a l v).parts = b.parts := rfl
@[simp] theorem Block.memWrite_entries (b : Block) (a l v : Nat) : (b.memWrite a l v).entries = b.entries := rfl
@[simp] theorem Block.memWrite_hub (b : Block) (a l v : Nat) : (b.memWrite a l v).hub = b.hub := rfl
@[simp] theorem Block.memWrite_rem (b : Block) (a l v : Nat) : (b.memWrite a l v).rem = b.rem := rfl
@[simp] theorem Block.memWrite_fab (b : Block) (a l v : Nat) : (b.memWrite a l v).fab = b.fab := rfl
@[simp] theorem Block.memWrite_pow (b : Block) (a l v : Nat) : (b.memWrite a l v).pow = b.pow := rfl
@[simp] theorem Block.memWrite_clk (b : Block) (a l v : Nat) : (b.memWrite a l v).clk = b.clk := rfl
@[simp] theorem Block.memWrite_sec (b : Block) (a l v : Nat) : (b.memWrite a l v).sec = b.sec := rfl
@[simp] theorem Block.memWrite_kept (b : Block) (a l v : Nat) : (b.memWrite a l v).kept = b.kept := rfl
@[simp] theorem Block.memWrite_pins (b : Block) (a l v : Nat) : (b.memWrite a l v).pins = b.pins := rfl
@[simp] theorem Block.memWrite_regs (b : Block) (a l v : Nat) : (b.memWrite a l v).regs = b.regs := rfl
@[simp] theorem Block.memWrite_cnts (b : Block) (a l v : Nat) : (b.memWrite a l v).cnts = b.cnts := rfl
@[simp] theorem Block.memWrite_sent (b : Block) (a l v : Nat) : (b.memWrite a l v).sent = b.sent := rfl
@[simp] theorem Block.memWrite_free (b : Block) (a l v : Nat) : (b.memWrite a l v).free = b.free := rfl
/-! Block.memZero. -/
@[simp] theorem Block.memZero_now (b : Block) (a l : Nat) : (b.memZero a l).now = b.now := rfl
@[simp] theorem Block.memZero_aclk (b : Block) (a l : Nat) : (b.memZero a l).aclk = b.aclk := rfl
@[simp] theorem Block.memZero_mtOff (b : Block) (a l : Nat) : (b.memZero a l).mtOff = b.mtOff := rfl
@[simp] theorem Block.memZero_cells (b : Block) (a l : Nat) : (b.memZero a l).cells = b.cells := rfl
@[simp] theorem Block.memZero_walkers (b : Block) (a l : Nat) : (b.memZero a l).walkers = b.walkers := rfl
@[simp] theorem Block.memZero_parts (b : Block) (a l : Nat) : (b.memZero a l).parts = b.parts := rfl
@[simp] theorem Block.memZero_entries (b : Block) (a l : Nat) : (b.memZero a l).entries = b.entries := rfl
@[simp] theorem Block.memZero_hub (b : Block) (a l : Nat) : (b.memZero a l).hub = b.hub := rfl
@[simp] theorem Block.memZero_rem (b : Block) (a l : Nat) : (b.memZero a l).rem = b.rem := rfl
@[simp] theorem Block.memZero_fab (b : Block) (a l : Nat) : (b.memZero a l).fab = b.fab := rfl
@[simp] theorem Block.memZero_pow (b : Block) (a l : Nat) : (b.memZero a l).pow = b.pow := rfl
@[simp] theorem Block.memZero_clk (b : Block) (a l : Nat) : (b.memZero a l).clk = b.clk := rfl
@[simp] theorem Block.memZero_sec (b : Block) (a l : Nat) : (b.memZero a l).sec = b.sec := rfl
@[simp] theorem Block.memZero_kept (b : Block) (a l : Nat) : (b.memZero a l).kept = b.kept := rfl
@[simp] theorem Block.memZero_pins (b : Block) (a l : Nat) : (b.memZero a l).pins = b.pins := rfl
@[simp] theorem Block.memZero_regs (b : Block) (a l : Nat) : (b.memZero a l).regs = b.regs := rfl
@[simp] theorem Block.memZero_cnts (b : Block) (a l : Nat) : (b.memZero a l).cnts = b.cnts := rfl
@[simp] theorem Block.memZero_sent (b : Block) (a l : Nat) : (b.memZero a l).sent = b.sent := rfl
@[simp] theorem Block.memZero_free (b : Block) (a l : Nat) : (b.memZero a l).free = b.free := rfl

@[simp] theorem Block.modHub_hub (b : Block) (f : Hub → Hub) : (b.modHub f).hub = f b.hub := rfl
@[simp] theorem Block.send_sent (b : Block) (m : Msg) : (b.send m).sent = b.sent ++ [m] := rfl
@[simp] theorem Block.memWrite_mem (b : Block) (a l v : Nat) : (b.memWrite a l v).mem = b.mem.write a l v := rfl
@[simp] theorem Block.memZero_mem (b : Block) (a l : Nat) : (b.memZero a l).mem = b.mem.zero a l := rfl

@[simp] theorem Block.setCell_walker (b : Block) (n : Nat) (c : Cell) (j : Nat) : (b.setCell n c).walker j = b.walker j := rfl
@[simp] theorem Block.setCell_part (b : Block) (n : Nat) (c : Cell) (j : Nat) : (b.setCell n c).part j = b.part j := rfl
@[simp] theorem Block.setCell_entry (b : Block) (n : Nat) (c : Cell) (j : Nat) : (b.setCell n c).entry j = b.entry j := rfl
@[simp] theorem Block.setCell_mtime (b : Block) (n : Nat) (c : Cell) : (b.setCell n c).mtime = b.mtime := rfl
@[simp] theorem Block.setCell_cycles (b : Block) (n : Nat) (c : Cell) : (b.setCell n c).cycles = b.cycles := rfl
@[simp] theorem Block.setCell_cnt (b : Block) (n : Nat) (c : Cell) (j : Nat) : (b.setCell n c).cnt j = b.cnt j := rfl
@[simp] theorem Block.setCell_reg (b : Block) (n : Nat) (c : Cell) (j q : Nat) : (b.setCell n c).reg j q = b.reg j q := rfl
@[simp] theorem Block.modCell_walker (b : Block) (n : Nat) (f : Cell → Cell) (j : Nat) : (b.modCell n f).walker j = b.walker j := rfl
@[simp] theorem Block.modCell_part (b : Block) (n : Nat) (f : Cell → Cell) (j : Nat) : (b.modCell n f).part j = b.part j := rfl
@[simp] theorem Block.modCell_entry (b : Block) (n : Nat) (f : Cell → Cell) (j : Nat) : (b.modCell n f).entry j = b.entry j := rfl
@[simp] theorem Block.modCell_mtime (b : Block) (n : Nat) (f : Cell → Cell) : (b.modCell n f).mtime = b.mtime := rfl
@[simp] theorem Block.modCell_cycles (b : Block) (n : Nat) (f : Cell → Cell) : (b.modCell n f).cycles = b.cycles := rfl
@[simp] theorem Block.modCell_cnt (b : Block) (n : Nat) (f : Cell → Cell) (j : Nat) : (b.modCell n f).cnt j = b.cnt j := rfl
@[simp] theorem Block.modCell_reg (b : Block) (n : Nat) (f : Cell → Cell) (j q : Nat) : (b.modCell n f).reg j q = b.reg j q := rfl
@[simp] theorem Block.modThread_walker (b : Block) (n t : Nat) (f : Thread → Thread) (j : Nat) : (b.modThread n t f).walker j = b.walker j := rfl
@[simp] theorem Block.modThread_part (b : Block) (n t : Nat) (f : Thread → Thread) (j : Nat) : (b.modThread n t f).part j = b.part j := rfl
@[simp] theorem Block.modThread_entry (b : Block) (n t : Nat) (f : Thread → Thread) (j : Nat) : (b.modThread n t f).entry j = b.entry j := rfl
@[simp] theorem Block.modThread_mtime (b : Block) (n t : Nat) (f : Thread → Thread) : (b.modThread n t f).mtime = b.mtime := rfl
@[simp] theorem Block.modThread_cycles (b : Block) (n t : Nat) (f : Thread → Thread) : (b.modThread n t f).cycles = b.cycles := rfl
@[simp] theorem Block.modThread_cnt (b : Block) (n t : Nat) (f : Thread → Thread) (j : Nat) : (b.modThread n t f).cnt j = b.cnt j := rfl
@[simp] theorem Block.modThread_reg (b : Block) (n t : Nat) (f : Thread → Thread) (j q : Nat) : (b.modThread n t f).reg j q = b.reg j q := rfl
@[simp] theorem Block.countC_walker (b : Block) (n o k : Nat) (j : Nat) : (b.countC n o k).walker j = b.walker j := rfl
@[simp] theorem Block.countC_part (b : Block) (n o k : Nat) (j : Nat) : (b.countC n o k).part j = b.part j := rfl
@[simp] theorem Block.countC_entry (b : Block) (n o k : Nat) (j : Nat) : (b.countC n o k).entry j = b.entry j := rfl
@[simp] theorem Block.countC_mtime (b : Block) (n o k : Nat) : (b.countC n o k).mtime = b.mtime := rfl
@[simp] theorem Block.countC_cycles (b : Block) (n o k : Nat) : (b.countC n o k).cycles = b.cycles := rfl
@[simp] theorem Block.countC_cnt (b : Block) (n o k : Nat) (j : Nat) : (b.countC n o k).cnt j = b.cnt j := rfl
@[simp] theorem Block.countC_reg (b : Block) (n o k : Nat) (j q : Nat) : (b.countC n o k).reg j q = b.reg j q := rfl
@[simp] theorem Block.modWalker_cell (b : Block) (n : Nat) (f : Walker → Walker) (j : Nat) : (b.modWalker n f).cell j = b.cell j := rfl
@[simp] theorem Block.modWalker_part (b : Block) (n : Nat) (f : Walker → Walker) (j : Nat) : (b.modWalker n f).part j = b.part j := rfl
@[simp] theorem Block.modWalker_entry (b : Block) (n : Nat) (f : Walker → Walker) (j : Nat) : (b.modWalker n f).entry j = b.entry j := rfl
@[simp] theorem Block.modWalker_thread (b : Block) (n : Nat) (f : Walker → Walker) (j u : Nat) : (b.modWalker n f).thread j u = b.thread j u := rfl
@[simp] theorem Block.modWalker_mtime (b : Block) (n : Nat) (f : Walker → Walker) : (b.modWalker n f).mtime = b.mtime := rfl
@[simp] theorem Block.modWalker_cycles (b : Block) (n : Nat) (f : Walker → Walker) : (b.modWalker n f).cycles = b.cycles := rfl
@[simp] theorem Block.modWalker_cnt (b : Block) (n : Nat) (f : Walker → Walker) (j : Nat) : (b.modWalker n f).cnt j = b.cnt j := rfl
@[simp] theorem Block.modWalker_reg (b : Block) (n : Nat) (f : Walker → Walker) (j q : Nat) : (b.modWalker n f).reg j q = b.reg j q := rfl
@[simp] theorem Block.countW_cell (b : Block) (n o k : Nat) (j : Nat) : (b.countW n o k).cell j = b.cell j := rfl
@[simp] theorem Block.countW_part (b : Block) (n o k : Nat) (j : Nat) : (b.countW n o k).part j = b.part j := rfl
@[simp] theorem Block.countW_entry (b : Block) (n o k : Nat) (j : Nat) : (b.countW n o k).entry j = b.entry j := rfl
@[simp] theorem Block.countW_thread (b : Block) (n o k : Nat) (j u : Nat) : (b.countW n o k).thread j u = b.thread j u := rfl
@[simp] theorem Block.countW_mtime (b : Block) (n o k : Nat) : (b.countW n o k).mtime = b.mtime := rfl
@[simp] theorem Block.countW_cycles (b : Block) (n o k : Nat) : (b.countW n o k).cycles = b.cycles := rfl
@[simp] theorem Block.countW_cnt (b : Block) (n o k : Nat) (j : Nat) : (b.countW n o k).cnt j = b.cnt j := rfl
@[simp] theorem Block.countW_reg (b : Block) (n o k : Nat) (j q : Nat) : (b.countW n o k).reg j q = b.reg j q := rfl
@[simp] theorem Block.setPart_cell (b : Block) (n : Nat) (p : Part) (j : Nat) : (b.setPart n p).cell j = b.cell j := rfl
@[simp] theorem Block.setPart_walker (b : Block) (n : Nat) (p : Part) (j : Nat) : (b.setPart n p).walker j = b.walker j := rfl
@[simp] theorem Block.setPart_entry (b : Block) (n : Nat) (p : Part) (j : Nat) : (b.setPart n p).entry j = b.entry j := rfl
@[simp] theorem Block.setPart_thread (b : Block) (n : Nat) (p : Part) (j u : Nat) : (b.setPart n p).thread j u = b.thread j u := rfl
@[simp] theorem Block.setPart_mtime (b : Block) (n : Nat) (p : Part) : (b.setPart n p).mtime = b.mtime := rfl
@[simp] theorem Block.setPart_cycles (b : Block) (n : Nat) (p : Part) : (b.setPart n p).cycles = b.cycles := rfl
@[simp] theorem Block.setPart_cnt (b : Block) (n : Nat) (p : Part) (j : Nat) : (b.setPart n p).cnt j = b.cnt j := rfl
@[simp] theorem Block.setPart_reg (b : Block) (n : Nat) (p : Part) (j q : Nat) : (b.setPart n p).reg j q = b.reg j q := rfl
@[simp] theorem Block.modPart_cell (b : Block) (n : Nat) (f : Part → Part) (j : Nat) : (b.modPart n f).cell j = b.cell j := rfl
@[simp] theorem Block.modPart_walker (b : Block) (n : Nat) (f : Part → Part) (j : Nat) : (b.modPart n f).walker j = b.walker j := rfl
@[simp] theorem Block.modPart_entry (b : Block) (n : Nat) (f : Part → Part) (j : Nat) : (b.modPart n f).entry j = b.entry j := rfl
@[simp] theorem Block.modPart_thread (b : Block) (n : Nat) (f : Part → Part) (j u : Nat) : (b.modPart n f).thread j u = b.thread j u := rfl
@[simp] theorem Block.modPart_mtime (b : Block) (n : Nat) (f : Part → Part) : (b.modPart n f).mtime = b.mtime := rfl
@[simp] theorem Block.modPart_cycles (b : Block) (n : Nat) (f : Part → Part) : (b.modPart n f).cycles = b.cycles := rfl
@[simp] theorem Block.modPart_cnt (b : Block) (n : Nat) (f : Part → Part) (j : Nat) : (b.modPart n f).cnt j = b.cnt j := rfl
@[simp] theorem Block.modPart_reg (b : Block) (n : Nat) (f : Part → Part) (j q : Nat) : (b.modPart n f).reg j q = b.reg j q := rfl
@[simp] theorem Block.setEntry_cell (b : Block) (n : Nat) (e : LEntry) (j : Nat) : (b.setEntry n e).cell j = b.cell j := rfl
@[simp] theorem Block.setEntry_walker (b : Block) (n : Nat) (e : LEntry) (j : Nat) : (b.setEntry n e).walker j = b.walker j := rfl
@[simp] theorem Block.setEntry_part (b : Block) (n : Nat) (e : LEntry) (j : Nat) : (b.setEntry n e).part j = b.part j := rfl
@[simp] theorem Block.setEntry_thread (b : Block) (n : Nat) (e : LEntry) (j u : Nat) : (b.setEntry n e).thread j u = b.thread j u := rfl
@[simp] theorem Block.setEntry_mtime (b : Block) (n : Nat) (e : LEntry) : (b.setEntry n e).mtime = b.mtime := rfl
@[simp] theorem Block.setEntry_cycles (b : Block) (n : Nat) (e : LEntry) : (b.setEntry n e).cycles = b.cycles := rfl
@[simp] theorem Block.setEntry_cnt (b : Block) (n : Nat) (e : LEntry) (j : Nat) : (b.setEntry n e).cnt j = b.cnt j := rfl
@[simp] theorem Block.setEntry_reg (b : Block) (n : Nat) (e : LEntry) (j q : Nat) : (b.setEntry n e).reg j q = b.reg j q := rfl
@[simp] theorem Block.modEntry_cell (b : Block) (n : Nat) (f : LEntry → LEntry) (j : Nat) : (b.modEntry n f).cell j = b.cell j := rfl
@[simp] theorem Block.modEntry_walker (b : Block) (n : Nat) (f : LEntry → LEntry) (j : Nat) : (b.modEntry n f).walker j = b.walker j := rfl
@[simp] theorem Block.modEntry_part (b : Block) (n : Nat) (f : LEntry → LEntry) (j : Nat) : (b.modEntry n f).part j = b.part j := rfl
@[simp] theorem Block.modEntry_thread (b : Block) (n : Nat) (f : LEntry → LEntry) (j u : Nat) : (b.modEntry n f).thread j u = b.thread j u := rfl
@[simp] theorem Block.modEntry_mtime (b : Block) (n : Nat) (f : LEntry → LEntry) : (b.modEntry n f).mtime = b.mtime := rfl
@[simp] theorem Block.modEntry_cycles (b : Block) (n : Nat) (f : LEntry → LEntry) : (b.modEntry n f).cycles = b.cycles := rfl
@[simp] theorem Block.modEntry_cnt (b : Block) (n : Nat) (f : LEntry → LEntry) (j : Nat) : (b.modEntry n f).cnt j = b.cnt j := rfl
@[simp] theorem Block.modEntry_reg (b : Block) (n : Nat) (f : LEntry → LEntry) (j q : Nat) : (b.modEntry n f).reg j q = b.reg j q := rfl
@[simp] theorem Block.modHub_cell (b : Block) (f : Hub → Hub) (j : Nat) : (b.modHub f).cell j = b.cell j := rfl
@[simp] theorem Block.modHub_walker (b : Block) (f : Hub → Hub) (j : Nat) : (b.modHub f).walker j = b.walker j := rfl
@[simp] theorem Block.modHub_part (b : Block) (f : Hub → Hub) (j : Nat) : (b.modHub f).part j = b.part j := rfl
@[simp] theorem Block.modHub_entry (b : Block) (f : Hub → Hub) (j : Nat) : (b.modHub f).entry j = b.entry j := rfl
@[simp] theorem Block.modHub_thread (b : Block) (f : Hub → Hub) (j u : Nat) : (b.modHub f).thread j u = b.thread j u := rfl
@[simp] theorem Block.modHub_mtime (b : Block) (f : Hub → Hub) : (b.modHub f).mtime = b.mtime := rfl
@[simp] theorem Block.modHub_cycles (b : Block) (f : Hub → Hub) : (b.modHub f).cycles = b.cycles := rfl
@[simp] theorem Block.modHub_cnt (b : Block) (f : Hub → Hub) (j : Nat) : (b.modHub f).cnt j = b.cnt j := rfl
@[simp] theorem Block.modHub_reg (b : Block) (f : Hub → Hub) (j q : Nat) : (b.modHub f).reg j q = b.reg j q := rfl
@[simp] theorem Block.send_cell (b : Block) (m : Msg) (j : Nat) : (b.send m).cell j = b.cell j := rfl
@[simp] theorem Block.send_walker (b : Block) (m : Msg) (j : Nat) : (b.send m).walker j = b.walker j := rfl
@[simp] theorem Block.send_part (b : Block) (m : Msg) (j : Nat) : (b.send m).part j = b.part j := rfl
@[simp] theorem Block.send_entry (b : Block) (m : Msg) (j : Nat) : (b.send m).entry j = b.entry j := rfl
@[simp] theorem Block.send_thread (b : Block) (m : Msg) (j u : Nat) : (b.send m).thread j u = b.thread j u := rfl
@[simp] theorem Block.send_mtime (b : Block) (m : Msg) : (b.send m).mtime = b.mtime := rfl
@[simp] theorem Block.send_cycles (b : Block) (m : Msg) : (b.send m).cycles = b.cycles := rfl
@[simp] theorem Block.send_cnt (b : Block) (m : Msg) (j : Nat) : (b.send m).cnt j = b.cnt j := rfl
@[simp] theorem Block.send_reg (b : Block) (m : Msg) (j q : Nat) : (b.send m).reg j q = b.reg j q := rfl
@[simp] theorem Block.count_cell (b : Block) (a k : Nat) (j : Nat) : (b.count a k).cell j = b.cell j := rfl
@[simp] theorem Block.count_walker (b : Block) (a k : Nat) (j : Nat) : (b.count a k).walker j = b.walker j := rfl
@[simp] theorem Block.count_part (b : Block) (a k : Nat) (j : Nat) : (b.count a k).part j = b.part j := rfl
@[simp] theorem Block.count_entry (b : Block) (a k : Nat) (j : Nat) : (b.count a k).entry j = b.entry j := rfl
@[simp] theorem Block.count_thread (b : Block) (a k : Nat) (j u : Nat) : (b.count a k).thread j u = b.thread j u := rfl
@[simp] theorem Block.count_mtime (b : Block) (a k : Nat) : (b.count a k).mtime = b.mtime := rfl
@[simp] theorem Block.count_cycles (b : Block) (a k : Nat) : (b.count a k).cycles = b.cycles := rfl
@[simp] theorem Block.count_reg (b : Block) (a k : Nat) (j q : Nat) : (b.count a k).reg j q = b.reg j q := rfl
@[simp] theorem Block.setReg_cell (b : Block) (a r v : Nat) (j : Nat) : (b.setReg a r v).cell j = b.cell j := rfl
@[simp] theorem Block.setReg_walker (b : Block) (a r v : Nat) (j : Nat) : (b.setReg a r v).walker j = b.walker j := rfl
@[simp] theorem Block.setReg_part (b : Block) (a r v : Nat) (j : Nat) : (b.setReg a r v).part j = b.part j := rfl
@[simp] theorem Block.setReg_entry (b : Block) (a r v : Nat) (j : Nat) : (b.setReg a r v).entry j = b.entry j := rfl
@[simp] theorem Block.setReg_thread (b : Block) (a r v : Nat) (j u : Nat) : (b.setReg a r v).thread j u = b.thread j u := rfl
@[simp] theorem Block.setReg_mtime (b : Block) (a r v : Nat) : (b.setReg a r v).mtime = b.mtime := rfl
@[simp] theorem Block.setReg_cycles (b : Block) (a r v : Nat) : (b.setReg a r v).cycles = b.cycles := rfl
@[simp] theorem Block.setReg_cnt (b : Block) (a r v : Nat) (j : Nat) : (b.setReg a r v).cnt j = b.cnt j := rfl
@[simp] theorem Block.memWrite_cell (b : Block) (a l v : Nat) (j : Nat) : (b.memWrite a l v).cell j = b.cell j := rfl
@[simp] theorem Block.memWrite_walker (b : Block) (a l v : Nat) (j : Nat) : (b.memWrite a l v).walker j = b.walker j := rfl
@[simp] theorem Block.memWrite_part (b : Block) (a l v : Nat) (j : Nat) : (b.memWrite a l v).part j = b.part j := rfl
@[simp] theorem Block.memWrite_entry (b : Block) (a l v : Nat) (j : Nat) : (b.memWrite a l v).entry j = b.entry j := rfl
@[simp] theorem Block.memWrite_thread (b : Block) (a l v : Nat) (j u : Nat) : (b.memWrite a l v).thread j u = b.thread j u := rfl
@[simp] theorem Block.memWrite_mtime (b : Block) (a l v : Nat) : (b.memWrite a l v).mtime = b.mtime := rfl
@[simp] theorem Block.memWrite_cycles (b : Block) (a l v : Nat) : (b.memWrite a l v).cycles = b.cycles := rfl
@[simp] theorem Block.memWrite_cnt (b : Block) (a l v : Nat) (j : Nat) : (b.memWrite a l v).cnt j = b.cnt j := rfl
@[simp] theorem Block.memWrite_reg (b : Block) (a l v : Nat) (j q : Nat) : (b.memWrite a l v).reg j q = b.reg j q := rfl
@[simp] theorem Block.memZero_cell (b : Block) (a l : Nat) (j : Nat) : (b.memZero a l).cell j = b.cell j := rfl
@[simp] theorem Block.memZero_walker (b : Block) (a l : Nat) (j : Nat) : (b.memZero a l).walker j = b.walker j := rfl
@[simp] theorem Block.memZero_part (b : Block) (a l : Nat) (j : Nat) : (b.memZero a l).part j = b.part j := rfl
@[simp] theorem Block.memZero_entry (b : Block) (a l : Nat) (j : Nat) : (b.memZero a l).entry j = b.entry j := rfl
@[simp] theorem Block.memZero_thread (b : Block) (a l : Nat) (j u : Nat) : (b.memZero a l).thread j u = b.thread j u := rfl
@[simp] theorem Block.memZero_mtime (b : Block) (a l : Nat) : (b.memZero a l).mtime = b.mtime := rfl
@[simp] theorem Block.memZero_cycles (b : Block) (a l : Nat) : (b.memZero a l).cycles = b.cycles := rfl
@[simp] theorem Block.memZero_cnt (b : Block) (a l : Nat) (j : Nat) : (b.memZero a l).cnt j = b.cnt j := rfl
@[simp] theorem Block.memZero_reg (b : Block) (a l : Nat) (j q : Nat) : (b.memZero a l).reg j q = b.reg j q := rfl

/-! Reading a unit after an update of its kind. -/
theorem Block.setCell_cell (b : Block) (n : Nat) (c : Cell) (k : Nat) : (b.setCell n c).cell k = if k = n then c else b.cell k :=
  mget_mset _ _ _ _ _
@[simp] theorem Block.setCell_cell_same (b : Block) (n : Nat) (c : Cell) : (b.setCell n c).cell n = c := by simp [setCell_cell]
theorem Block.modCell_cell (b : Block) (n : Nat) (f : Cell → Cell) (k : Nat) :
    (b.modCell n f).cell k = if k = n then f (b.cell n) else b.cell k := mget_mset _ _ _ _ _
@[simp] theorem Block.modCell_cell_same (b : Block) (n : Nat) (f : Cell → Cell) : (b.modCell n f).cell n = f (b.cell n) := by
  simp [modCell_cell]
theorem Cell.setThread_thread (c : Cell) (t : Nat) (x : Thread) (u : Nat) :
    (c.setThread t x).thread u = if u = t then x else c.thread u := mget_mset _ _ _ _ _
theorem Cell.modThread_thread (c : Cell) (t : Nat) (f : Thread → Thread) (u : Nat) :
    (c.modThread t f).thread u = if u = t then f (c.thread t) else c.thread u := mget_mset _ _ _ _ _
@[simp] theorem Cell.modThread_thread_same (c : Cell) (t : Nat) (f : Thread → Thread) : (c.modThread t f).thread t = f (c.thread t) := by
  simp [modThread_thread]
theorem Block.modThread_thread (b : Block) (n t : Nat) (f : Thread → Thread) (k u : Nat) :
    (b.modThread n t f).thread k u = if k = n ∧ u = t then f (b.thread n t) else b.thread k u := by
  unfold modThread thread
  rw [modCell_cell]
  by_cases h : k = n
  · subst h; simp [Cell.modThread_thread]
  · simp [h]
@[simp] theorem Block.modThread_thread_same (b : Block) (n t : Nat) (f : Thread → Thread) :
    (b.modThread n t f).thread n t = f (b.thread n t) := by simp [modThread_thread]
theorem Block.modWalker_walker (b : Block) (n : Nat) (f : Walker → Walker) (k : Nat) :
    (b.modWalker n f).walker k = if k = n then f (b.walker n) else b.walker k := mget_mset _ _ _ _ _
theorem Block.setPart_part (b : Block) (n : Nat) (p : Part) (k : Nat) : (b.setPart n p).part k = if k = n then p else b.part k :=
  mget_mset _ _ _ _ _
@[simp] theorem Block.setPart_part_same (b : Block) (n : Nat) (p : Part) : (b.setPart n p).part n = p := by simp [setPart_part]
theorem Block.modPart_part (b : Block) (n : Nat) (f : Part → Part) (k : Nat) :
    (b.modPart n f).part k = if k = n then f (b.part n) else b.part k := mget_mset _ _ _ _ _
@[simp] theorem Block.modPart_part_same (b : Block) (n : Nat) (f : Part → Part) : (b.modPart n f).part n = f (b.part n) := by
  simp [modPart_part]
theorem Block.setEntry_entry (b : Block) (n : Nat) (e : LEntry) (k : Nat) :
    (b.setEntry n e).entry k = if k = n then e else b.entry k := mget_mset _ _ _ _ _
theorem Block.modEntry_entry (b : Block) (n : Nat) (f : LEntry → LEntry) (k : Nat) :
    (b.modEntry n f).entry k = if k = n then f (b.entry n) else b.entry k := mget_mset _ _ _ _ _
@[simp] theorem Block.modEntry_entry_same (b : Block) (n : Nat) (f : LEntry → LEntry) : (b.modEntry n f).entry n = f (b.entry n) := by
  simp [modEntry_entry]
theorem Block.count_cnt (b : Block) (a k j : Nat) : (b.count a k).cnt j = if j = a then (b.cnt a + k) % 2 ^ 64 else b.cnt j :=
  mget_mset _ _ _ _ _
theorem Block.reg_setReg_ne (b : Block) (a r v j q : Nat) (h : j ≠ a) : (b.setReg a r v).reg j q = b.reg j q := by
  simp [reg, setReg, mget_mset, h]
/-- A stored register reads back what was written, for a value and a reset value of 64 bits. -/
theorem Block.reg_setReg (b : Block) (a r v : Nat) (hr : r < 2 ^ 64) (hv : v < 2 ^ 64) : (b.setReg a r v).reg a r = v := by
  have h : Nat.xor v r < 2 ^ 64 := Nat.xor_lt_two_pow hv hr
  simp only [reg, setReg, mget_mset, if_true, BitVec.toNat_ofNat, Nat.mod_eq_of_lt h]
  show (v ^^^ r) ^^^ r = v
  rw [Nat.xor_assoc, Nat.xor_self, Nat.xor_zero]
theorem Block.memRead_memWrite_byte (b : Block) (a n v x : Nat) :
    (b.memWrite a n v).mem.byte x = if a ≤ x ∧ x < a + n then BitVec.ofNat 8 (v / 256 ^ (x - a)) else b.mem.byte x :=
  Memory.byte_write _ _ _ _ _
theorem Block.memWrite_wf {b : Block} {a n v : Nat} (h : b.mem.wf = true) : (b.memWrite a n v).mem.wf = true := Memory.wf_write h
theorem Block.memZero_wf {b : Block} {a n : Nat} (h : b.mem.wf = true) : (b.memZero a n).mem.wf = true := Memory.wf_zero h

end Sys2Proof.Machine
end

