-- ==== Sys2Proof/Laws/Event.lean ====
section
/-!
SUPPORT. Laws/Event.lean: everything the posting of an event can do (R14, R15, R471 to R478): it touches event rings, the DMA queues,
counters, LPDDR6 and what is sent, and keeps LPDDR6 in its form.
-/
namespace Sys2Proof.Machine

/-- What posting an event, or queueing a DMA transfer, leaves alone. -/
structure Posts (b b' : Block) : Prop where
  block : { b' with parts := b.parts, hub := b.hub, cnts := b.cnts, mem := b.mem, merr := b.merr, sent := b.sent } = b
  hub : { b'.hub with dma := b.hub.dma, dmaq := b.hub.dmaq, kw := b.hub.kw, platEvt := b.hub.platEvt, lastEvents := b.hub.lastEvents } = b.hub
  kw : { b'.hub.kw with rr := b.hub.kw.rr } = b.hub.kw
  part : ∀ n, { b'.part n with evt := (b.part n).evt } = b.part n
  mem : b.mem.wf = true → b'.mem.wf = true

theorem Posts.refl (b : Block) : Posts b b := ⟨rfl, rfl, rfl, fun _ => rfl, id⟩
theorem Posts.trans {a b c : Block} (h : Posts a b) (g : Posts b c) : Posts a c := by
  obtain ⟨h1, h2, h3, h4, h5⟩ := h
  obtain ⟨g1, g2, g3, g4, g5⟩ := g
  refine ⟨?_, ?_, ?_, fun n => ?_, fun x => g5 (h5 x)⟩
  · rw [← g1] at h1; exact h1
  · rw [← g2] at h2; exact h2
  · rw [← g3] at h3; exact h3
  · have := h4 n; rw [← g4 n] at this; exact this
theorem Posts.cells {b b' : Block} (h : Posts b b') : b'.cells = b.cells := by have := h.block; rw [← this]
theorem Posts.walkers {b b' : Block} (h : Posts b b') : b'.walkers = b.walkers := by have := h.block; rw [← this]
theorem Posts.entries {b b' : Block} (h : Posts b b') : b'.entries = b.entries := by have := h.block; rw [← this]
theorem Posts.rem {b b' : Block} (h : Posts b b') : b'.rem = b.rem := by have := h.block; rw [← this]
theorem Posts.fab {b b' : Block} (h : Posts b b') : b'.fab = b.fab := by have := h.block; rw [← this]
theorem Posts.pow {b b' : Block} (h : Posts b b') : b'.pow = b.pow := by have := h.block; rw [← this]
theorem Posts.clk {b b' : Block} (h : Posts b b') : b'.clk = b.clk := by have := h.block; rw [← this]
theorem Posts.sec {b b' : Block} (h : Posts b b') : b'.sec = b.sec := by have := h.block; rw [← this]
theorem Posts.kept {b b' : Block} (h : Posts b b') : b'.kept = b.kept := by have := h.block; rw [← this]
theorem Posts.regs {b b' : Block} (h : Posts b b') : b'.regs = b.regs := by have := h.block; rw [← this]
theorem Posts.now {b b' : Block} (h : Posts b b') : b'.now = b.now := by have := h.block; rw [← this]
theorem Posts.cell {b b' : Block} (h : Posts b b') (n : Nat) : b'.cell n = b.cell n := by simp only [Block.cell, h.cells]
theorem Posts.cmds {b b' : Block} (h : Posts b b') : b'.hub.cmds = b.hub.cmds := by have := h.hub; rw [← this]
theorem Posts.escal {b b' : Block} (h : Posts b b') : b'.hub.escal = b.hub.escal := by have := h.hub; rw [← this]
theorem Posts.tallies {b b' : Block} (h : Posts b b') : b'.hub.tallies = b.hub.tallies := by have := h.hub; rw [← this]
theorem Posts.fatal {b b' : Block} (h : Posts b b') : b'.hub.fatal = b.hub.fatal := by have := h.hub; rw [← this]
theorem Posts.kwUp {b b' : Block} (h : Posts b b') : kwUp b' = kwUp b := by
  have := h.kw; unfold Machine.kwUp; rw [h.fatal, ← this]
theorem Posts.part_st {b b' : Block} (h : Posts b b') (n : Nat) : (b'.part n).st = (b.part n).st := by have := h.part n; rw [← this]
theorem Posts.part_commits {b b' : Block} (h : Posts b b') (n : Nat) : (b'.part n).commits = (b.part n).commits := by have := h.part n; rw [← this]

theorem send_posts (b : Block) (m : Msg) : Posts b (b.send m) := ⟨rfl, rfl, rfl, fun _ => rfl, id⟩
theorem count_posts (b : Block) (a k : Nat) : Posts b (b.count a k) := ⟨rfl, rfl, rfl, fun _ => rfl, id⟩
theorem memWrite_posts (b : Block) (a n v : Nat) : Posts b (b.memWrite a n v) := ⟨rfl, rfl, rfl, fun _ => rfl, Block.memWrite_wf⟩
theorem modHub_posts (b : Block) (f : Hub → Hub) (h : { f b.hub with dma := b.hub.dma, dmaq := b.hub.dmaq, kw := b.hub.kw, platEvt := b.hub.platEvt, lastEvents := b.hub.lastEvents } = b.hub)
    (k : { (f b.hub).kw with rr := b.hub.kw.rr } = b.hub.kw) : Posts b (b.modHub f) := ⟨rfl, h, k, fun _ => rfl, id⟩
theorem modEvt_posts (b : Block) (n : Nat) (f : Part → Part) (h : { f (b.part n) with evt := (b.part n).evt } = b.part n) : Posts b (b.modPart n f) := by
  refine ⟨rfl, rfl, rfl, fun m => ?_, id⟩
  rw [Block.modPart_part]
  split
  · next e => subst e; exact h
  · rfl
theorem dmaIssue_posts : ∀ (n : Nat) (b : Block), Posts b (dmaIssue n b)
  | 0, b => .refl b
  | n + 1, b => by
    unfold dmaIssue
    split
    · dsimp only
      refine .trans ?_ (dmaIssue_posts n _)
      split
      · exact .trans (.trans (modHub_posts b _ (by rfl) (by rfl)) (send_posts _ _)) (count_posts _ _ _)
      · exact .trans (modHub_posts b _ (by rfl) (by rfl)) (send_posts _ _)
    · exact .refl b
theorem dmaPush_posts (b : Block) (w : DmaWait) : Posts b (dmaPush b w) := .trans (modHub_posts b _ (by rfl) (by rfl)) (dmaIssue_posts _ _)
theorem platPut_posts (b : Block) (r : Nat) : Posts b (platPut b r) := by
  unfold platPut
  dsimp only
  split
  · exact modHub_posts b _ (by rfl) (by rfl)
  · exact .trans (memWrite_posts _ _ _ _) (modHub_posts _ _ (by rfl) (by rfl))
theorem platLost_posts (b : Block) : Posts b (platLost b) := by
  unfold platLost
  dsimp only
  split
  · exact .refl b
  · exact .trans (modHub_posts b _ (by rfl) (by rfl)) (platPut_posts _ _)
theorem postPlat_posts (b : Block) (r : Nat) : Posts b (postPlat b r) := by
  unfold postPlat
  dsimp only
  have h : ∀ c : Block, Posts b c → Posts b (if !c.hub.platEvt.en then c else platPut (platLost c) r) := fun c hc => by
    split
    · exact hc
    · exact .trans hc (.trans (platLost_posts _) (platPut_posts _ _))
  apply h
  split
  · split
    · exact .trans (modHub_posts b _ (by rfl) (by rfl)) (send_posts _ _)
    · exact modHub_posts b _ (by rfl) (by rfl)
  · exact .refl b
theorem lostEvent_posts (b : Block) (n : Nat) : Posts b (lostEvent b n) := modEvt_posts b n _ (by rfl)
theorem eventRingFault_posts (b : Block) (n : Nat) (st : Status) (check idx : Nat) : Posts b (eventRingFault b n st check idx) :=
  .trans (modEvt_posts b n _ (by rfl)) (postPlat_posts _ _)
theorem putEvent_posts (b : Block) (n r : Nat) : Posts b (putEvent b n r) := by
  unfold putEvent
  dsimp only
  split
  · exact lostEvent_posts b n
  · split
    · split
      · exact .trans (eventRingFault_posts _ _ _ _ _) (lostEvent_posts _ _)
      · exact .trans (memWrite_posts _ _ _ _) (modEvt_posts _ _ _ (by rfl))
    · split
      · exact lostEvent_posts b n
      · exact .trans (modEvt_posts b n _ (by rfl)) (dmaPush_posts _ _)
theorem postPart_posts (b : Block) (n r : Nat) : Posts b (postPart b n r) := by
  unfold postPart
  dsimp only
  split
  · exact .refl b
  · split
    · exact .refl b
    · refine .trans ?_ (putEvent_posts _ _ _)
      split
      · exact .trans (modEvt_posts b n _ (by rfl)) (putEvent_posts _ _ _)
      · exact .refl b
/-- Everything an event of a partition can do. -/
theorem event_posts (b : Block) (n ty : Nat) (st : Status) (sev loc det : Nat) : Posts b (event b n ty st sev loc det) := by
  unfold event
  dsimp only
  have h : Posts b (if sev = 4 then b else postPart b n (eventRec ty st sev loc n b.mtime det)) := by
    split
    · exact .refl b
    · exact postPart_posts _ _ _
  split
  · exact .trans h (postPlat_posts _ _)
  · exact h
theorem eventPlat_posts (b : Block) (n ty : Nat) (st : Status) (sev loc det : Nat) : Posts b (eventPlat b n ty st sev loc det) := postPlat_posts _ _
theorem eventBoth_posts (b : Block) (n ty : Nat) (st : Status) (sev loc det : Nat) : Posts b (eventBoth b n ty st sev loc det) :=
  .trans (postPart_posts _ _ _) (eventPlat_posts _ _ _ _ _ _ _)

end Sys2Proof.Machine
end

