-- ==== Sys2Proof/Laws/Lanes.lean ====
section
/-!
SUPPORT. Laws/Lanes.lean: lanes and predicate bits of values built lane by lane, and of guarded writes.
-/
namespace Sys2Proof.Machine

/-- The value that `k`-bit digits from index `s` make, lowest first. -/
theorem digits_lt (k : Nat) (f : Nat → Nat) : ∀ n s, (List.range' s n).foldr (fun i a => a * 2 ^ k + f i % 2 ^ k) 0 < 2 ^ (k * n)
  | 0, _ => by simp
  | n + 1, s => by
    have ih := digits_lt k f n (s + 1)
    have h2 : f s % 2 ^ k < 2 ^ k := Nat.mod_lt _ (Nat.two_pow_pos k)
    simp only [List.range'_succ, List.foldr_cons]
    generalize (List.range' (s + 1) n).foldr (fun i a => a * 2 ^ k + f i % 2 ^ k) 0 = x at *
    have h3 : x + 1 ≤ 2 ^ (k * n) := ih
    have h4 : (x + 1) * 2 ^ k ≤ 2 ^ (k * n) * 2 ^ k := Nat.mul_le_mul_right _ h3
    have h5 : 2 ^ (k * (n + 1)) = 2 ^ (k * n) * 2 ^ k := by rw [Nat.mul_succ, pow_add]
    rw [Nat.add_mul] at h4
    omega
theorem digits_get (k : Nat) (f : Nat → Nat) : ∀ n s i, i < n →
    (List.range' s n).foldr (fun i a => a * 2 ^ k + f i % 2 ^ k) 0 / 2 ^ (k * i) % 2 ^ k = f (s + i) % 2 ^ k
  | 0, _, i, h => absurd h (Nat.not_lt_zero i)
  | n + 1, s, i, h => by
    simp only [List.range'_succ, List.foldr_cons]
    have h2 : f s % 2 ^ k < 2 ^ k := Nat.mod_lt _ (Nat.two_pow_pos k)
    cases i with
    | zero => simp
    | succ i =>
      have ih := digits_get k f n (s + 1) i (by omega)
      have h5 : 2 ^ (k * (i + 1)) = 2 ^ k * 2 ^ (k * i) := by rw [Nat.mul_succ, pow_add, Nat.mul_comm]
      have h6 : s + (i + 1) = s + 1 + i := by omega
      rw [h5, ← Nat.div_div_eq_div_mul, h6, ← ih]
      congr 2
      rw [Nat.mul_comm, Nat.mul_add_div (Nat.two_pow_pos k), Nat.div_eq_of_lt h2, Nat.add_zero]

theorem lane_ofLanes (f : Nat → Nat) (i : Nat) (h : i < 256) : lane (ofLanes f) i = f i % 2 ^ 32 := by
  have hlt := digits_lt 32 f 256 0
  have hg := digits_get 32 f 256 0 i h
  simp only [Nat.zero_add] at hg
  unfold lane ofLanes bits
  have hlt' : (List.range' 0 256).foldr (fun i a => a * 2 ^ 32 + f i % 2 ^ 32) 0 < 2 ^ 8192 := hlt
  rw [List.range_eq_range', BitVec.toNat_ofNat, Nat.mod_eq_of_lt hlt', Nat.shiftRight_eq_div_pow]
  exact hg
theorem lane_lt (v : VReg) (i : Nat) : lane v i < 2 ^ 32 := Nat.mod_lt _ (Nat.two_pow_pos 32)
theorem pbit_eq (p : PReg) (i : Nat) : pbit p i = p.getLsbD i := by
  unfold pbit bit BitVec.getLsbD Nat.testBit
  rw [Nat.and_comm, Nat.and_one_is_mod]
  rcases Nat.mod_two_eq_zero_or_one (p.toNat >>> i) with h | h <;> simp [h]
theorem pbit_allOnes (i : Nat) (h : i < 256) : pbit (BitVec.allOnes 256) i = true := by
  rw [pbit_eq, BitVec.getLsbD_allOnes]; simpa using h
theorem pbit_ofBits (f : Nat → Bool) (i : Nat) (h : i < 256) : pbit (ofBits f) i = f i := by
  have hlt := digits_lt 1 (fun i => b2n (f i)) 256 0
  have hg := digits_get 1 (fun i => b2n (f i)) 256 0 i h
  have hm : ∀ i, b2n (f i) % 2 = b2n (f i) := fun i => by unfold b2n; split <;> rfl
  simp only [Nat.zero_add, pow_one, hm, Nat.one_mul] at hg hlt
  unfold pbit ofBits bit
  rw [List.range_eq_range', BitVec.toNat_ofNat, Nat.mod_eq_of_lt hlt, Nat.shiftRight_eq_div_pow, hg]
  unfold b2n; cases f i <;> rfl
/-- A guarded write: the new value in lanes whose bit is 1, the old value elsewhere. -/
theorem lane_blend (g : PReg) (new old : VReg) (i : Nat) (h : i < 256) :
    lane (blend g new old) i = if pbit g i = true then lane new i else lane old i := by
  unfold blend
  split
  · rename_i hg; rw [hg, pbit_allOnes i h, if_pos rfl]
  · rw [lane_ofLanes _ _ h, Nat.mod_eq_of_lt]
    split <;> exact lane_lt _ _
theorem pbit_blendP (g new old : PReg) (i : Nat) (h : i < 256) :
    pbit (blendP g new old) i = if pbit g i = true then pbit new i else pbit old i := by
  simp only [pbit_eq, blendP, BitVec.getLsbD_or, BitVec.getLsbD_and, BitVec.getLsbD_not, h, decide_true, Bool.true_and]
  cases g.getLsbD i <;> simp

end Sys2Proof.Machine
end

