-- ==== Sys2Proof/Laws/Ring.lean ====
section
/-!
SUPPORT. Laws/Ring.lean: everything the end of a ring command can do (R395, R476, R480), and what a command is after a change of one.
-/
namespace Sys2Proof.Machine

/-- What the completion of commands leaves alone: it touches the commands' own fields, commit orders, rings and DMA. -/
structure Rings (b b' : Block) : Prop where
  block : { b' with parts := b.parts, hub := b.hub, cnts := b.cnts, mem := b.mem, merr := b.merr, sent := b.sent } = b
  hub : { b'.hub with cmds := b.hub.cmds, dma := b.hub.dma, dmaq := b.hub.dmaq, kw := b.hub.kw, platEvt := b.hub.platEvt, lastEvents := b.hub.lastEvents } = b.hub
  kw : { b'.hub.kw with rr := b.hub.kw.rr } = b.hub.kw
  part : ∀ n, { b'.part n with evt := (b.part n).evt, comp := (b.part n).comp, commits := (b.part n).commits } = b.part n
  ids : b'.hub.cmds.map (fun c => (c.id, c.part, c.idx, c.desc)) = b.hub.cmds.map fun c => (c.id, c.part, c.idx, c.desc)
  mem : b.mem.wf = true → b'.mem.wf = true

theorem Rings.refl (b : Block) : Rings b b := ⟨rfl, rfl, rfl, fun _ => rfl, rfl, id⟩
theorem Rings.trans {a b c : Block} (h : Rings a b) (g : Rings b c) : Rings a c := by
  obtain ⟨h1, h2, h3, h4, h5, h6⟩ := h
  obtain ⟨g1, g2, g3, g4, g5, g6⟩ := g
  refine ⟨?_, ?_, ?_, fun n => ?_, g5.trans h5, fun x => g6 (h6 x)⟩
  · rw [← g1] at h1; exact h1
  · rw [← g2] at h2; exact h2
  · rw [← g3] at h3; exact h3
  · have := h4 n; rw [← g4 n] at this; exact this
theorem Posts.rings {b b' : Block} (h : Posts b b') : Rings b b' := by
  refine ⟨h.block, ?_, h.kw, fun n => ?_, by rw [h.cmds], h.mem⟩
  · have := h.hub; rw [← this]
  · have := h.part n; rw [← this]
theorem Rings.cells {b b' : Block} (h : Rings b b') : b'.cells = b.cells := by have := h.block; rw [← this]
theorem Rings.entries {b b' : Block} (h : Rings b b') : b'.entries = b.entries := by have := h.block; rw [← this]
theorem Rings.rem {b b' : Block} (h : Rings b b') : b'.rem = b.rem := by have := h.block; rw [← this]
theorem Rings.fab {b b' : Block} (h : Rings b b') : b'.fab = b.fab := by have := h.block; rw [← this]
theorem Rings.pow {b b' : Block} (h : Rings b b') : b'.pow = b.pow := by have := h.block; rw [← this]
theorem Rings.clk {b b' : Block} (h : Rings b b') : b'.clk = b.clk := by have := h.block; rw [← this]
theorem Rings.sec {b b' : Block} (h : Rings b b') : b'.sec = b.sec := by have := h.block; rw [← this]
theorem Rings.regs {b b' : Block} (h : Rings b b') : b'.regs = b.regs := by have := h.block; rw [← this]
theorem Rings.tallies {b b' : Block} (h : Rings b b') : b'.hub.tallies = b.hub.tallies := by have := h.hub; rw [← this]
theorem Rings.escal {b b' : Block} (h : Rings b b') : b'.hub.escal = b.hub.escal := by have := h.hub; rw [← this]
theorem Rings.kwUp {b b' : Block} (h : Rings b b') : Machine.kwUp b' = Machine.kwUp b := by
  have f : b'.hub.fatal = b.hub.fatal := by have := h.hub; rw [← this]
  have := h.kw; unfold Machine.kwUp; rw [f, ← this]
theorem Rings.part_st {b b' : Block} (h : Rings b b') (n : Nat) : (b'.part n).st = (b.part n).st := by have := h.part n; rw [← this]
theorem Rings.part_models {b b' : Block} (h : Rings b b') (n : Nat) : (b'.part n).models = (b.part n).models := by have := h.part n; rw [← this]

/-! One command. -/
theorem cmdOf_modCmd (b : Block) (id : Nat) (f : Cmd → Cmd) (hf : ∀ c, (f c).id = c.id) (i : Nat) :
    cmdOf (modCmd b id f) i = (cmdOf b i).map fun c => if i = id then f c else c := by
  unfold cmdOf modCmd
  simp only [Block.modHub]
  induction b.hub.cmds with
  | nil => rfl
  | cons c l ih =>
    simp only [List.map_cons, List.find?_cons]
    have e : (if c.id = id then f c else c).id = c.id := by split <;> simp [hf]
    rw [e]
    by_cases h : c.id = i
    · subst h; simp
    · simp only [beq_eq_false_iff_ne.mpr h, ih]
theorem modCmd_rings (b : Block) (id : Nat) (f : Cmd → Cmd) (hf : ∀ c, ((f c).id, (f c).part, (f c).idx, (f c).desc) = (c.id, c.part, c.idx, c.desc)) :
    Rings b (modCmd b id f) := by
  refine ⟨rfl, rfl, rfl, fun _ => rfl, ?_, fun h => h⟩
  show (b.hub.cmds.map fun c => if c.id = id then f c else c).map _ = _
  rw [List.map_map]
  refine List.map_congr_left fun c _ => ?_
  simp only [Function.comp]
  by_cases h : c.id = id
  · simpa [h] using hf c
  · simp [h]
theorem modComp_rings (b : Block) (n : Nat) (f : Part → Part)
    (h : { f (b.part n) with evt := (b.part n).evt, comp := (b.part n).comp, commits := (b.part n).commits } = b.part n) : Rings b (b.modPart n f) := by
  refine ⟨rfl, rfl, rfl, fun m => ?_, rfl, fun h => h⟩
  rw [Block.modPart_part]
  split
  · next e => subst e; exact h
  · rfl
theorem compWrite_rings (b : Block) (n : Nat) (c : Cmd) (slot : Nat) : Rings b (compWrite b n c slot) :=
  .trans (modCmd_rings b c.id (fun c => { c with st := .posting, slot := slot }) fun _ => rfl) (dmaPush_posts _ _).rings
theorem postCommits_rings : ∀ (n k : Nat) (b : Block), Rings b (postCommits n k b)
  | _, 0, b => .refl b
  | n, k + 1, b => by
    unfold postCommits
    dsimp only
    split
    · exact .refl b
    · split
      · exact .trans (modComp_rings b n _ (by rfl)) (postCommits_rings n k _)
      · split
        · exact .refl b
        · exact .trans (.trans (modComp_rings b n _ (by rfl)) (compWrite_rings _ n _ _)) (postCommits_rings n k _)
theorem postAll_rings (b : Block) (n : Nat) : Rings b (postAll b n) := postCommits_rings _ _ _
/-- Everything the end of a command can do. -/
theorem finish_rings (b : Block) (id : Nat) (st : Status) (res : Nat) (fl : Flags) : Rings b (finish b id st res fl) := by
  unfold finish
  split
  · exact .refl b
  · split
    · exact .refl b
    · next c _ _ =>
      exact .trans (.trans (modCmd_rings b id (fun c => { c with st := .commit, status := st, result := res, flags := c.flags.or fl }) fun _ => rfl)
        (modComp_rings _ c.part (fun p => { p with commits := p.commits ++ [id] }) rfl)) (postAll_rings _ _)
/-- A command refused at validation, or whose checks pass. -/
theorem checked_eq (b : Block) (c : Cmd) (l : List (Bool × Status)) (go : Block → Block) :
    checked b c l go = match refuse l with | some st => finish b c.id st | none => go b := rfl

end Sys2Proof.Machine
end

