-- ==== Sys2Proof/Laws/Regs.lean ====
section
/-!
SUPPORT. Laws/Regs.lean: what follows a command that raised nothing, register rows that a write stores, the unit that an address of
a cell names, and the answers of a request that is not performed.
-/
namespace Sys2Proof.Machine

/-! What follows a command's effect. -/
theorem metEvents_nil {b : Block} (h : ∀ e ∈ b.cells, e.2.met = []) : metEvents b = b := by
  have : b.cells.filter (fun e => !e.2.met.isEmpty) = [] := List.filter_eq_nil_iff.mpr fun e he => by simp [h e he]
  simp [metEvents, this, Block.each]
/-- A command that raised no escalation, corrected no word and queued no packet has nothing after its effect. -/
theorem settle_nil {b : Block} (h : b.hub.escal = []) (hm : ∀ e ∈ b.cells, e.2.met = []) (hf : b.fab.fresh = []) : settle b = b := by
  simp [settle, metEvents_nil hm, h, pumpLinks, hf]
theorem collSettle_nil {b : Block} (n : Nat) (h : b.fab.answers = []) : collSettle n b = b := by
  cases n with
  | zero => rfl
  | succ n => simp [collSettle, h]
theorem act_eq (f : Block → Block) (s : State) : act f s = .next { s with blk := f s.blk } := rfl
theorem run_eq (f : Block → Block) (s : State) : run f s = .next { s with blk := settle (f s.blk) } := rfl
theorem fabRun_eq (f : Block → Block) (s : State) : fabRun f s = .next { s with blk := settle (collSettle 8 (f s.blk)) } := rfl

/-! Stored registers. -/
theorem stored_read (off rd wr reset : Nat) (fix : Nat → Nat) (d1 d2 : Nat × Nat) (x : RegAt) (b : Block) :
    (stored off rd wr reset fix d1 d2).read x b = (b.reg x.a reset, b) := rfl
theorem stored_write (off rd wr reset : Nat) (fix : Nat → Nat) (d1 d2 : Nat × Nat) (x : RegAt) (v : Nat) (b : Block) :
    (stored off rd wr reset fix d1 d2).write x v b = b.setReg x.a reset (fix v) := rfl
theorem low_lt (n v : Nat) : low n v < 2 ^ n := Nat.mod_lt _ (Nat.two_pow_pos n)

/-! Address decode: the cells. -/
theorem cellBase_eq (k : Nat) : cellBase k = k / 40 * 134217728 + k % 40 / 8 * 16777216 + k % 8 * 1048576 := by
  unfold cellBase
  rw [Nat.shiftLeft_eq, Nat.shiftLeft_eq, Nat.shiftLeft_eq, show (2 : Nat) ^ 27 = 134217728 by norm_num, show (2 : Nat) ^ 24 = 16777216 by norm_num,
    show (2 : Nat) ^ 20 = 1048576 by norm_num]
theorem bits_eq (x k n : Nat) : bits x k n = x / 2 ^ k % 2 ^ n := by simp only [bits, Nat.shiftRight_eq_div_pow]
/-- An offset below 1 MiB in a cell's space names that cell. -/
theorem regUnit_cell (k off : Nat) (hk : k < 800) (ho : off < 1048576) : regUnit (cellBase k + off) = some (cellRows, k) := by
  have e := cellBase_eq k
  have h1 : (cellBase k + off) / 134217728 = k / 40 := by omega
  have h2 : (cellBase k + off) / 16777216 % 8 = k % 40 / 8 := by omega
  have h3 : (cellBase k + off) / 1048576 % 16 = k % 8 := by omega
  unfold regUnit
  simp only [bits_eq, Nat.reducePow, h1, h2, h3]
  rw [if_pos (by omega), if_pos (by omega), show 40 * (k / 40) + 8 * (k % 40 / 8) + k % 8 = k by omega]
theorem cellBase_off (k off : Nat) (ho : off < 1048576) : (cellBase k + off) % 1048576 = off := by have e := cellBase_eq k; omega

/-! Requests that are not performed. -/
theorem mgmtReq_closed {p : Path} {b : Block} (h : pathOpen b (pathCode p) = false ∨ pathFull b (pathCode p) = true) (a size : Nat) (w : Bool) (v : Nat) :
    mgmtReq p a size w v b = b := by
  unfold mgmtReq
  rcases h with h | h <;> simp [h]

end Sys2Proof.Machine
end

