-- ==== Sys2Proof/Laws/Thread.lean ====
section
/-!
SUPPORT. Laws/Thread.lean: reads after writes of a thread's registers, the next position, and what the issue of an
instruction does.
-/
namespace Sys2Proof.Machine

theorem Thread.setS_sr (t : Thread) (d : Nat) (v : Word) (r : Nat) : (t.setS d v).sr r = if r = d ∧ r ≠ 0 then v else t.sr r := by
  unfold setS sr
  by_cases hd : d = 0
  · by_cases hr : r = 0 <;> simp [hd, hr]
  · by_cases hr : r = 0
    · simp [hr]
    · by_cases h : r = d
      · subst h; simp [hr]
      · simp [hd, hr, h, mget_mset]
theorem Thread.setP_pr (t : Thread) (d : Nat) (v : PReg) (r : Nat) : (t.setP d v).pr r = if r = d ∧ r ≠ 0 then v else t.pr r := by
  unfold setP pr
  by_cases hd : d = 0
  · by_cases hr : r = 0 <;> simp [hd, hr]
  · by_cases hr : r = 0
    · simp [hr]
    · by_cases h : r = d
      · subst h; simp [hr]
      · simp [hd, hr, h, mget_mset]
theorem Thread.setV_vr (t : Thread) (d : Nat) (v : VReg) (r : Nat) : (t.setV d v).vr r = if r = d then v else t.vr r := by
  simp [setV, vr, mget_mset]
theorem Thread.setToken_token (t : Thread) (k : Nat) (x : Token) (j : Nat) : (t.setToken k x).token j = if j = k then x else t.token j := by
  simp [setToken, token, mget_mset]
/-- A write of a scalar touches the scalars only. -/
theorem Thread.setS_rest (t : Thread) (d : Nat) (v : Word) : { t.setS d v with s := t.s } = t := by
  unfold setS; split <;> rfl
theorem Thread.setP_rest (t : Thread) (d : Nat) (v : PReg) : { t.setP d v with p := t.p } = t := by
  unfold setP; split <;> rfl
theorem Thread.setV_rest (t : Thread) (d : Nat) (v : VReg) : { t.setV d v with v := t.v } = t := rfl
/-- The next position is a change of the position and of the loop only, chosen by them. -/
theorem Thread.advance_eq (t : Thread) : t.advance = { t with pc := t.advance.pc, loop := t.advance.loop } := by
  unfold advance; split
  · rfl
  · split <;> (try split) <;> rfl
theorem Thread.advance_ne (t : Thread) : t.advance ≠ t := by
  intro h
  unfold advance at h
  split at h
  · have := congrArg Thread.pc h; simp at this
  · rename_i l hl
    split at h
    · split at h
      · have := congrArg Thread.pc h; simp at this
      · have := congrArg Thread.loop h
        simp only [hl, Option.some.injEq] at this
        have := congrArg Loop.left this
        simp at this; omega
    · have := congrArg Thread.pc h; simp at this
theorem Thread.advance_congr {t u : Thread} (h1 : u.pc = t.pc) (h2 : u.loop = t.loop) :
    u.advance.pc = t.advance.pc ∧ u.advance.loop = t.advance.loop := by
  unfold advance; rw [h1, h2]; split
  · simp
  · split
    · split <;> simp
    · simp
@[simp] theorem Thread.advance_s (t : Thread) : t.advance.s = t.s := by rw [advance_eq]
@[simp] theorem Thread.advance_p (t : Thread) : t.advance.p = t.p := by rw [advance_eq]
@[simp] theorem Thread.advance_v (t : Thread) : t.advance.v = t.v := by rw [advance_eq]
@[simp] theorem Thread.advance_tok (t : Thread) : t.advance.tok = t.tok := by rw [advance_eq]
@[simp] theorem Thread.advance_st (t : Thread) : t.advance.st = t.st := by rw [advance_eq]
@[simp] theorem Thread.advance_wait (t : Thread) : t.advance.wait = t.wait := by rw [advance_eq]

/-- The issue of an instruction whose whole effect is a change of its own thread: the thread changes and moves on, and
ISSUED counts; a thread that cannot issue leaves the block as it was. -/
theorem issueThread_eq {b : Block} {w : Who} {word : Nat} {f : Thread → Thread} (hl : cellLive (b.cell w.cell) = true)
    (hr : (b.thread w.cell w.thr).st = .run) (hs : (b.thread w.cell w.thr).stalled = none)
    (hp : (b.thread w.cell w.thr).pc < (b.cell w.cell).codeCount) (hw : (f (b.thread w.cell w.thr)).st ≠ .wait)
    (hf : (f (b.thread w.cell w.thr)).st ≠ .fault) (hn : (f (b.thread w.cell w.thr)).advance ≠ b.thread w.cell w.thr) :
    issueThread b w word f = (b.modThread w.cell w.thr fun t => (f t).advance).countC w.cell 0x400 := by
  have e : (b.cell w.cell).thread w.thr = b.thread w.cell w.thr := rfl
  unfold issueThread issue
  simp only [e, hl, hr, hs, Nat.not_le.mpr hp, Block.modThread, Block.modCell_cell_same, Cell.modThread_thread_same,
    Thread.advance_st, hw, Bool.not_true, Option.isSome_none, ne_eq, not_true_eq_false, decide_false,
    Bool.or_self, Bool.false_eq_true, ↓reduceIte, beq_iff_eq, Bool.or_eq_true, Bool.and_eq_true, hf, hn, false_and, or_self]

end Sys2Proof.Machine
end

