-- ==== Sys2Proof/Tests/Slice0.lean ====
section
/-!
SUPPORT. Tests/Slice0.lean: the model's own tests: ill-formed commands are refused, the spec's worked encodings, one word of each
family, single steps on small states, and for each statement states and operands that meet its hypotheses.
-/
namespace Sys2Proof.Tests
open Sys2Proof Sys2Proof.Machine Sys2Proof.Claims
set_option Elab.async false

/-! Builders. -/
def who : Who := { cell := 3, thr := 2, pred := 0, pneg := false }
def fr (d a b : BitVec 5) (c : BitVec 5 := 0) (typ : BitVec 4 := 0) (mod : BitVec 8 := 0) (sr : Bool := false) : FR :=
  { w := who, d := d, a := a, b := b, c := c, typ := typ, mod := mod, sr := sr }
def fi (d a : BitVec 5) (imm : BitVec 32) : FI := { w := who, d := d, a := a, typ := 0, imm := imm }
def fm (data base : BitVec 5) (buf : BitVec 8) (size : BitVec 3) (tag : BitVec 2) (off : BitVec 23) : FM :=
  { w := who, data := data, base := base, buf := buf, size := size, tag := tag, off := off }
def fb (a b : BitVec 5) (cond : BitVec 4) (disp : BitVec 32) : FB := { w := who, a := a, b := b, cond := cond, disp := disp }
def fd (token : BitVec 4) (base : BitVec 5) (buf : BitVec 8) (off : BitVec 23) : FD := { w := who, token := token, base := base, buf := buf, off := off }
/-- A record from (byte offset, bytes, value). -/
def record (l : List (Nat × Nat × Nat)) : Rec := BitVec.ofNat 512 (l.foldl (fun a x => a + x.2.2 % 2 ^ (8 * x.2.1) * 2 ^ (8 * x.1)) 0)
def ready : Thread := { st := .run, pc := 4, s := [(1, 5), (2, 7), (3, 64), (4, 0)], accMask := 3 }
/-- Cell 3 with thread 2 about to issue, buffer 10 of 64 KiB at store offset 0, and a program of 100 instructions. -/
def cellA : Cell := { loaded := true, codeCount := 100, assigned := true, part := 1, thr := [(2, ready)], bufs := [(10, { base := 0, len := 65536, valid := true })] }
def on (c : Cell) : State := { blk := { cells := [(3, c)] } }
/-- The block after a command, an empty one where it answers none. -/
def after (i : Instr) (s : State) : Block := match exec i s with | .next t => t.blk | _ => {}
def sreg (b : Block) (r : Nat) : Nat := ((b.thread 3 2).sr r).toNat

/-! Well-formedness: one ill-formed command for each check of R69, and for each check of the records and payloads. -/
theorem test_wf_accepts : Instr.wf (.sAdd (fr 3 1 2)) = true := by decide
theorem test_wf_refuses_reserved_field : Instr.wf (.sAdd (fr 3 1 2 1)) = false := by decide
theorem test_wf_refuses_type : Instr.wf (.vAdd (fr 3 1 2 0 5)) = false := by decide
theorem test_wf_refuses_size : Instr.wf (.sLd (fm 1 0 10 4 0 0)) = false := by decide
theorem test_wf_refuses_tag : Instr.wf (.sLd (fm 1 0 10 3 3 0)) = false := by decide
theorem test_wf_refuses_cond : Instr.wf (.cBr (fb 0 0 10 1)) = false := by decide
theorem test_wf_refuses_compare : Instr.wf (.vCmp (fr 1 1 2 0 0 7)) = false := by decide
theorem test_wf_refuses_guard : Instr.wf (.cNop { fr 0 0 0 with w := { who with pred := 1 } }) = false := by decide
theorem test_wf_refuses_csr : Instr.wf (.sCsrw (fi 0 1 3)) = false := by decide
theorem test_wf_refuses_loop_length : Instr.wf (.cLoop (fi 0 1 65)) = false := by decide
theorem test_wf_refuses_cvt : Instr.wf (.vCvt (fr 1 1 0 2 0 0x11)) = false := by decide
theorem test_wf_refuses_fence : Instr.wf (.dFence (fi 0 0 0)) = false := by decide
theorem test_wf_refuses_opcode : Instr.wf (.batch 1 (record [(0, 1, 0x51)])) = false := by decide +kernel
theorem test_wf_accepts_opcode : Instr.wf (.batch 1 (record [(0, 1, 0x52)])) = true := by decide +kernel
theorem test_wf_refuses_payload : Instr.wf (.dmaData 0 0 0 { len := 1, val := 256 }) = false := by decide
theorem test_decode_refuses_class : decodeWord 3 2 0x7000000000000000 = none := by decide
theorem test_decode_refuses_op : decodeWord 3 2 0x0FF0000000000000 = none := by decide

/-! Encodings: the two worked words of spec 03, and a word of each class written out field by field. -/
theorem test_word_fma : decodeWord 3 2 0x1030104222000000 = some (.vFma (fr 2 1 1 2 2)) := by decide
theorem test_word_vld : decodeWord 3 2 0x16000902B0000000 = some (.vLd (fm 1 4 10 6 0 0)) := by decide
-- CLASS 0, OP 0x20, PRED 3, PNEG 1, DST 5, A 1, IMM -1
theorem test_word_s_addi : decodeWord 3 2 (0x020 * 2 ^ 52 + 3 * 2 ^ 49 + 1 * 2 ^ 48 + 5 * 2 ^ 43 + 1 * 2 ^ 38 + 0xFFFFFFFF) =
    some (.sAddi { fi 5 1 0xFFFFFFFF with w := { who with pred := 3, pneg := true } }) := by decide
-- CLASS 2, OP 0x00, TOKEN 9, BASE 3, BUF 10, OFF 0x40
theorem test_word_m_chain : decodeWord 3 2 (0x200 * 2 ^ 52 + 9 * 2 ^ 44 + 3 * 2 ^ 38 + 10 * 2 ^ 30 + 0x40) = some (.mChain (fd 9 3 10 0x40)) := by decide
-- CLASS 3, OP 0x02, IMM 3
theorem test_word_d_fence : decodeWord 3 2 (0x302 * 2 ^ 52 + 3) = some (.dFence (fi 0 0 3)) := by decide
-- CLASS 4, OP 0x05, TOKEN 1, BASE 0, BUF 2, OFF 128
theorem test_word_b_tagset : decodeWord 3 2 (0x405 * 2 ^ 52 + 1 * 2 ^ 44 + 2 * 2 ^ 30 + 128) = some (.bTagset (fd 1 0 2 128)) := by decide
-- CLASS 5, OP 0x00, IMM 0x10002
theorem test_word_y_wtok : decodeWord 3 2 (0x500 * 2 ^ 52 + 0x10002) = some (.yWtok (fi 0 0 0x10002)) := by decide
-- CLASS 6, OP 0x01, A 2, B 1, COND 3, DISP -2
theorem test_word_c_br : decodeWord 3 2 (0x601 * 2 ^ 52 + 2 * 2 ^ 43 + 1 * 2 ^ 38 + 3 * 2 ^ 34 + 0xFFFFFFFE) = some (.cBr (fb 2 1 3 0xFFFFFFFE)) := by decide

/-! Cells, instruction by instruction. -/
theorem test_s_add : sreg (after (.sAdd (fr 3 1 2)) (on cellA)) 3 = 12 := by decide
theorem test_s_sub_wraps : sreg (after (.sSub (fr 3 1 2)) (on cellA)) 3 = 2 ^ 64 - 2 := by decide
theorem test_s0_discards : sreg (after (.sAdd (fr 0 1 2)) (on cellA)) 0 = 0 := by decide
theorem test_s_slt_signed : sreg (after (.sSlt (fr 3 2 1)) (on cellA)) 3 = 0 := by decide
theorem test_s_shl : sreg (after (.sShl (fr 3 1 2)) (on cellA)) 3 = 640 := by decide
theorem test_s_sel : sreg (after (.sSel (fr 3 1 2 4)) (on cellA)) 3 = 7 := by decide
theorem test_s_addi_negative : sreg (after (.sAddi (fi 3 1 0xFFFFFFFF)) (on cellA)) 3 = 4 := by decide
theorem test_pc_advances : ((after (.cNop (fr 0 0 0)) (on cellA)).thread 3 2).pc = 5 := by decide
theorem test_c_jal_links : sreg (after (.cJal (fi 6 0 0xFFFFFFFE)) (on cellA)) 6 = 5 ∧ ((after (.cJal (fi 6 0 0xFFFFFFFE)) (on cellA)).thread 3 2).pc = 2 := by decide
theorem test_c_br_not_taken : ((after (.cBr (fb 2 1 3 0xFFFFFFFE)) (on cellA)).thread 3 2).pc = 5 := by decide
theorem test_c_br_taken : ((after (.cBr (fb 1 2 3 0xFFFFFFFE)) (on cellA)).thread 3 2).pc = 2 := by decide
theorem test_c_loop_zero_skips : ((after (.cLoop (fi 0 4 3)) (on cellA)).thread 3 2).pc = 8 := by decide
theorem test_c_halt : ((after (.cHalt (fr 0 0 0)) (on cellA)).thread 3 2).st = .halt := by decide
theorem test_y_bar_faults_without_itself : ((after (.yBar (fi 0 0 1)) (on cellA)).thread 3 2).tfault.status = Status.descInvalid.code := by decide
theorem test_s_ld_unaligned_faults : ((after (.sLd (fm 1 1 10 3 0 0)) (on cellA)).thread 3 2).tfault.status = Status.alignment.code := by decide
theorem test_s_ld_bytes : sreg (after (.sLd (fm 5 3 10 1 0 2)) (on { cellA with store := [(66, 0x34), (67, 0x12)] })) 5 = 0x1234 := by decide
theorem test_s_lds_sign : sreg (after (.sLds (fm 5 3 10 0 0 0)) (on { cellA with store := [(64, 0x80)] })) 5 = 2 ^ 64 - 128 := by decide
theorem test_s_st_coalesces : ((after (.sSt (fm 1 3 10 0 0 1)) (on cellA)).cell 3).coal.map (fun e => (e.line, e.mask, e.data / 256 % 256)) = [(64, 2, 5)] := by decide

/-! Witnesses: states and operands that meet the hypotheses of the statements. Class s., v., c. and y. -/
theorem runs_base : Runs (on cellA).blk who := ⟨by decide, by decide, by decide, by decide⟩
theorem witness_ScalarArithmetic : ∃ op ∈ scalarOps, op.1 (fr 3 1 2) = .sAdd (fr 3 1 2) ∧ Runs (on cellA).blk (fr 3 1 2).w :=
  ⟨(.sAdd, _), List.mem_cons_self, rfl, runs_base⟩
theorem witness_ScalarImmediate : Runs (on cellA).blk (fi 3 0 6).w ∧ ∃ p ∈ csrs (on cellA).blk who, (fi 3 0 6).imm.toNat % 4096 = p.1 :=
  ⟨runs_base, by decide⟩
theorem witness_VectorLanes : Runs (on cellA).blk (fr 2 1 1 2 2).w := runs_base
theorem witness_VectorFunctions : Runs (on cellA).blk (fr 2 1 0 4 0 0x30).w ∧ cvtCtlOk 3 ((me (on cellA).blk who).sr 4).toNat = true := ⟨runs_base, by decide⟩
theorem witness_VectorFunctions_refused : let c := { cellA with thr := [(2, { ready with s := [(4, 2 ^ 40)] })] }
    Runs (on c).blk (fr 2 1 0 4 0 0x30).w ∧ cvtCtlOk 3 ((me (on c).blk who).sr 4).toNat = false := ⟨⟨by decide, by decide, by decide, by decide⟩, by decide⟩
theorem witness_Predicates : Runs (on cellA).blk (fr 1 2 3).w := runs_base
theorem witness_CellLoads : Runs (on cellA).blk who ∧ Quiet (on cellA).blk ∧ fmAddr (here (on cellA).blk who) (me (on cellA).blk who) (fm 5 3 10 1 0 2) false = .ok 66 ∧
    Readable (here (on cellA).blk who) 66 2 ∧ (me (on cellA).blk who).guard0 who = true := ⟨runs_base, by decide, by decide, by decide, by decide⟩
theorem witness_CellLoads_tag : let c := { cellA with tags := [(0, 1)] }
    Runs (on c).blk who ∧ tagReady (on c).blk 3 (me (on c).blk who) (granules 66 2) false = true ∧ (me (on c).blk who).tagSeq = none ∧ (on c).blk.hub.tagq = [] ∧
    ∀ g ∈ granules 66 2, g < 8192 ∧ (here (on c).blk who).tag g = 1 := ⟨⟨by decide, by decide, by decide, by decide⟩, by decide, rfl, rfl, by decide⟩
theorem witness_CellLoads_unguarded : (me (on cellA).blk who).guard0 { who with pneg := true } = false ∧ Runs (on cellA).blk { who with pneg := true } :=
  ⟨by decide, ⟨by decide, by decide, by decide, by decide⟩⟩
theorem witness_CellLoads_gather : gsCheck (here (on cellA).blk who) (me (on cellA).blk who) (fr 1 3 2 0 0 10) false = none ∧
    Readable (here (on cellA).blk who) 64 1024 := ⟨by decide +kernel, by decide⟩
theorem witness_CellStores : fmAddr (here (on cellA).blk who) (me (on cellA).blk who) (fm 1 3 10 0 0 1) true = .ok 65 ∧
    gsCheck (here (on cellA).blk who) (me (on cellA).blk who) (fr 0 3 2 1 0 10) true = none := ⟨by decide, by decide +kernel⟩
theorem witness_CellStores_tag : tagReady (on cellA).blk 3 (me (on cellA).blk who) (granules 65 1) true = true ∧ ∀ g ∈ granules 65 1, g < 8192 ∧ (here (on cellA).blk who).tag g = 0 := by decide
theorem witness_StoreThenLoad : CoalOk { cellA with coal := [{ line := 64, mask := 2, threads := 4, data := 1280, last := 0 }] } := ⟨by decide, by decide⟩
theorem witness_Tiles : (me (on cellA).blk who).accMask.getLsbD 1 = true ∧ bit ((here (on cellA).blk who).heldTiles 0) 1 = false ∧
    3 &&& (me (on cellA).blk who).accMask.toNat = 3 ∧ (here (on cellA).blk who).run = none ∧ (here (on cellA).blk who).arrq = [] := by decide
theorem witness_ControlFlow : ((me (on cellA).blk who).sr 3).toNat < (here (on cellA).blk who).codeCount ∧ ((on cellA).blk.thread 3 0).st = .idle ∧
    (∀ at_, (me (on cellA).blk who).lastTrap = some at_ → at_ + 64 ≤ (on cellA).blk.cycles) ∧ (me (on cellA).blk who).loop = none :=
  ⟨by decide, by decide, fun _ h => (nomatch (show (none : Option Nat) = some _ from h)), by decide⟩
theorem witness_ControlFlow_refused : ((on cellA).blk.thread 3 2).st = .run := by decide
theorem witness_Synchronisation : (me (on cellA).blk who).tokensReady 2 false = true ∧ (∀ u < 8, bit 4 u = true → u ≠ 2 → False) := by decide
theorem witness_Synchronisation_waits : (ready.setToken 1 { busy := true }).tokensReady 2 false = false ∧
    (∃ u, u < 8 ∧ bit 5 u = true ∧ u ≠ 2 ∧ ¬((cellA.thread u).st = .wait)) := by decide
/-- Partition 1 has 16 tallies; tally 5 stands at 9. -/
def tallied : State := { blk := { cells := [(3, cellA)], parts := [(1, { tallyQuota := 16 })], hub := { tallies := [(tallyKey 1 5, { val := 9 })] } } }
theorem witness_Synchronisation_tally : ((me tallied.blk who).sr 1).toNat < (tallied.blk.part (here tallied.blk who).part).tallyQuota ∧
    ((tallied.blk.tally 1 5).val + 2 ^ 32 - 7) % 2 ^ 32 < 2 ^ 31 ∧ ¬((tallied.blk.tally 1 5).val + 2 ^ 32 - 10) % 2 ^ 32 < 2 ^ 31 := by decide
theorem witness_EngineIssue : Fetches (on cellA).blk (fd 9 3 10 0) chainBytes 0 false :=
  ⟨64, by decide, by decide +kernel, by decide +kernel, by decide +kernel, by decide, rfl⟩
theorem witness_EngineIssue_stream : Fetches (on cellA).blk (fd 9 3 10 0) (fun _ => 64) 0 (decide (16 ≤ ((here (on cellA).blk who).strm false).q.length)) :=
  ⟨64, by decide, by decide +kernel, by decide, by decide +kernel, by decide, by decide⟩
theorem witness_StreamControl : (here (on cellA).blk who).inb.q.length < 16 ∧ (here (on cellA).blk who).outb.q.length < 16 := by decide

/-! Witnesses: units of a cell. -/
theorem witness_CellWaits : let t : Thread := { ready with st := .wait, wait := .queue 4 }
    let c : Cell := { cellA with thr := [(2, t)] }
    (c.thread 2).st = .wait ∧ (c.thread 2).wait = .queue 4 ∧ c.bankq.length < 8 := by decide
theorem witness_CellWaits_tile : ({ ready with st := .wait, wait := .tile 3 } : Thread).wait = .tile 3 ∧ cellA.heldTiles 0 &&& 3 = 0 := by decide
theorem witness_CellWaits_tag : let c : Cell := { cellA with thr := [(2, { ready with st := .wait, wait := .tag 7 [0] true })] }
    tagMay (on c).blk 7 (tagNeed 3 [0] true) = true ∧ (c.thread 2).wait = .tag 7 [0] true ∧ 0 ∈ [0] ∧ (∀ u < 8, u ≠ 2 → (c.thread u).st ≠ .wait) ∧ Quiet (on c).blk ∧
    ((on c).blk.cell 0).run = none := by decide
/-- A thread's consuming load, and a later one of another thread on the same granule. -/
def waitX : TagWait := { who := 7, cell := 3, pc := 4, need := [(8192 * 3, 0)] }
theorem witness_CellWaits_order : let b : Block := { (on { cellA with thr := [(2, { ready with st := .wait, tagSeq := some 7 })] }).blk with hub := { tagq := [waitX, { waitX with who := 8, pc := 5 }] } }
    b.hub.tagq = waitX :: [{ waitX with who := 8, pc := 5 }] ∧ waitX.live b = true ∧ (∀ h ∈ waitX.need, tagHas b h = true) := by decide
theorem witness_CellWaits_limit : let c : Cell := { cellA with waitLimit := 5, thr := [(2, { ready with st := .wait, wait := .tile 3 })] }
    (c.thread 2).st = .wait ∧ c.waitLimit ≠ 0 ∧ (c.thread 2).since + 1000 * c.waitLimit < 5001 := by decide
theorem witness_CellWaits_fetch : cellLive cellA = true ∧ (cellA.thread 2).st = .run ∧ 8 * 12 < cellA.codeCount ∧ Readable cellA (cellA.codeBase + 64 * 12) 64 := by decide
theorem witness_CellWaits_drain : let e : Coal := { line := 64, mask := 2, threads := 4, data := 1280, last := 0 }
    ({ cellA with coal := [e] } : Cell).coal.find? (fun x => x.line == 64 * 1) = some e ∧ e.last + 32 ≤ 32 := by decide
/-- A b.fill of 1 KiB of buffer 10 from offset 2,048, as the second work of its thread. -/
def fillWork : Bank := { id := 8, thr := 2, tok := 1, op := 0, desc := record [(2, 1, 10), (4, 4, 2048), (8, 4, 1024), (16, 8, 0x0102030405060708)] }
def banked (started : Bool) : State := on { cellA with bankq := [{ fillWork with started := started }] }
theorem witness_BanksideWork : (banked false).blk.cell 3 |>.bankq[0]? = some fillWork := by decide +kernel
theorem witness_BanksideWork_valid : bankCheck (banked false).blk ((banked false).blk.cell 3) fillWork = none := by decide +kernel
theorem witness_BanksideWork_due : BankDue (banked true).blk 3 0 { fillWork with started := true } ∧ Quiet (banked true).blk :=
  ⟨⟨by decide +kernel, rfl, by decide +kernel, fun h => by revert h; decide +kernel⟩, by decide⟩
theorem test_b_fill : ((after (.banksideComplete 3 0) (banked true)).cell 3).store.read 2048 9 = 0x080102030405060708 ∧
    ((after (.banksideComplete 3 0) (banked true)).cell 3).bankq = [] := by decide +kernel
theorem witness_StoreUpkeep : let c : Cell := { cellA with zeroing := true }
    c.zeroing = true ∧ c.zeroAt + 1536 ≤ 1536 ∧ Quiet (on cellA).blk ∧ cellA.fenced = false ∧ blockOwner (on cellA).blk (3 / 8) = none := by decide
theorem witness_StoreUpkeep_scrub : let cfg := (on cellA).blk.reg (cellBase 3 + 0x30008) (50000 + 2 ^ 20)
    cfg.testBit 20 = true ∧ cfg % 2 ^ 20 ≤ 50000 ∧ cellA.errsIn (4096 * cellA.scrubRow) 4096 = [] ∧ cellA.zeroing = false ∧ ((on cellA).blk.part cellA.part).st ≠ .killing := by decide
theorem witness_StoreUpkeep_refetch : ({ cellA with refetching := [{ blk := 5, at_ := 0 }] } : Cell).refetching.find? (fun x => x.blk == 5) = some { blk := 5, at_ := 0 } := by decide
/-- An inbound descriptor with no tally that moves 64 bytes from PVA 0 into buffer 10. -/
def moveDesc : Rec := record [(1, 1, 2), (2, 1, 0), (46, 2, 0xFFFF), (52, 2, 0xFFFF)]
def streaming : State := on { cellA with inb := { q := [{ id := 5, thr := 2, tok := 1, desc := moveDesc }] } }
/-- Block 5 of cell 3 is being fetched again, for reader 9, from the weight page at VPN 2, which holds zeros. -/
def refetchAs (d : Nat) : State := { blk := { cells := [(3, { cellA with refetching := [{ blk := 5, at_ := 0, readers := [9] }], refetch := [(5, { valid := true, pva := 2 ^ 22, digest := d })] })],
                                                            parts := [(1, { mttBase := 2 ^ 20, mttEn := true })], mem := ((({} : Block).memWrite (2 ^ 20 + 16) 8 (mttMake 1 true false 1025)).mem) } }
def refetchS : State := refetchAs (crc64 4096 0)
theorem refetch_digest (d : Nat) : (mget {} ((refetchAs d).blk.cell 3).refetch 5).digest = d := rfl
theorem witness_StoreUpkeep_refetched : let b := refetchS.blk
    let r := mget {} (b.cell 3).refetch 5
    Quiet b ∧ (b.cell 3).run = none ∧ r.valid = true ∧ pvaOk b 1 .weightRead r.pva 4096 = true ∧ pvaBad b 1 .weightRead r.pva 4096 = false ∧
    crc64 4096 (pvaRead b 1 .weightRead r.pva 2 4096) = r.digest := by
  refine ⟨by decide +kernel, by decide +kernel, by decide +kernel, by decide +kernel, by decide +kernel, ?_⟩
  rw [show pvaRead refetchS.blk 1 .weightRead (mget {} (refetchS.blk.cell 3).refetch 5).pva 2 4096 = 0 by decide +kernel]
  exact (refetch_digest _).symm
theorem witness_StreamDescriptors : let b := streaming.blk.modCell 3 Cell.sweepFences
    cellLive (b.cell 3) = true ∧ ((b.cell 3).strm false).stop = false ∧ ((b.cell 3).strm false).q.head? = some { id := 5, thr := 2, tok := 1, desc := moveDesc } ∧
    (∀ x ∈ ((b.cell 3).strm false).q, x.started = false) ∧ (startWait b 3 8 (moveDesc.u 46 2) (moveDesc.u 48 4) 5).1 = true := by decide +kernel
theorem witness_StreamDescriptors_waits : (startWait { tallied.blk with cells := [(3, cellA)] } 3 8 5 10 5).1 = false := by decide
def flying : Xfer := { id := 1, row := 0, byte := 0, len := 64, src := .store 3 128, dst := .mem 4096, st := .flight }
def flown : State := on { cellA with inb := { q := [{ id := 5, thr := 2, tok := 1, desc := moveDesc, started := true, win := [flying], nrow := 1 }] }, store := [(128, 7)] }
theorem witness_StreamTransfers : InFlight flown.blk 3 false 0 5 flying ∧ InFlight (streamPump flown.blk 3 false) 3 false 0 5 flying ∧
    (((streamPump flown.blk 3 false).cell 3).strm false).behind flying = false := ⟨⟨by decide +kernel, rfl⟩, ⟨by decide +kernel, rfl⟩, by decide +kernel⟩
theorem witness_StreamTransfers_bytes : Readable (flown.blk.cell 3) 128 64 ∧ flown.blk.merr.filter (fun e => decide (4096 < 8 * e.1 + 8) && decide (8 * e.1 < 4096 + 64)) = [] := by decide
theorem test_stream_bytes : (moveBytes flown.blk 3 false flying).2.mem.byte 4096 = 7 := by decide +kernel

/-! Witnesses: chains and attention. -/
/-- A chain of one TILE_LOAD of 16 FP32 columns at buffer 10 and one WRITE at its offset 4,096; one row, tiles 0 and 1. -/
def chainHead : Rec := record [(0, 1, 2), (2, 1, 3), (4, 4, 1), (22, 2, 0xFFFF), (28, 2, 0xFFFF), (30, 2, 0xFFFF)]
def chainE : ArrEntry := { id := 7, kind := .chain, thr := 2, tok := 1, recs := [chainHead, record [(0, 1, 4), (4, 8, 10), (16, 4, 16)], record [(0, 1, 0x29), (4, 8, 10 + 256 * 4096)]] }
/-- The same with a HOLD at 8,192, a drydown of its statistic 0 and a WRITE after it. -/
def dryE : ArrEntry := { id := 7, kind := .chain, thr := 2, tok := 1, recs := [record [(0, 1, 4), (2, 1, 3), (4, 4, 1), (12, 4, 10 + 256 * 8192), (16, 4, 64), (22, 2, 0xFFFF), (28, 2, 0xFFFF), (30, 2, 0xFFFF)],
  record [(0, 1, 4), (4, 8, 10), (16, 4, 16)], record [(0, 1, 0x2A)], record [(0, 1, 0x30)], record [(0, 1, 0x29), (4, 8, 10 + 256 * 4096)]] }
def arrayed (e : ArrEntry) : State := on { cellA with arrq := [e] }
def ran (r : Run) : State := on { cellA with run := some r }
theorem witness_ChainStarts : let s := arrayed chainE
    arrHead s.blk 3 .chain = some chainE ∧ (startWait s.blk 3 10 (chainHead.u 28 2) (chainHead.u 32 4) 7).1 = true ∧
    (rowMap s.blk 3 chainE).1.stalled = false ∧ chainCheck (rowMap s.blk 3 chainE).2 3 chainE (rowMap s.blk 3 chainE).1.value = none ∧
    ((chainOf chainE).any fun c => decide (c.kv = []) && decide (c.coins ≤ purseCeil s.blk 0)) = true := by decide +kernel
theorem witness_ChainStarts_refused : let s := arrayed { chainE with mask := 0, recs := [] }
    arrHead s.blk 3 .chain = some { chainE with mask := 0, recs := [] } ∧ chainCheck s.blk 3 { chainE with mask := 0, recs := [] } none = some .descInvalid := by decide +kernel
theorem witness_ChainProgress_grant : let s : State := { blk := { cells := [(3, { cellA with run := some { e := chainE, phase := .coins, coins := 9 } })], pow := { purses := [(0, { cap := 100, waiters := [(3, 9, 0)] })] } } }
    (s.blk.purse 0).waiters = [(3, 9, 0)] ∧ coinReady s.blk 0 = true := by decide +kernel
theorem witness_ChainProgress_wait : let r : Run := { e := { chainE with recs := [record [(20, 2, 5)]] }, phase := .coins }
    ((on { cellA with run := some r }).blk.cell 3).run = some r ∧ (r.e.recs.headD 0).u 20 2 = 5 ∧ r.since + 1000 * 5 < 5001 := by decide +kernel
theorem witness_ChainProgress_dry : let r : Run := { e := dryE, phase := .running, rt := 1 }
    Running (ran r).blk 3 .chain r ∧ ((chainOf dryE).any fun c => c.dryPart.isSome && decide (r.dry < r.rt)) = true := ⟨⟨by decide +kernel, rfl⟩, by decide +kernel⟩
theorem witness_ChainProgress_commit : let r : Run := { e := chainE, phase := .running, rt := 1 }
    Running (ran r).blk 3 .chain r ∧ ((chainOf chainE).any fun c => decide (c.rowTiles ≤ r.rt) && c.dryPart.isNone) = true := ⟨⟨by decide +kernel, rfl⟩, by decide +kernel⟩
theorem witness_ChainProgress_late : let r : Run := { e := chainE, phase := .running, port := some { sent := 0, space := 2, addr := 64 } }
    let b := { (ran r).blk with now := 2 ^ 30 }
    Running b 3 .chain r ∧ PortLate b 3 r := ⟨⟨by decide +kernel, rfl⟩, rfl, rfl, by decide +kernel, _, rfl, by decide +kernel⟩
/-- An m.attn of one work item over 16 keys: one head of 64 elements, its list at the start of buffer 11. -/
def attnE : ArrEntry := { id := 8, kind := .attn, thr := 2, tok := 1, mask := 3, recs := [
  record [(2, 1, 4), (4, 1, 3), (5, 1, 3), (7, 1, 1), (8, 1, 64), (10, 1, 3), (11, 1, 10), (12, 4, 11), (16, 8, 4096), (24, 4, 64), (28, 4, 256), (32, 8, 8192), (44, 4, 11 + 256 * 32768), (48, 4, 11 + 256 * 65536),
    (52, 4, 32768), (56, 4, 11 + 256 * 98304), (60, 4, 33856)], record [(24, 2, 0xFFFF), (26, 2, 0xFFFF)], 0] }
/-- Sequence 2 of entry 9, query position 0, one token, one head. -/
def item : AItem := { w := record [(0, 4, 2 * 65536 + 9), (8, 1, 1), (9, 1, 1), (11, 1, 1)] }
def cellAt : Cell := { cellA with bufs := [(11, { base := 65536, len := 262144, valid := true })], tags := [(64, 1)], store := [(65536, 1), (65544, 16), (65600, 9), (65602, 2), (65608, 1), (65609, 1), (65611, 1)],
                                  ranges := [{ base := 98304, len := 32768, stat := true, recBase := 262144, rowElems := 64 }] }
def attnState (c : Cell) : State := { blk := { cells := [(3, c)], parts := [(1, { models := [(0, { layers := 1, kvHeads := 1, headDim := 64, fmt := 3 })] })], entries := [(9, { gen := 2, st := 1, taken := true, owner := 1, lenCap := 1024, lens := [(0, 16)], leafs := [(0, { st := 1, frame := 5 })] })] } }
theorem witness_AttentionWalks_start : let s := attnState { cellAt with arrq := [attnE] }
    let l := workList s.blk 3 attnE
    arrHead s.blk 3 .attn = some attnE ∧ (startWait s.blk 3 10 (attnE.ad 88 2) (attnE.ad 92 4) 8).1 = true ∧ l.1.stalled = false ∧ l.1.items = [item] ∧
    attnCheck l.2 3 attnE l.1 = none ∧ attnCoins attnE ≤ purseCeil l.2 0 := by decide +kernel
def attnRun (x : AItem) : Run := { e := attnE, phase := .running, items := [x] }
/-- Its walk, with the page in frame 5 resident or not. -/
def walk (resident : Bool) : Walk := { id := 0, entry := 9, handle := 2, model := 0, gen := 0, layer := 0, length := 16, pages := [{ page := 0, resident := resident, unrot := false, frame := 5 }] }
def leafMiss : Miss := { part := 1, entry := 9, gen := 0, layer := 0, group := 0, page := 0, demand := true, at_ := 0 }
theorem witness_AttentionWalks_walk : let s := attnState { cellAt with run := some (attnRun item) }
    let b := attnPick (attnLand s.blk 3) 3
    attnLive s.blk 3 (attnRun item) = true ∧ ((runOf b 3).any fun r => decide (r.items = [item]) && decide (item.phase = runPhase r) && r.cur == 0) = true := by decide +kernel
theorem witness_AttentionWalks_latch : let b := (attnState { cellAt with run := some (attnRun item) }).blk
    (b.cell 3).run = some (attnRun item) ∧ (b.walker 0).walks.length < 16 ∧ slotWaiters b 0 = [] ∧ seqCheck b 1 item.seq = none ∧ (b.entry 9).st ≠ 6 ∧ item.kend ≤ (b.entry 9).len 0 := by decide +kernel
theorem witness_AttentionWalks_leaf : let x := { item with st := .walking, walk := some (walk true) }
    let b := { (attnState { cellAt with run := some (attnRun x) }).blk with walkers := [(0, { misses := [leafMiss] })], now := 1000 }
    (b.walker 0).misses[0]? = some leafMiss ∧ (blockWalks b 0).any (fun w => leafMiss.is 1 w 0) = true ∧ missWaiters b 0 leafMiss = [3] ∧ leafMiss.at_ + 1000 ≤ b.now ∧ Quiet b ∧ (tablesOk b 9 0 0).1 = true :=
  ⟨rfl, by decide +kernel, by decide +kernel, by decide, by decide +kernel, by decide +kernel⟩
theorem witness_AttentionEnds_resumed : let x := { item with st := .waiting, walk := some (walk true) }
    let b := (attnState { cellAt with run := some (attnRun x) }).blk
    attnLive b 3 (attnRun x) = true ∧ (runOf (attnLand b 3) 3).map (·.items[0]?) = some (some x) ∧ (∃ p ∈ (walk true).pages, p.page = x.page ∧ p.resident = true) :=
  ⟨by decide +kernel, by decide +kernel, _, List.mem_cons_self, rfl, rfl⟩
theorem witness_AttentionEnds_parked : let x := { item with st := .parked, slot := some 0, walk := some (walk true) }
    (runOf (attnLand (attnState { cellAt with run := some (attnRun x) }).blk 3) 3).any (fun r => (nextItem r).isNone && (r.items[r.cur]?).map (·.st) == some .parked) = true := by decide +kernel
theorem witness_AttentionEnds_stop : let r := { attnRun item with status := .timeout }
    Running (attnState { cellAt with run := some r }).blk 3 .attn r ∧ r.status ≠ .done := ⟨⟨by decide +kernel, rfl⟩, by decide⟩
theorem witness_AttentionEnds_commit : let x := { item with st := .done }
    let b := attnGo (attnLand (attnState { cellAt with run := some (attnRun x) }).blk 3) 3
    ((runOf b 3).any fun r => attnLive b 3 r && r.items.all fun x => x.st == .done) = true := by decide +kernel

/-! Witnesses: register writes and the commands of a ring. -/
/-- Partition 1 as its ring, memory and ledger need it, and the block that holds it: powered, out of reset, the host link up. -/
def part1 : Part := { st := .active, mgrEn := true, cmd := { en := true }, pageQuota := 100, mttBase := 2 ^ 20, mttEn := true, poolMpa := 2 ^ 21, poolPages := 1, ledQuota := 8, tallyQuota := 16, winQuota := 16,
                      models := [(0, { layers := 1, kvHeads := 1, headDim := 64, fmt := 3, poolVpn := 8, poolPages := 2 })] }
def hub1 (p : Part) : Block := { parts := [(1, p)], clk := { power := true, up := true, ready := true }, hub := { kw := { st := 2 } } }
/-- VPN 1 is a page of kind 0 to read and write, VPN 2 a weight page, VPN 8 a frame page. -/
def mapped (b : Block) : Block := ((b.memWrite (2 ^ 20 + 8) 8 (mttMake 0 true true 1024)).memWrite (2 ^ 20 + 16) 8 (mttMake 1 true false 1025)).memWrite (2 ^ 20 + 64) 16
  (mttMake 2 false false 1026 + 2 ^ 64 * mttMake 2 false false 1027)
def st1 (b : Block) : State := { blk := b }
theorem starts_of {b : Block} {n op : Nat} {r : Rec} (h : ((r.u 0 1 == op) && (b.part n).mgrEn && (b.part n).cmd.en && !(b.part n).cmd.stop && !headHeld b n && b.hub.fatal.isNone && (b.part n).fetched.isEmpty &&
    ((b.part n).st == .active) && b.hub.cmds.isEmpty) = true) : Starts1 b n r op := by
  simp only [Bool.and_eq_true, beq_iff_eq, Bool.not_eq_true', List.isEmpty_iff, Option.isNone_iff_eq_none] at h
  obtain ⟨⟨⟨⟨⟨⟨⟨⟨h0, hm⟩, h1⟩, h2⟩, h3⟩, h4⟩, h5⟩, h6⟩, h7⟩ := h
  exact ⟨h0, ⟨hm, h1, h2, h3, h4, fun x hx => by rw [h5] at hx; nomatch hx⟩, h6, fun _ c hc => by rw [h7] at hc; nomatch hc⟩
theorem witness_RingTaking : (record [(0, 1, 0x10)]).u 0 1 = 0x10 ∧ Quiet (hub1 part1) ∧ Offers (hub1 part1) 1 (record [(0, 1, 0x10)]) :=
  ⟨by decide +kernel, by decide +kernel, (starts_of (op := 0x10) (by decide +kernel)).2.1⟩
def busy1 : Block := { hub1 part1 with hub := { cmds := [{ id := 4, part := 1, idx := 0, desc := 0 }] } }
theorem witness_RingTaking_waits : mustWait (record [(0, 1, 0), (1, 1, 1)]) = true ∧ (∃ c ∈ busy1.hub.cmds, c.part = 1) ∧ headHeld busy1 1 = false :=
  ⟨by decide +kernel, ⟨_, List.mem_cons_self, rfl⟩, by decide +kernel⟩
theorem witness_RingCompletion : cmdOf busy1 4 = some { id := 4, part := 1, idx := 0, desc := 0 } ∧ (busy1.part 1).comp.en = false ∧ (∀ i ∈ (busy1.part 1).commits, cmdOf busy1 i ≠ none) :=
  ⟨by decide +kernel, rfl, fun _ h => nomatch h⟩
theorem test_validation_order : refuse [(true, .descInvalid), (true, .protection), (false, .scrubbing)] = some .protection := by decide
def rNop : Rec := record []
def rMap : Rec := record [(0, 1, 1), (16, 8, 3 * 2 ^ 21), (25, 1, 12), (28, 4, 600), (32, 4, 2)]
def rUnmap : Rec := record [(0, 1, 2), (16, 8, 2 ^ 21), (32, 4, 1)]
def rLoad (host : Nat) : Rec := record [(0, 1, 3), (16, 8, 2 ^ 21), (24, 8, 2 ^ 22), (32, 4, 4096), (36, 1, host)]
def rCopy (out : Nat) : Rec := record [(0, 1, 0x10), (16, 8, 2 ^ 22), (24, 8, 2 ^ 21), (32, 4, 4096), (36, 1, out)]
/-- Aperture 0 of partition 1 covers the first GiB of host addresses. -/
def apertured (b : Block) : Block := { b with regs := mset 0 (mset 0 b.regs (apertureAddr 1 0) 0) (apertureAddr 1 0 + 8) (2 ^ 30) }
theorem witness_PartitionCommands_nop : Starts1 (hub1 part1) 1 rNop 0 ∧ Body rNop [] := ⟨starts_of (by decide +kernel), by unfold Body; decide +kernel⟩
theorem witness_PartitionCommands_map : let t := taken (hub1 part1) 1 rMap
    Starts1 (hub1 part1) 1 rMap 1 ∧ Body rMap [(16, 10), (28, 8)] ∧ (∀ v ∈ [3, 4], mttV (mttEntry t 1 v) = false) ∧ (∀ k ∈ [600, 601], pageOwner t k = none ∧ ∀ z ∈ t.hub.zeroing, z.1 ≠ k) ∧
    rMap.u 16 8 / 2 ^ 21 = 3 ∧ rMap.u 32 4 = 2 ∧ rMap.u 28 4 = 600 ∧ usedPages t 1 + 2 ≤ (t.part 1).pageQuota :=
  ⟨starts_of (by decide +kernel), by unfold Body; decide +kernel, by decide +kernel, by decide +kernel, by decide +kernel, by decide +kernel, by decide +kernel, by decide +kernel⟩
theorem witness_PartitionCommands_unmap : let t := taken (mapped (hub1 part1)) 1 rUnmap
    Starts1 (mapped (hub1 part1)) 1 rUnmap 2 ∧ Body rUnmap [(16, 8), (32, 4)] ∧ (t.part 1).mttEn = true ∧ poolInUse t 1 1 = false :=
  ⟨starts_of (by decide +kernel), by unfold Body; decide +kernel, by decide +kernel, by decide +kernel⟩
theorem witness_PartitionCommands_weight : let t := taken (apertured (mapped (hub1 part1))) 1 (rLoad 1)
    Starts1 (apertured (mapped (hub1 part1))) 1 (rLoad 1) 3 ∧ Starts1 (mapped (hub1 part1)) 1 (rLoad 0) 3 ∧ pvaOk t 1 .weightWrite (2 ^ 22) 4096 = true ∧ pvaOk t 1 .hubRead0 (2 ^ 21) 4096 = true ∧
    inAperture t 1 (2 ^ 21) 4096 = true ∧ kwUp t = true :=
  ⟨starts_of (by decide +kernel), starts_of (by decide +kernel), by decide +kernel, by decide +kernel, by decide +kernel, by decide +kernel⟩
theorem witness_PartitionCommands_copy : let t := taken (apertured (mapped (hub1 part1))) 1 (rCopy 0)
    Starts1 (apertured (mapped (hub1 part1))) 1 (rCopy 0) 0x10 ∧ Starts1 (apertured (mapped (hub1 part1))) 1 (rCopy 1) 0x10 ∧ Body (rCopy 1) [(16, 21)] ∧
    inAperture t 1 (2 ^ 22) 4096 = true ∧ pvaOk t 1 .hubRead0 (2 ^ 21) 4096 = true ∧ pvaOk t 1 .hubWrite0 (2 ^ 21) 4096 = true :=
  ⟨starts_of (by decide +kernel), starts_of (by decide +kernel), by unfold Body; decide +kernel, by decide +kernel, by decide +kernel, by decide +kernel⟩
theorem witness_PartitionCommands_ordered : let c : Cmd := { id := 4, part := 1, idx := 0, desc := 0, st := .aside }
    asideReady { hub1 part1 with hub := { cmds := [c] } } 1 = some c := by decide +kernel
theorem witness_PartitionCommands_pages : 512 ≤ 600 ∧ 600 + 2 ≤ Config.pagesPerEdie := by unfold Config.pagesPerEdie; split <;> decide
theorem test_nop_completes : (after (.cmdNop 1 rNop) (st1 (hub1 part1))).hub.cmds.map (fun c => (c.status, c.st)) = [(.done, .commit)] := by decide +kernel

/-! Witnesses: the ledger. -/
def rModel : Rec := record [(0, 1, 0x40), (16, 1, 1), (18, 2, 2), (20, 1, 4), (21, 1, 64), (22, 1, 3)]
def rPool : Rec := record [(0, 1, 0x41), (24, 8, 2 ^ 24), (32, 4, 2)]
def rAdmit : Rec := record [(0, 1, 0x42), (20, 4, 64)]
def rImport (pva : Nat) : Rec := record [(0, 1, 0x46), (17, 1, 2 * pva), (20, 4, 16), (24, 8, 2 ^ 21)]
def ledB : Block := apertured (mapped (hub1 part1))
theorem witness_LedgerEntries_model : let t := taken ledB 1 rModel
    Starts1 ledB 1 rModel 0x40 ∧ Body rModel [(16, 1), (18, 5)] ∧ (t.model 1 1).layers = 0 ∧ rModel.u 18 2 = 2 ∧ rModel.u 20 1 = 4 ∧ rModel.u 21 1 = 64 ∧ rModel.u 22 1 = 3 :=
  ⟨starts_of (by decide +kernel), by unfold Body; decide +kernel, by decide +kernel, by decide +kernel, by decide +kernel, by decide +kernel, by decide +kernel⟩
theorem witness_LedgerEntries_pool : let t := taken ledB 1 rPool
    Starts1 ledB 1 rPool 0x41 ∧ Body rPool [(16, 1), (24, 12)] ∧ (t.model 1 0).layers ≠ 0 ∧ (t.model 1 0).inUse = 0 ∧ (∀ i < 2, mttV (mttEntry t 1 (8 + i)) = true ∧ mttKind (mttEntry t 1 (8 + i)) = 2) ∧
    (allocBlocks t 1 (cdiv (16 * (2 * (t.model 1 0).fpp)) 256)).isSome = true :=
  ⟨starts_of (by decide +kernel), by unfold Body; decide +kernel, by decide +kernel, by decide +kernel, by decide +kernel, by decide +kernel⟩
theorem witness_LedgerEntries_admit : let t := taken ledB 1 rAdmit
    Starts1 ledB 1 rAdmit 0x42 ∧ Body rAdmit [(16, 24)] ∧ (t.model 1 0).layers ≠ 0 ∧ rAdmit.u 20 4 = 64 ∧ ledFull t 1 = false ∧ (ledAdmit t 1 0 64 0 0 0 0 0 0).isSome = true :=
  ⟨starts_of (by decide +kernel), by unfold Body; decide +kernel, by decide +kernel, by decide +kernel, by decide +kernel, by decide +kernel⟩
/-- The partition's table pool has all of its blocks free, or none at all. -/
theorem witness_LedgerEntries_room : Roomy (taken ledB 1 rPool) 1 (cdiv (16 * (2 * ((taken ledB 1 rPool).model 1 0).fpp)) 256) ∧ Roomy (taken ledB 1 rAdmit) 1 (rootBlocks ((taken ledB 1 rAdmit).model 1 0) 64) ∧
    Roomy (taken ledB 1 (rImport 1)) 1 2 ∧ ∃ f < ((taken ledB 1 (rImport 1)).model 1 0).frames_, (taken ledB 1 (rImport 1)).frame 1 0 f = {} ∧ frameEdie (taken ledB 1 (rImport 1)) 1 0 f < 4 :=
  ⟨⟨0, by decide +kernel, by decide +kernel⟩, ⟨0, by decide +kernel, by decide +kernel⟩, ⟨0, by decide +kernel, by decide +kernel⟩, 0, by decide +kernel, by decide +kernel, by decide +kernel⟩
theorem witness_LedgerEntries_none : let b := apertured (mapped (hub1 { part1 with poolPages := 0 }))
    allocBlocks (taken b 1 rPool) 1 (cdiv (16 * (2 * ((taken b 1 rPool).model 1 0).fpp)) 256) = none ∧ ledAdmit (taken b 1 rAdmit) 1 0 64 0 0 0 0 0 0 = none ∧ ledImport (taken b 1 (rImport 1)) 1 0 16 false = none ∧
    Starts1 b 1 rAdmit 0x42 := ⟨by decide +kernel, by decide +kernel, by decide +kernel, starts_of (by decide +kernel)⟩
theorem witness_LedgerEntries_import : let t := taken ledB 1 (rImport 1)
    Starts1 ledB 1 (rImport 1) 0x46 ∧ Body (rImport 1) [(16, 2), (20, 12)] ∧ Starts1 ledB 1 (rImport 0) 0x46 ∧ (ledImport t 1 0 16 false).isSome = true ∧ pvaOk t 1 .hubRead0 (2 ^ 21) 4096 = true ∧
    pvaBad t 1 .hubRead0 (2 ^ 21) 4096 = false ∧ inAperture t 1 (2 ^ 21) 4096 = true :=
  ⟨starts_of (by decide +kernel), by unfold Body; decide +kernel, starts_of (by decide +kernel), by decide +kernel,
    by decide +kernel, by decide +kernel, by decide +kernel⟩

/-- Entry 9 is partition 1's sequence 2 with 20 positions, its pages in frames 5 and 6, COMPACT allowed; state `st`. -/
def seq9 (st : Nat) : LEntry := { gen := 2, st := st, taken := true, owner := 1, lenCap := 64, reserved := 20, compactOk := true, lens := [(0, 20)], leafs := [(0, { st := 1, frame := 5 }), (1, { st := 1, frame := 6 })] }
def seqB (st : Nat) : Block := { ledB with entries := [(9, seq9 st)] }
def h9 : Nat := 2 * 65536 + 9
def rReserve : Rec := record [(0, 1, 0x43), (16, 4, h9), (20, 4, 4)]
def rSeal : Rec := record [(0, 1, 0x44), (16, 4, h9), (20, 4, 16)]
def rFork : Rec := record [(0, 1, 0x45), (16, 4, h9), (20, 4, 16)]
def rPreempt : Rec := record [(0, 1, 0x47), (16, 4, h9), (24, 8, 4096), (32, 4, 65536)]
def rResume : Rec := record [(0, 1, 0x48), (16, 4, h9), (24, 8, 4096)]
def rResume1 : Rec := record [(0, 1, 0x48), (16, 4, 0xFFFFFFFF), (20, 1, 1), (24, 8, 4096)]
def rCompact : Rec := record [(0, 1, 0x49), (16, 4, h9), (24, 8, 7)]
def rRelease : Rec := record [(0, 1, 0x4A), (16, 4, h9)]
theorem witness_LedgerGrowth : let t := taken (seqB 1) 1 rReserve
    Starts1 (seqB 1) 1 rReserve 0x43 ∧ Body rReserve [(16, 8)] ∧ Sequence t 1 h9 false ∧ tgenBlocked t 9 = false ∧ (ledReserve t 9 24 0).toOption.isSome = true :=
  ⟨starts_of (by decide +kernel), by unfold Body; decide +kernel, by unfold Sequence; decide +kernel, by decide +kernel, by decide +kernel⟩
theorem witness_LedgerGrowth_held : let e := { seq9 1 with walks := [{ id := 0, gen := 1, layer := 0, length := 0 }] }
    Sequence (taken { ledB with entries := [(9, e)] } 1 rReserve) 1 h9 false ∧ tgenBlocked (taken { ledB with entries := [(9, e)] } 1 rReserve) 9 = true := ⟨by unfold Sequence; decide +kernel, by decide +kernel⟩
theorem witness_LedgerGrowth_seal : Starts1 (seqB 1) 1 rSeal 0x44 ∧ Body rSeal [(16, 8)] ∧ Sequence (taken (seqB 1) 1 rSeal) 1 h9 false :=
  ⟨starts_of (by decide +kernel), by unfold Body; decide +kernel, by unfold Sequence; decide +kernel⟩
theorem witness_LedgerGrowth_fork : let t := taken (seqB 1) 1 rFork
    Starts1 (seqB 1) 1 rFork 0x45 ∧ Body rFork [(16, 16), (36, 4)] ∧ Sequence t 1 h9 true ∧ 16 ≤ (t.entry 9).len 0 ∧ ledFull t 1 = false ∧ (t.entry 9).swapMarks = [] ∧ (ledFork t 1 9 16 0 0 0).isSome = true :=
  ⟨starts_of (by decide +kernel), by unfold Body; decide +kernel, by unfold Sequence; decide +kernel, by decide +kernel, by decide +kernel, by decide +kernel, by decide +kernel⟩
/-- Frame 5, the only page below position 16, may have one more reference; with page 0 away the fork ends at once. -/
theorem witness_LedgerGrowth_forked : let t := taken (seqB 1) 1 rFork
    Roomy t 1 (rootBlocks (t.model 1 0) 64 + 1) ∧ (t.frame 1 0 5).ref + 1 ≤ 65535 ∧
    ((taken { ledB with entries := [(9, { seq9 1 with swapMarks := [0] })] } 1 rFork).entry 9).swapMarks = [leafKey 0 0] :=
  ⟨⟨0, by decide +kernel, by decide +kernel⟩, by decide +kernel, by decide +kernel⟩
theorem witness_LedgerMoves_preempt : let t := taken (seqB 1) 1 rPreempt
    Starts1 (seqB 1) 1 rPreempt 0x47 ∧ Body rPreempt [(16, 5), (24, 12)] ∧ Sequence t 1 h9 false ∧ 4096 + (privatePages t 9).length * (t.model 1 0).pageBytes ≤ 65536 ∧
    inAperture t 1 4096 65536 = true ∧ tgenBlocked t 9 = false ∧ kwUp t = true :=
  ⟨starts_of (by decide +kernel), by unfold Body; decide +kernel, by unfold Sequence; decide +kernel, by decide +kernel, by decide +kernel, by decide +kernel, by decide +kernel⟩
theorem witness_LedgerMoves_resume : let t := taken (seqB 4) 1 rResume
    Starts1 (seqB 4) 1 rResume 0x48 ∧ Body rResume [(16, 5), (24, 8)] ∧ Sequence t 1 h9 false ∧ (t.entry 9).st = 4 ∧ inAperture t 1 4096 4096 = true ∧ (∀ d ∈ t.hub.cmds, d.op ≠ 0x47) ∧
    Starts1 (seqB 4) 1 rResume1 0x48 ∧ Body rResume1 [(16, 5), (24, 8)] ∧ ledFull t 1 = false :=
  ⟨starts_of (by decide +kernel), by unfold Body; decide +kernel, by unfold Sequence; decide +kernel, by decide +kernel, by decide +kernel, by decide +kernel, starts_of (by decide +kernel),
    by unfold Body; decide +kernel, by decide +kernel⟩
theorem witness_LedgerMoves_compact : Starts1 (seqB 1) 1 rCompact 0x49 ∧ Body rCompact [(16, 4), (24, 8)] ∧ Sequence (taken (seqB 1) 1 rCompact) 1 h9 false ∧ Starts1 (seqB 1) 1 rRelease 0x4A ∧
    Body rRelease [(16, 4)] ∧ seqCheck (taken (seqB 1) 1 rRelease) 1 h9 = none :=
  ⟨starts_of (by decide +kernel), by unfold Body; decide +kernel, by unfold Sequence; decide +kernel, starts_of (by decide +kernel), by unfold Body; decide +kernel, by decide +kernel⟩
theorem witness_LedgerMoves_pins : (busy1.hub.cmds.filter fun c => c.part == 1 && c.st == .running) = [{ id := 4, part := 1, idx := 0, desc := 0 }] := by decide +kernel
/-- A PREEMPT whose page 1 is out, and the entry as it then is; a RESUME likewise. -/
def swapC (op : Nat) : Cmd := { id := 4, part := 1, idx := 0, desc := record [(0, 1, op), (16, 4, h9)], left := 1, wait2 := [1], notes := [(1, 0)] }
def swapB (op : Nat) : Block := { seqB (if op = 0x47 then 3 else 5) with hub := { kw := { st := 2 }, cmds := [swapC op] } }
theorem witness_LedgerSwaps : swapCmd (swapB 0x47) 9 1 0x47 = some (swapC 0x47) ∧ seqHeld (swapB 0x47) (swapC 0x47) = true ∧ pageDma (swapB 0x47) (.swapOut 1 9 0 1) = false ∧ ((swapB 0x47).entry 9).st = 3 ∧ 1 ∉ (swapC 0x47).commitsBad ∧
    (setLeaf (modCmd (swapB 0x47) 4 fun c => { c with wait2 := c.wait2.filter (· != 1) }) 9 0 1 { leafAt (swapB 0x47) 9 0 1 with st := 2, frame := 0 }).isSome = true ∧
    swapCmd (swapB 0x48) 9 1 0x48 = some (swapC 0x48) ∧ pageDma (swapB 0x48) (.swapIn 1 9 0 1) = false := by decide +kernel
theorem test_reserve_grows : ((after (.ledReserve 1 rReserve) (st1 (seqB 1))).entry 9).reserved = 24 := by decide +kernel
theorem test_release_moves_generation : (((after (.release 1 rRelease) (st1 (seqB 1))).entry 9).gen, ((after (.release 1 rRelease) (st1 (seqB 1))).entry 9).st) = (3, 0) := by decide +kernel

/-! Witnesses: register writes by the hub firmware. -/
/-- The module after its start, in boot step 17. -/
def bootB (b : Block) : Block := { b with clk := { b.clk with power := true, up := true, ready := true, step := 17 } }
theorem reaches_of {b : Block} {p : Path} {a v : Nat} (h : (pathOpen b (pathCode p) && !pathFull b (pathCode p) && a % 8 == 0 && mgmtAllowed b (requester b p) a true && (regFind a).isSome &&
    !tooEarly b a true v && !(b.dom (regDomain a).1 (regDomain a).2).inReset && !clockOff b (regDomain a).1 (regDomain a).2) = true) : Reaches b p a v := by
  simp only [Bool.and_eq_true, beq_iff_eq, Bool.not_eq_true'] at h
  obtain ⟨⟨⟨⟨⟨⟨⟨h0, h1⟩, h2⟩, h3⟩, h4⟩, h5⟩, h6⟩, h7⟩ := h
  exact ⟨h0, h1, h2, h3, h4, h5, h6, h7⟩
/-- An inbound engine that halted on a timeout, on a descriptor whose first transfer is waiting. -/
def haltedB : Block := bootB (on { cellA with inb := { q := [{ id := 5, thr := 2, tok := 1, desc := moveDesc, started := true, win := [{ flying with st := .failed, fault := .timeout }], nrow := 1 }], stop := true, halted := true, halt := { status := 10, thr := 2, tok := 1, valid := true } }, store := [(128, 7)] }).blk
theorem witness_StreamResumption : ((haltedB.cell 3).strm false).halted = true ∧ Reaches haltedB .firmware (cellBase 3 + 0x40028) 1 ∧ Reaches (bootB (on cellA).blk) .firmware (cellBase 3 + 0x50028) 2 ∧
    ((haltedB.cell 3).strm false).halt.status ≠ Status.linkDown.code ∧
    ((on cellA).blk.cell 3).outb.halted = false :=
  ⟨by decide +kernel, reaches_of (by decide +kernel), reaches_of (by decide +kernel), by decide +kernel, by decide +kernel⟩
theorem witness_AttentionEnds_abandon : let r := attnRun { item with st := .parked }
    let b := bootB (attnState { cellAt with run := some r }).blk
    Running b 3 .attn r ∧ (∃ x ∈ r.items, x.st = .parked ∨ x.st = .waiting) ∧ Reaches b .firmware (cellBase 3 + 0x21008) 1 ∧ r.status = .done :=
  ⟨⟨by decide +kernel, rfl⟩, ⟨_, List.mem_cons_self, .inl rfl⟩, reaches_of (by decide +kernel), rfl⟩

/-! Witnesses: images, batches, tallies, windows. -/
/-- An image of one cell and one instruction, as 256 bytes; where the placement is to fail, a group of that cell in no region. -/
def image (groups : Nat) : Nat := 1 + 2 ^ 16 + groups * 2 ^ 64 + 2 ^ 80 + 2 ^ 96 + 2 ^ 104 + 64 * 2 ^ 128 + (256 + 64 * groups) * 2 ^ 192 + 2 ^ 512 * (64 + 2 ^ 32) + 2 ^ 1024 * (2 ^ 16 + 2 ^ 32 + 2 ^ 40 + 2 ^ 64) +
  groups * 2 ^ 1536 * (3 + 2 ^ 32) + 2 ^ (1536 + 512 * groups) * (0x020 * 2 ^ 52)
/-- VPN 1 holds an image, and at byte 4,096 a session table of one new sequence of one token. -/
def imaged (groups : Nat) : Block := ((mapped (hub1 { part1 with blocks := 1 })).memWrite (1024 * 2 ^ 21) 320 (image groups)).memWrite (1024 * 2 ^ 21 + 4096) 16 (0xFFFFFFFF + 2 ^ 64 + 64 * 2 ^ 96)
def rProg (groups : Nat) : Rec := record [(0, 1, 0x50), (16, 8, 2 ^ 21), (24, 4, 256 + 64 * groups)]
def rUnload : Rec := record [(0, 1, 0x51)]
theorem witness_Programs : let b := imaged 0
    let t := taken b 1 (rProg 0)
    let q := pvaCheck t 1 .hubRead0 (2 ^ 21) 256
    let raw := pvaRead q.2 1 .hubRead0 (2 ^ 21) (pvaFuel 256) 256
    Starts1 b 1 (rProg 0) 0x50 ∧ Body (rProg 0) [(16, 12)] ∧ (t.part 1).image = none ∧ pvaOk t 1 .hubRead0 (2 ^ 21) 256 = true ∧ q.1 = false ∧
    (imgHeaderOk q.2 1 raw 256 && imgLayoutOk raw 256 && ((imgSecs raw).findSome? (secBad raw)).isNone && imgDeclsOk raw) = true ∧ (placeImage q.2 1 raw).toOption = some ([(0, 0)], [], []) :=
  ⟨starts_of (by decide +kernel), by unfold Body; decide +kernel, by decide +kernel, by decide +kernel, by decide +kernel, by decide +kernel, by decide +kernel⟩
theorem witness_Programs_misplaced : let b := imaged 1
    let t := taken b 1 (rProg 1)
    let q := pvaCheck t 1 .hubRead0 (2 ^ 21) 320
    let raw := pvaRead q.2 1 .hubRead0 (2 ^ 21) (pvaFuel 320) 320
    (imgHeaderOk q.2 1 raw 320 && imgLayoutOk raw 320 && ((imgSecs raw).findSome? (secBad raw)).isNone && imgDeclsOk raw) = true ∧ (match placeImage q.2 1 raw with | .error e => e == (1, 0, .descInvalid) | .ok _ => false) = true :=
  ⟨by decide +kernel, by decide +kernel⟩
/-- The image's record, with attention cell 3 as logical cell 0, whose buffers 1 to 3 hold its list, row map and merge area. -/
def imageA : Image := { model := 0, group := 1, qchunk := 1, rowsMax := 64, mtFirst := 0, mtCount := 0, buckets := [(64, 1)], cells := [(0, 3)], attn := [{ lcell := 0, wl := 1, rm := 2, ma := 3 }], regions := [], code := [], crc := [] }
def partA : Part := { part1 with image := some imageA, cellMap := [(0, 4)], clearMode := false }
def loadedB (p : Part) : Block := { (imaged 0) with parts := [(1, p)], cells := [(3, { cellA with bufs := [(1, { base := 0, len := 4096, valid := true }), (2, { base := 4096, len := 4096, valid := true }), (3, { base := 8192, len := 4096, valid := true })] })] }
theorem witness_Programs_unload : Starts1 (loadedB partA) 1 rUnload 0x51 ∧ Body rUnload [] ∧ ((taken (loadedB partA) 1 rUnload).part 1).image = some imageA :=
  ⟨starts_of (by decide +kernel), by unfold Body; decide +kernel, by decide +kernel⟩
def rBatch : Rec := record [(0, 1, 0x52), (18, 2, 1), (24, 8, 2 ^ 21 + 4096)]
theorem witness_Batches : let t := taken (loadedB partA) 1 rBatch
    let b := modCmd (modCmd t 0 fun c => { c with left := 1, slot := 0 }) 0 fun c => { c with left := 1, at_ := t.now, slot := 1 }
    let q := pvaCheck b 1 .hubRead0 (2 ^ 21 + 4096) 32
    let raw := pvaRead q.2 1 .hubRead0 (2 ^ 21 + 4096) 2 32
    Starts1 (loadedB partA) 1 rBatch 0x52 ∧ Body rBatch [(16, 4), (24, 28)] ∧ (t.part 1).ahead = none ∧ (t.part 1).image = some imageA ∧ pvaOk b 1 .hubRead0 (2 ^ 21 + 4096) 32 = true ∧ q.1 = false ∧
    let z := recsRead q.2 1 imageA raw 1
    recsBad z 1 imageA 64 raw 1 0 [] 0 = none ∧ (batchPlace z 1 imageA rBatch (batchItems z 1 imageA 1 raw 1)).toOption.isSome = true ∧ (admitRecs 1 0 0 raw 1 0 [] z).1.toOption.isSome = true ∧
    imageA.damaged = false ∧ (q.2.part 1).image = some imageA :=
  ⟨starts_of (by decide +kernel), by unfold Body; decide +kernel, by decide +kernel, by decide +kernel, by decide +kernel, by decide +kernel, by decide +kernel, by decide +kernel, by decide +kernel, rfl, by decide +kernel⟩
theorem witness_Batches_refused : recsBad (loadedB partA) 1 imageA 64 0 1 0 [] 0 ≠ none := by decide +kernel
def bt1 : Batch := { num := 5, cmd := 4, bucket := 0, arg0 := 7, arg1 := 8, sess := [], items := [], rows := 0, attr := 0 }
def batchCmd : Cmd := { id := 4, part := 1, idx := 0, desc := rBatch, left := 2 }
theorem witness_Batches_start : let b := loadedB { partA with ahead := some bt1 }
    (∀ c ∈ b.fab.colls, c.part ≠ 1) ∧ (b.part 1).running = none ∧ (b.part 1).ahead = some bt1 ∧ (b.part 1).image = some imageA := by decide +kernel
theorem witness_Batches_end : let b := loadedB { partA with running := some bt1 }
    (b.part 1).running = some bt1 ∧ imageCells b 1 = [3] ∧ bt1.faultKey = none ∧ ({ cellA with thr := [(2, { ready with st := .halt })] } : Cell).quiet = true := by decide +kernel
theorem witness_Batches_cancel : let r := record [(0, 1, 4), (16, 4, 5)]
    Starts1 (loadedB { partA with running := some bt1 }) 1 r 0x04 ∧ Starts1 (loadedB { partA with ahead := some bt1 }) 1 r 0x04 ∧ Body r [(16, 4)] ∧ r.u 16 4 = bt1.num :=
  ⟨starts_of (by decide +kernel), starts_of (by decide +kernel), by unfold Body; decide +kernel, by decide +kernel⟩
theorem witness_Batches_bounded : let b := { loadedB { partA with clearMode := true, ahead := some bt1 } with now := 10001 }
    bounded b 1 = true ∧ bt1.startedAt + 1000 * startBound bt1 < b.now ∧ b.hub.cmds = [] ∧ Reaches (bootB b) .firmware (0xC7F54000 + 8 * 1) 1 :=
  ⟨by decide +kernel, by decide +kernel, rfl, reaches_of (by decide +kernel)⟩
theorem witness_Batches_late : let c := { batchCmd with left := 1, slot := 1 }
    let b := { loadedB { partA with clearMode := true } with now := 2 ^ 40, hub := { kw := { st := 2 }, cmds := [c] } }
    bounded b 1 = true ∧ b.hub.cmds.find? (fun c => c.admitting 1 1 && decide (c.at_ + 1000 * admitBound b c < b.now)) = some c := by decide +kernel
theorem test_run_start : ((after (.runStart 1) (st1 (loadedB { partA with ahead := some bt1 }))).part 1).running.map (·.num) = some 5 := by decide +kernel
theorem witness_Tallies_update : ({ tallied.blk with hub := { tq := [{ part := 1, handle := 5, set := false, amount := 2, loc := 0 }] } } : Block).hub.tq.find? (fun u => u.part == 1 && u.handle == 5) =
    some { part := 1, handle := 5, set := false, amount := 2, loc := 0 } := by decide +kernel
def watching (unit : Nat) : Block := { on { cellA with thr := [(2, { ready with st := .wait, wait := .tally 5 9 false })] } |>.blk with
  hub := { watches := [{ cell := 3, unit := unit, part := 1, handle := 5, value := 9, id := 0, released := true }] } }
theorem witness_Tallies_release : Quiet (watching 2) ∧ ((watching 2).cell 3 |>.thread 2).wait = .tally 5 9 false ∧ ((watchOf (watching 2) 3 2).map (·.released) = some true) ∧
    ((watchOf (watching 8) 3 8).map (·.released) = some true) ∧ ((watchOf (watching 10) 3 10).map (·.released) = some true) := ⟨by decide +kernel, by decide +kernel, by decide +kernel, by decide +kernel, by decide +kernel⟩
def rTallySet : Rec := record [(0, 1, 0x70), (16, 2, 5), (20, 4, 100)]
def rTallyThresh : Rec := record [(0, 1, 0x71), (16, 2, 5), (18, 1, 1), (20, 4, 100)]
theorem witness_Tallies_commands : Starts1 (hub1 part1) 1 rTallySet 0x70 ∧ Body rTallySet [(16, 2), (20, 4)] ∧ Starts1 (hub1 part1) 1 rTallyThresh 0x71 ∧ Body rTallyThresh [(16, 3), (20, 4)] ∧
    5 < ((taken (hub1 part1) 1 rTallySet).part 1).tallyQuota := ⟨starts_of (by decide +kernel), by unfold Body; decide +kernel, starts_of (by decide +kernel), by unfold Body; decide +kernel, by decide +kernel⟩
theorem witness_Tallies_quota : requester (bootB (hub1 part1)) .firmware = .platform ∧ Reaches (bootB (hub1 part1)) .firmware (0xC7F5C000 + 8) 32 ∧ bits 32 0 13 + ((List.range 16).map fun k => if k = 1 then 0 else ((bootB (hub1 part1)).part k).tallyQuota).sum ≤ 4096 :=
  ⟨rfl, reaches_of (by decide +kernel), by decide +kernel⟩
theorem test_tally_set : ((after (.tallySet 1 rTallySet) (st1 (hub1 part1))).tally 1 5).val = 100 := by decide +kernel
def rWinOpen : Rec := record [(0, 1, 0x72), (16, 1, 2), (18, 2, 0xFFFF), (20, 4, 4096), (24, 8, 2 ^ 21), (36, 2, 0x1FFF)]
def rWinTag : Rec := record [(0, 1, 0x72), (16, 1, 1), (17, 1, 2), (18, 2, 0xFFFF), (20, 4, 1024), (24, 8, 1)]
theorem witness_Windows_open : let t := taken (mapped (hub1 part1)) 1 rWinOpen
    Starts1 (mapped (hub1 part1)) 1 rWinOpen 0x72 ∧ Body rWinOpen [(16, 22)] ∧ pvaOk t 1 .hubWrite0 (2 ^ 21) 4096 = true ∧ winsOpen t 1 < (t.part 1).winQuota ∧ winsHeld t < 2048 ∧ (winFree t 1).isEmpty = false ∧
    (winPick (winReady t 1)).isSome = true := ⟨starts_of (by decide +kernel), by unfold Body; decide +kernel, by decide +kernel, by decide +kernel, by decide +kernel, by decide +kernel, by decide +kernel⟩
theorem witness_Windows_tagged : let b := loadedB { partA with winQuota := 4 }
    Starts1 b 1 rWinTag 0x72 ∧ Body rWinTag [(16, 22)] ∧ storePlace (taken b 1 rWinTag) 1 1 1024 = some (3, 0) := ⟨starts_of (by decide +kernel), by unfold Body; decide +kernel, by decide +kernel⟩
def winW : Win := { gen := 3, opened := true, space := 2, tally := 0xFFFF, len := 4096, addr := 2 ^ 21, srcNode := 0x1FFF }
def arrival : WinWrite := { node := 1, part := 1, index := 4, gen := 3, off := 128, len := 64, data := 9, from_ := .fabric 0 1 0 }
def winB (w : Win) : Block := { mapped (hub1 part1) with hub := { wins := [(winKey 1 4, w)], winq := [arrival], winAcc := [arrival] } }
theorem witness_Windows_close : let r := record [(0, 1, 0x73), (16, 4, 4 + 65536 * 3)]
    Starts1 (winB winW) 1 r 0x73 ∧ Body r [(16, 4)] ∧ ((taken (winB winW) 1 r).win 1 4) = winW := ⟨starts_of (by decide +kernel), by unfold Body; decide +kernel, by decide +kernel⟩
theorem witness_Windows_arrival : arrival.index < ((winB winW).part 1).winQuota ∧ (winB winW).win 1 4 = winW ∧ winW.gen = arrival.gen ∧ arrival.off + arrival.len ≤ winW.len ∧ winW.expected = 0 := by decide +kernel
theorem witness_Windows_tags : let b := { loadedB partA with hub := {} }
    winGrans b 1 { winW with space := 1, flags := 2, addr := 1, len := 2048 } 0 1024 = some (3, [0]) ∧ (b.cell 3).tag 0 = 0 := by decide +kernel
theorem witness_Windows_landed : translate (winB winW) 1 .tenantWrite (winW.addr + arrival.off) = some (1024 * 2 ^ 21 + 128) := by decide +kernel
theorem witness_Windows_reuse : let c : Cmd := { id := 4, part := 1, idx := 0, desc := rWinOpen }
    let b := { mapped (hub1 part1) with hub := { cmds := [c], winOpens := [(1, 4)] } }
    b.hub.winOpens.find? (fun x => x.1 == 1) = some (1, 4) ∧ (winPick (winReady b 1)).isSome = true ∧ cmdOf b 4 = some c := by decide +kernel

/-! Witnesses: remittance and the Ethernet ports. -/
def qpRec : Rec := record [(24, 3, 77), (28, 3, 100), (32, 2, 5000), (34, 1, 3), (35, 1, 0x21), (36, 1, 2), (37, 1, 64), (52, 1, 4)]
def destRec : Rec := record [(0, 8, 2 ^ 30), (24, 4, 4096), (28, 2, 7), (30, 2, 0xFFFF), (32, 2, 0xFFFF), (34, 2, 0xFFFF), (37, 1, 1)]
/-- Partition 1 with a destination table of four entries, queue pairs allowed, and VPN 1's first bytes a descriptor. -/
def remB (d : Rec) : Block := let b := (mapped (hub1 part1)).memWrite (1024 * 2 ^ 21) 64 d.toNat
  { b with regs := mset 0 (mset 0 b.regs (0xC7F58000 + 8) (BitVec.ofNat 64 (2 ^ 30 + 4 * 2 ^ 40))) (0xC7F58080 + 8) 4, entries := [(9, { seq9 1 with dest := 0 })] }
def rQpSetup : Rec := record [(0, 1, 0x60), (24, 8, 2 ^ 21)]
def rQpReset : Rec := record [(0, 1, 0x61), (16, 3, 7)]
def rDestSet : Rec := record [(0, 1, 0x62), (24, 8, 2 ^ 21)]
def rDestClear : Rec := record [(0, 1, 0x63)]
def rResend : Rec := record [(0, 1, 0x64), (16, 4, h9), (28, 2, 1), (36, 4, 2)]
/-- Queue pair 7 of E-die 0, destination 0, and the frame of entry 9's first page sealed with 16 positions. -/
def qp7 : QP := { st := 1, part := 1, desc := qpRec, nextPsn := 100, retries := 1, rnr := 2, rate := 1600000 }
def remit9 : Remit := { id := 3, part := 1, seq := h9, dest := 0, layer := 0, page := 0, model := 0, frame := 5, c := 16, serial := 0, time := 0, edie := 0 }
def remB7 (q : QP) (r : Remit) (p : EthPort) : Block := let b := (remB qpRec).memWrite (2 ^ 30) 64 destRec.toNat
  { b with rem := { edies := [(0, { qps := [(7, q)], q := [3], ports := [(0, p)] })], remits := [r], dests := [(destKey 1 0, (0, true))] },
           parts := [(1, { part1 with models := [(0, { layers := 1, kvHeads := 1, headDim := 64, fmt := 3, poolVpn := 8, poolPages := 2, frames := [(5, { ref := 1, last := 16, isSealed := true, remit := 1 })] })] })] }
theorem witness_RemittanceCommands_qp : let t := taken (remB qpRec) 1 rQpSetup
    Starts1 (remB qpRec) 1 rQpSetup 0x60 ∧ Body rQpSetup [(16, 2), (24, 8)] ∧ pvaOk t 1 .hubRead0 (2 ^ 21) 64 = true ∧ qpDescOk (BitVec.ofNat 512 (pvaRead t 1 .hubRead0 (2 ^ 21) 2 64)) = true ∧
    qpCount t 0 1 < qpQuota t 1 ∧ freeQp t 0 = some 0 ∧ pvaBad t 1 .hubRead0 (2 ^ 21) 64 = false :=
  ⟨starts_of (by decide +kernel), by unfold Body; decide +kernel, by decide +kernel, by decide +kernel, by decide +kernel, by decide +kernel, by decide +kernel⟩
theorem witness_RemittanceCommands_reset : let t := taken (remB7 qp7 remit9 {}) 1 rQpReset
    Starts1 (remB7 qp7 remit9 {}) 1 rQpReset 0x61 ∧ Body rQpReset [(16, 3)] ∧ (t.qp 0 7).st ≠ 0 ∧ (t.qp 0 7).part = 1 :=
  ⟨starts_of (by decide +kernel), by unfold Body; decide +kernel, by decide +kernel, by decide +kernel⟩
theorem witness_RemittanceCommands_dest : let t := taken (remB destRec) 1 rDestSet
    Starts1 (remB destRec) 1 rDestSet 0x62 ∧ Body rDestSet [(24, 8)] ∧ destDescOk t 1 (BitVec.ofNat 512 (pvaRead t 1 .hubRead0 (2 ^ 21) 2 64)) = true ∧ 0 < (destTable t 1).2 ∧
    mget (0, false) t.rem.dests (destKey 1 0) = (0, false) := ⟨starts_of (by decide +kernel), by unfold Body; decide +kernel, by decide +kernel, by decide +kernel, by decide +kernel⟩
theorem witness_RemittanceCommands_clear : let t := taken (remB7 qp7 remit9 {}) 1 rDestClear
    Starts1 (remB7 qp7 remit9 {}) 1 rDestClear 0x63 ∧ Body rDestClear [(16, 4)] ∧ (destOf t 1 0).isSome = true ∧ t.rem.clears = [] :=
  ⟨starts_of (by decide +kernel), by unfold Body; decide +kernel, by decide +kernel, by decide +kernel⟩
theorem witness_RemittanceCommands_resend : let t := taken (remB7 qp7 remit9 {}) 1 rResend
    Starts1 (remB7 qp7 remit9 {}) 1 rResend 0x64 ∧ Body rResend [(16, 9), (26, 4), (32, 8)] ∧ seqCheck t 1 h9 = none ∧ rResend.u 36 4 ≤ cdiv (t.entry 9).reserved 16 ∧ (t.entry 9).st = 1 :=
  ⟨starts_of (by decide +kernel), by unfold Body; decide +kernel, by decide +kernel, by decide +kernel, by decide +kernel⟩
theorem witness_RemittanceWork : remitHead (remB7 qp7 remit9 {}) 0 = some remit9 ∧ (match remitCheck (remB7 qp7 remit9 {}) remit9 with | .ok (_, i) => i == 7 | .error _ => false) = true ∧
    (match remitCheck (remB7 qp7 { remit9 with dest := 1 } {}) { remit9 with dest := 1 } with | .ok _ => false | .error st => st == .descInvalid) = true := by decide +kernel
def remitR : Remit := { remit9 with checked := true, qp := some 7, bytes := 2048, descr := destRec }
theorem witness_RemittanceWork_frame : let b := remB7 qp7 remitR {}
    remitHead b 0 = some remitR ∧ remitR.bytes = remitData b remitR ∧ (b.ed 0).used + remitR.bytes ≤ egressBytes ∧ (memChecks b 1 ((shipped b remitR).map fun x => (frameMpa b 1 0 5 + x.1, x.2))).1 = false ∧
    (memChecks { b with merr := [(frameMpa b 1 0 5 / 8, poisonFlips)] } 1 ((shipped b remitR).map fun x => (frameMpa b 1 0 5 + x.1, x.2))).1 = true := by decide +kernel
def pkt0 : RPkt := { psn := 100, op := 0x0A, len := 64, data := 0, remit := 3, ackReq := true }
def sent0 : RPkt := { pkt0 with sent := some 0 }
def upPort : EthPort := { up := true }
theorem witness_RemittanceWork_send : let b := { remB7 { qp7 with pkts := [pkt0] } remitR upPort with regs := [(remBase 0, 2)] }
    portReady b 0 0 = true ∧ qpPick b 0 0 = some 7 ∧ (b.qp 0 7).pkts[(b.qp 0 7).done]? = some pkt0 := by decide +kernel
theorem witness_RemittanceAnswers : let b := remB7 { qp7 with pkts := [sent0], done := 1 } remitR upPort
    FromPeer b 0 0 7 0 ∧ (b.qp 0 7).st = 1 ∧ (b.qp 0 7).outstanding.findIdx? (fun k => k.psn == 100) = some 0 ∧ (b.qp 0 7).rnr ≠ 0 ∧ (b.qp 0 7).retries ≠ 0 :=
  ⟨⟨by decide +kernel, by decide +kernel, by decide +kernel, by decide +kernel⟩, by decide +kernel, by decide +kernel, by decide +kernel, by decide +kernel⟩
theorem witness_RemittanceAnswers_timers : let b := { remB7 { qp7 with pkts := [sent0], done := 1 } remitR upPort with now := 50000 }
    let c := remB7 { qp7 with rnrAt := some 0, cnpAt := some 0 } remitR upPort
    (b.qp 0 7).outstanding.head? = some sent0 ∧ (b.port 0 0).up = true ∧ max (sent0.sent.getD 0) (b.qp 0 7).ackAt + 4096 * 2 ^ (qpRec.u 35 1 % 32) ≤ b.now ∧ (b.qp 0 7).rateAt + 50000 ≤ b.now ∧ (c.qp 0 7).rnrAt = some 0 ∧ (c.qp 0 7).cnpAt = some 0 := by decide +kernel
theorem test_acknowledge : let b := after (.acknowledge 0 0 7 100 0 0) (st1 (remB7 { qp7 with pkts := [sent0], done := 1 } { remitR with read := true, left := 1 } upPort))
    ((b.qp 0 7).pkts, (b.qp 0 7).retries) = ([], 1) := by decide +kernel
theorem witness_EthernetPorts : let b := remB7 qp7 remitR { upPort with viol := [(0, 1)], pauseAt := some 0 }
    (b.port 0 0).up = true ∧ rxClass b 0 0 { len := 1, val := 0 } = some 0 ∧ bits (portMode b 0) 3 3 = 3 ∧ (b.port 0 0).pauseAt = some 0 ∧ mget 0 (b.port 0 0).viol 0 - mget 0 (b.port 0 0).violSeen 0 ≠ 0 := by decide +kernel
theorem witness_EthernetPorts_links : let b := { remB7 qp7 remitR {} with regs := [(remBase 0, 2)], clk := { doms := [(163, { locked := true })] } }
    let c := { remB7 qp7 remitR { lostAt := some 0 } with now := 50000000 }
    portOn b 0 0 = true ∧ (b.port 0 0).up = false ∧ (b.dom 20 3).locked = true ∧ (c.port 0 0).lostAt = some 0 ∧ 1000000 * holdMs c 0 ≤ c.now := by decide +kernel
theorem witness_EthernetPorts_mode : Reaches (bootB (remB7 qp7 remitR {})) .firmware (remBase 0) 2 ∧ bit 1 0 ≠ bit 24 0 ∧ bits 24 1 2 = 0 := ⟨reaches_of (by decide +kernel), by decide, by decide⟩

/-! Witnesses: the fabric. -/
/-- The node 5, with one port. -/
def node (l : Link) : Block := { mapped (hub1 part1) with regs := [(0xC7F60000, BitVec.ofNat 64 (5 + 2 ^ 13))], fab := { links := [(0, l)] } }
theorem witness_FabricLinks : let b := { node { st := 1 } with now := 50000000 }
    (b.link 0).st = 1 ∧ (b.link 0).identFault = false ∧ (b.link 0).since + 50000000 ≤ b.now ∧ domHeld b 20 4 = false ∧ nodeValid b = true ∧ nodeId b = 5 := by decide +kernel
theorem witness_FabricLinks_others : let b (st : Nat) : Block := { node { st := st } with now := 1000000 }
    (∀ st ∈ [2, 3, 4], ((b st).link 0).st = st) ∧ ((b 2).link 0).goodAt + 10000 ≤ (b 2).now ∧ ((b 3).link 0).since + 1000000 ≤ (b 3).now ∧ ((b 4).link 0).since + 100000 ≤ (b 4).now := by decide +kernel
theorem witness_FabricLinks_control : Reaches (bootB (node {})) .firmware (linkCtrlAddr 0) 3 := reaches_of (by decide +kernel)
/-- A good idle flit, a data flit with sequence number 0 and a flit of an unknown type. -/
def flit (typ : Nat) : Nat := mkFlit typ 0 0 0 0 31 0
theorem witness_FabricPackets : Hears (node { st := 2 }) 0 ∧ ∀ typ ∈ [0, 1, 5], wireFlit (flitWire (flit typ)) = some (flit typ, 0) ∧ crc64 248 (flit typ % 2 ^ 1984) = bits (flit typ) 1984 64 ∧
    bits (flit typ) 0 4 = typ ∧ bits (flit typ) 41 5 = 31 := ⟨⟨by decide +kernel, by decide +kernel⟩, by decide +kernel⟩
/-- A window write from node 3 to partition 1's window 4. -/
def windowPkt : Pkt := mkPkt 1 1 5 3 1 1 64 [(16, 2, 4), (18, 2, 3)] 9
theorem witness_FabricPackets_packet : let b := node { st := 2, rx := [windowPkt] }
    (b.link 0).rx = [windowPkt] ∧ nodeValid b = true ∧ windowPkt.dst = nodeId b ∧ windowPkt.typ = 1 ∧ windowPkt.age b ≤ 1000000 * lifetimeMs b ∧
    (mget {} b.fab.rconns windowPkt.src : RConn).epoch = windowPkt.epoch ∧ windowPkt.cseq = (mget {} b.fab.rconns windowPkt.src : RConn).expect := by decide +kernel
def answerPkt : Pkt := mkPkt 2 0 5 3 1 1 0 [(16, 3, 0), (20, 1, 1)]
def outPkt : OutPkt := { cseq := 0, pkt := windowPkt, from_ := .xfer 3 true 5, at_ := 0 }
def connB : Block := { node {} with fab := { inbox := [{ pkt := answerPkt, conn := none }], conns := [(3, { out := [outPkt], broken := none })] } }
theorem witness_FabricPackets_answer : connB.fab.inbox.find? (fun x => x.pkt.typ == 2) = some { pkt := answerPkt, conn := none } ∧ answerPkt.src = 3 ∧
    (connB.conn 3).out.findIdx? (fun o => o.cseq == answerPkt.u 16 3) = some 0 ∧ bit (answerPkt.u 20 1) 1 = false := by decide +kernel
theorem witness_FabricPackets_timeout : let b := { connB with now := 200000 }
    (b.conn 3).out.head? = some outPkt ∧ outPkt.at_ + 1000 * e2eUs b ≤ b.now ∧ (b.conn 3).timeouts + 1 < e2eRetries b := by decide +kernel
theorem witness_FabricPackets_reopen : let b := { node {} with fab := { conns := [(3, { broken := some 0 })] }, now := 20000000 }
    (b.conn 3).broken = some 0 ∧ 0 + 1000000 * lifetimeMs b ≤ b.now := by decide +kernel
theorem witness_FabricReports : let x : VcPkt := { vc := 0, pkt := windowPkt, at_ := 0 }
    let b := { node { st := 2, q := [x], credits := [(0, 1024)] } with now := 100000000, cnts := [(eBase 0 + 0x30A00, 1)], fab := { links := [(0, { st := 2, q := [x], credits := [(0, 1024)] })] } }
    (b.link 0).q.find? (fun x => x.vc == 0) = some x ∧ 1024 < x.pkt.credits + mget 0 (b.link 0).credits 0 ∧ 1000000 * stallMs b ≤ b.now ∧ b.cnt (eBase 0 + 0x30A00) ≠ 0 ∧ (b.link 0).st = 2 := by decide +kernel
theorem witness_FabricReports_time : let b := { node { st := 2 } with regs := [(0xC7F90208, 1)], clk := { timeRx := [(0, (2 ^ 64 * 7 + 2 ^ 128 * 5, 20, 1))] } }
    timeParent b = some 0 ∧ (mget (0, 0, 0) b.clk.timeRx 0).2.2 ≠ 0 ∧ bits (mget (0, 0, 0) b.clk.timeRx 0).1 128 64 ≠ 0 := by decide +kernel

/-! Witnesses: groups and collectives. -/
/-- A group of two members, this one with rank 1 (or 0), and partition 1 with a list of its members at VPN 1. -/
def group2 (rank : Nat) : Group := { part := 1, tag := 99, members := if rank = 1 then [8195, 8197] else [8197, 8195], fanin := 2, rank := rank }
def groupB (g : Option Group) : Block := let b := loadedB { partA with groupQuota := 4 }
  { b with regs := [(0xC7F60000, BitVec.ofNat 64 (5 + 2 ^ 13))], mem := (b.memWrite (1024 * 2 ^ 21) 8 (8195 + 8197 * 2 ^ 32)).mem, fab := { groups := [(groupKey 1 0, g)] } }
def rGroupSet : Rec := record [(0, 1, 0x80), (20, 4, 99), (24, 8, 2 ^ 21), (32, 2, 2), (34, 1, 2)]
def rGroupClear : Rec := record [(0, 1, 0x81)]
/-- An all-gather of 64 bytes a member, into buffer 1 of logical cell 0 as its escrow. -/
def rGather : Rec := record [(0, 1, 0x82), (18, 1, 2), (24, 8, 2 ^ 21), (32, 8, 2 ^ 21 + 65536), (40, 4, 64), (46, 1, 1), (47, 1, 1)]
theorem witness_Groups_set : let t := taken (groupB none) 1 rGroupSet
    let v := pvaRead t 1 .hubRead0 (2 ^ 21) (pvaFuel 8) 8
    Starts1 (groupB none) 1 rGroupSet 0x80 ∧ Body rGroupSet [(20, 15)] ∧ pvaOk t 1 .hubRead0 (2 ^ 21) 8 = true ∧ (pvaCheck t 1 .hubRead0 (2 ^ 21) 8).1 = false ∧
    ((List.range 2).map fun i => bits v (32 * i) 32) = [8195, 8197] ∧ nodeId t + 8192 * 1 = 8197 ∧ groupOf t 1 0 = none ∧ (t.part 1).groupQuota = 4 ∧ groupsAll t < 1024 :=
  ⟨starts_of (by decide +kernel), by unfold Body; decide +kernel, by decide +kernel, by decide +kernel, by decide +kernel, by decide +kernel, by decide +kernel, by decide +kernel, by decide +kernel⟩
theorem witness_Groups_clear : let t := taken (groupB (some (group2 1))) 1 rGroupClear
    Starts1 (groupB (some (group2 1))) 1 rGroupClear 0x81 ∧ Body rGroupClear [(16, 2)] ∧ groupNamed t 1 0 = some (group2 1) ∧ (group2 1).clearing = none :=
  ⟨starts_of (by decide +kernel), by unfold Body; decide +kernel, by decide +kernel, rfl⟩
theorem witness_Groups_coll : let t := taken (groupB (some (group2 1))) 1 rGather
    Starts1 (groupB (some (group2 1))) 1 rGather 0x82 ∧ CollFits t 1 rGather (group2 1) ∧ collQueued t 1 < 4 := by
  refine ⟨starts_of (by decide +kernel), ?_, by decide +kernel⟩
  have h : escrowList (taken (groupB (some (group2 1))) 1 rGather) 1 rGather = some [(3, 0, 4096)] := by decide +kernel
  unfold CollFits
  refine ⟨by decide +kernel, by decide +kernel, by decide +kernel, by decide +kernel, by decide +kernel, by decide +kernel, by decide +kernel, by decide +kernel, by decide +kernel, by decide +kernel, by decide +kernel,
    by decide +kernel, ?_, by decide +kernel, by decide +kernel, by decide +kernel, by decide +kernel, _, h, by decide +kernel⟩
  exact fun h => absurd h (by decide +kernel)
def collCmd : Cmd := { id := 4, part := 1, idx := 0, desc := rGather }
theorem witness_Groups_wait : let b := { groupB (some (group2 1)) with fab := { groups := [(groupKey 1 0, some (group2 1))], ringWait := [1] }, hub := { cmds := [{ collCmd with left := 1 }] } }
    1 ∈ b.fab.ringWait ∧ collQueued b 1 < 4 ∧ b.hub.cmds.find? (fun c => c.part == 1 && c.op == 0x82 && c.left == 1 && c.st == .running) = some { collCmd with left := 1 } ∧ b.fab.rdv = [] := by decide +kernel
def coll1 : Coll := { id := 6, part := 1, cmd := 4, group := 0, tag := 99, seq := 0, desc := rGather }
/-- A collective in its queue, with an arrival. -/
def collB (c : Coll) (g : Group) (l : List Pkt) : Block :=
  { groupB none with fab := { groups := [(groupKey 1 0, some g)], colls := [c], inbox := l.map fun k => { pkt := k, conn := some 0 } }, hub := { cmds := [collCmd] } }
theorem witness_Collectives_start : let b := collB coll1 (group2 1) []
    (b.part 1).running = none ∧ b.fab.colls.find? (fun c => c.part == 1 && !c.started) = some coll1 := by decide +kernel
/-- From the other member: COLL_READY, COLL_ABORT, data of type `typ` with a rank. -/
def readyPkt : Pkt := mkPkt 3 0 5 3 1 1 0 [(16, 4, 99), (24, 1, 2), (27, 1, 2), (28, 4, 64)]
def abortPkt : Pkt := mkPkt 8 0 5 3 1 1 0 [(16, 4, 99), (24, 1, 9), (29, 2, 0)]
def dataPkt (typ off len : Nat) (rank : Nat) : Pkt := mkPkt typ 1 5 3 1 1 len [(16, 4, 99), (24, 4, off), (29, 2, rank)]
theorem witness_Collectives_ready : ∀ k ∈ [(readyPkt, 3), (abortPkt, 8)], ((takeArrival (collB coll1 (group2 1) [k.1]) k.2 fun _ => false).any fun x =>
    (stateCheck (x.2.part x.1.pkt.dpart)).isNone && collFor x.2 x.1.pkt == some coll1 && rankOf (collGroup x.2 coll1) x.1.pkt == some 0) = true := by decide +kernel
theorem witness_Collectives_kept : ((takeArrival (collB { coll1 with seq := 5 } (group2 1) [readyPkt]) 3 fun _ => false).any fun x => (collFor x.2 x.1.pkt).isNone) = true := by decide +kernel
/-- A started collective with its peer ready. -/
def collR (f : Coll → Coll) : Coll := f { coll1 with started := true, ready := [0] }
theorem witness_Collectives_down : let c := collR id
    ((takeArrival (collB c (group2 1) [dataPkt 5 0 64 0]) 5 fun _ => false).any fun x => collFor x.2 x.1.pkt == some c && rankOf (collGroup x.2 c) x.1.pkt == some 0 && downOk x.2 c 0 x.1.pkt) = true := by decide +kernel
theorem witness_Collectives_up : let c : Coll := { coll1 with started := true, ready := [1] }
    ((takeArrival (collB c (group2 0) [dataPkt 4 64 64 1]) 4 (upHold (collB c (group2 0) []))).any fun x => rankOf (collGroup x.2 c) x.1.pkt == some 1 && upOk x.2 c 1 x.1.pkt) = true := by decide +kernel
def rAll : Rec := record [(0, 1, 0x82), (18, 1, 3), (24, 8, 2 ^ 21), (32, 8, 2 ^ 21 + 65536), (40, 4, 64), (46, 1, 1), (47, 1, 1), (48, 8, 2 ^ 21 + 32768), (56, 4, 128)]
theorem witness_Collectives_counts : let c := collR fun c => { c with desc := rAll }
    let d := collR fun c => { c with desc := rAll, refuseUp := true, counts := [(0, 2)] }
    (c.kind == 3 && mget 0 c.counts 0 == 0 && a2aOk (collB d (group2 1) []) d 0 (dataPkt 7 0 64 0)) = true := by decide +kernel
theorem witness_CollectiveEnds : let c := collR fun c => { c with placed := 128 }
    let b := collB c (group2 1) []
    b.fab.colls.find? (fun c => c.part == 1 && collWhole b c) = some c ∧ escrowList b 1 rGather = some [(3, 0, 4096)] ∧ destOk b 1 rGather 128 = true ∧ (escrowGet c.id [(3, 0, 4096)] 0 128 b).1 = some 0 ∧ destFrac b 1 rGather 128 = true := by decide +kernel
theorem witness_CollectiveEnds_fallback : let r := record [(0, 1, 0x82), (24, 8, 2 ^ 21), (23, 1, 1), (32, 8, 2 ^ 21 + 65536), (40, 4, 16), (46, 1, 1), (47, 1, 1)]
    let c := collR fun c => { c with desc := r, fallback := true, placed := 64 }
    let b := collB c (group2 1) []
    b.fab.colls.find? (fun c => c.part == 1 && collWhole b c) = some c ∧ c.kind = 0 := by decide +kernel
theorem witness_CollectiveEnds_stall : let b := { collB coll1 (group2 1) [] with now := 4000000, fab := { groups := [(groupKey 1 0, some (group2 1))], colls := [coll1, { coll1 with id := 7, seq := 1 }, { coll1 with id := 8, seq := 2 }, { coll1 with id := 9, seq := 3 }] } }
    collQueued b 1 = 4 ∧ mget 0 b.fab.progress 1 + 4000000 ≤ b.now + 1 ∧ collReadyAll b coll1 = false := by decide +kernel
theorem witness_CollectiveEnds_retry : let b := { collB coll1 (group2 1) [] with now := 100000, fab := { retry := [(0, 1, readyPkt)] } }
    b.fab.retry.find? (fun x => decide (x.1 + 100000 ≤ b.now)) = some (0, 1, readyPkt) ∧ cmdOf b 4 = some collCmd ∧ collCmd.st = .running := by decide +kernel

/-! Witnesses: partitions and power. -/
/-- The granule at the end of E-die 3's last page. -/
theorem test_subchannel : mpaSubchannel (pageMpa (pageKey 3 131071) + 2097151) = (8191 + 7 * 131071) % 48 := by decide +kernel
theorem test_mtt_base_aligned : ((after (.registerWrite .firmware 0xC7F02008 8 (BitVec.ofNat 64 (2 ^ 63 + 2 ^ 22 + 4096))) (st1 (bootB (hub1 part1)))).part 1).mttBase % 2 ^ 22 = 0 := by decide +kernel
theorem witness_PartitionLife_assign : let b := bootB { parts := [(1, { blocks := 1 })] }
    (b.part 1).st = .free ∧ (∀ k ∈ partBlocks b 1, blockOwner b k = none ∧ bit b.hub.fence k = false) ∧ partBlocks b 1 = [0] ∧ Reaches b .firmware 0xC7F70200 5 ∧ Reaches b .firmware 0xC7F70200 6 ∧
    Reaches b .firmware 0xC7F70200 7 := ⟨by decide +kernel, by decide +kernel, by decide +kernel, reaches_of (by decide +kernel), reaches_of (by decide +kernel), reaches_of (by decide +kernel)⟩
theorem witness_PartitionLife_assign_taken : let b : Block := { parts := [(1, { blocks := 1 }), (2, { st := .active, blocks := 1 })] }
    (∃ k ∈ partBlocks b 1, blockOwner b k ≠ none ∨ bit b.hub.fence k = true) := ⟨0, by decide +kernel, .inl (by decide +kernel)⟩
theorem witness_PartitionLife_kill : let b := { hub1 { part1 with blocks := 1 } with hub := { cmds := [{ id := 4, part := 1, idx := 0, desc := 0 }] } }
    (b.part 1).st = .active ∧ (∀ c ∈ b.hub.cmds, ∀ d ∈ b.hub.cmds, c.id = d.id → c = d) ∧ (b.part 1).commits = [] := by decide +kernel
theorem witness_PartitionLife_steps : let b : Block := { parts := [(1, { st := .killing, blocks := 1 }), (2, { st := .scrubbing })], now := 2 ^ 40, hub := { zeroing := [(pageKey 0 600, 1, 0)] } }
    (b.part 1).st = .killing ∧ (b.part 2).st = .scrubbing ∧ (∀ k ∈ partCells b 2, (b.cell k).zeroing = false) ∧ (b.part 2).stopAt + 10000000 + zeroNs (b.part 2).scrubBytes < b.now ∧
    (∃ z ∈ b.hub.zeroing, z.1 = pageKey 0 600) := by decide +kernel
def powB (p : Power) : Block := { bootB (node {}) with pow := p, now := 2 ^ 40 }
theorem witness_PowerTicks : ∀ x ∈ [(0, 50000), (1, 1000000), (2, 10000), (3, 100000), (6, 100000)], tickDue (powB {}) x.1 x.2 = true := by decide +kernel
theorem witness_PowerTicks_memory : let b := powB { guard := true, h2 := [5600] }
    b.pow.guard = true ∧ b.pow.guardAt + 500000 ≤ b.now ∧ 97 * peakW b < 100 * b.pow.avg2 ∧ b.pow.memAt = none ∧ b.pow.memThr < 6 ∧ (∃ t, (powB { memAt := some (2 ^ 40) }).pow.memAt = some t ∧ b.now < t + 1000000) :=
  ⟨rfl, by decide +kernel, by decide +kernel, rfl, by decide +kernel, 2 ^ 40, rfl, by decide +kernel⟩
/-- A run's queue and a command's are charged, and the rest is the platform's. -/
theorem test_energy_queues : energyQueues { hub1 part1 with hub := { cmds := [{ id := 4, part := 1, idx := 0, desc := record [(3, 1, 5)] }] } } = [0xC7F71100, 0xC7F711A0] := by decide +kernel
theorem witness_PowerTicks_others : let b := powB { divSince := some 0, stageAt := [(5, 0)] }
    b.pow.diverged = false ∧ 0 + 10000000 < b.now ∧ b.pow.lost = false ∧ (∃ x ∈ b.pow.stageAt, x.1 = 5 ∧ x.2 + 1000000 ≤ b.now + 1) ∧ hubUp b = true := by decide +kernel
theorem witness_PowerTicks_returns : let b := powB { diverged := true, agreeSince := some 0, lost := true, stageAt := [(5, 2 ^ 40)] }
    b.pow.diverged = true ∧ 0 + 100000000 ≤ b.now ∧ b.pow.lost = true ∧ (∀ x ∈ b.pow.stageAt, b.now + 1 < x.2 + 1000000) := by decide +kernel
/-- An EPOCH packet of kind 0 or 1 from node 3, the master, of job 7. -/
def epoch (kind : Nat) : Pkt := mkPkt 9 0 5 3 0 0 0 [(16, 1, kind), (17, 1, 2), (18, 2, 7), (20, 4, 1), (24, 8, 100)]
def jobB (master kind : Nat) : Block := { powB {} with regs := [(0xC7F60000, BitVec.ofNat 64 (5 + 2 ^ 13)), (0xC7F80080, BitVec.ofNat 64 (1 + master * 2 + 7 * 2 ^ 14 + 500 * 2 ^ 30 + 10 * 2 ^ 40))], fab := { inbox := [{ pkt := epoch kind, conn := none }] } }
theorem witness_PowerLock : isReady (powB {}) = true ∧ tickDue (powB {}) 4 1000000 = true ∧ jobEn (powB {}) = false ∧ isMaster (powB {}) = true ∧ tickDue (powB {}) 5 1000000 = true ∧ jobEn (jobB 3 0) = true := by decide +kernel
theorem witness_PowerLock_epochs : ((takeEpoch (jobB 5 0) 0).any fun x => isMaster (jobB 5 0) && x.1.u 18 2 == jobNum (jobB 5 0) && decide (x.1.u 17 1 < 16)) = true ∧
    ((takeEpoch (jobB 3 1) 1).any fun x => x.1.u 18 2 == jobNum (jobB 3 1) && x.1.src == jobMaster (jobB 3 1)) = true := by decide +kernel
theorem witness_PowerLock_switch : let c : Commit := { serial := 1, point := 2, at_ := 100 }
    let b := powB { commit := some c }
    b.pow.commit = some c ∧ c.at_ ≤ b.mtime ∧ b.pow.rampFrom = none ∧ (jobB 3 0).pow.commitAt + 1000000 * silentMs (jobB 3 0) ≤ (jobB 3 0).now := by decide +kernel
theorem witness_PowerLock_ramp (n : Nat) : n < n + 1 + rampNs 0 2 := Nat.lt_of_lt_of_le (Nat.lt_succ_self n) (Nat.le_add_right _ _)
theorem witness_PowerLock_lost : let b := powB { commit := some { serial := 1, point := 2, at_ := 100 }, rampFrom := some (2 ^ 40 + 1, 0) }
    let d := powB { slowPoint := 5, lock := 3 }
    100 ≤ b.mtime ∧ b.pow.rampFrom = some (2 ^ 40 + 1, 0) ∧ d.pow.serial < 1 ∧ d.pow.slowPoint ≠ 0 ∧ d.pow.commit = none ∧ d.pow.lock = 3 ∧ (powB { alert := some 0 }).pow.forced = true := by decide +kernel
theorem test_lost_keeps_committed : let b := after .lockSilent (st1 { jobB 3 0 with pow := { committed := 3, point := 3, susPoint := 5 } })
    (b.pow.committed, b.pow.point, b.pow.lock, b.pow.slowPoint) = (3, 5, 3, 5) := by decide +kernel
theorem witness_PowerEmergencies : let b := powB { alert := some 0 }
    let c := powB { alertRel := some 0, hotSince := some 0, thEmerEnd := some 0 }
    hubUp b = true ∧ (powB {}).pow.alert = none ∧ b.pow.alert = some 0 ∧ 0 + 100000000 ≤ b.now ∧ c.pow.alertRel = some 0 ∧ c.pow.alert = none ∧ c.pow.hotSince = some 0 ∧ c.hub.fatal = none ∧ c.pow.thEmerEnd = some 0 ∧ c.pow.thEmer = false := by decide +kernel
theorem test_pwr_alert : ((after .pwrAlertAssert (st1 (powB { point := 3 }))).pow.point, (after .pwrAlertAssert (st1 (powB { point := 3 }))).pow.alertEmer) = (7, true) := by decide +kernel

/-! Witnesses: clocks, reset, start-up and the host link. -/
def running : Dom := { locked := true, on := true }
def clkB (r d : Nat) (x : Dom) : Block := let b := bootB (node {})
  { b with clk := { b.clk with doms := [(domKey r d, x)] }, now := 2 ^ 40 }
theorem witness_ClockDomains : Quiet (clkB 20 3 running) ∧ Clocked (clkB 3 0 running) 3 0 ∧ Clocked (clkB 24 5 running) 24 5 ∧ Clocked (clkB 20 3 running) 20 3 ∧ Clocked (clkB 20 4 running) 20 4 ∧ Clocked (clkB 3 1 running) 3 1 :=
  ⟨by decide +kernel, by unfold Clocked; decide +kernel, by unfold Clocked; decide +kernel, by unfold Clocked; decide +kernel, by unfold Clocked; decide +kernel, by unfold Clocked; decide +kernel⟩
theorem witness_ClockDomains_lock : let b := clkB 3 0 { on := true, stopped := true, stopAt := 0 }
    hubUp b = true ∧ 4 ≤ b.clk.step ∧ hasDom 3 0 = true ∧ (b.dom 3 0).locked = false ∧ refAbsent b 3 0 = false ∧ (b.dom 3 0).stopped = true ∧ (b.dom 3 0).inReset = false ∧
    (b.dom 3 0).stopAt + 1000000 * holdResetMs b ≤ b.now := by decide +kernel
theorem witness_ClockDomains_release : let b := clkB 3 0 { locked := true, on := true, stopped := true, inReset := true }
    (b.dom 3 0).inReset = true ∧ (b.dom 3 0).locked = true ∧ refAbsent b 3 0 = false := by decide +kernel
theorem witness_ClockDomains_assert : let b := bootB (node {})
    Reaches b .firmware (regionBase 3 + 0x90018) 1 := reaches_of (by decide +kernel)
theorem witness_ClockDomains_ticks : calDue (powB {}) 103 1000 = true ∧ calDue (powB {}) 300 1000000 = true ∧ calDue (powB {}) 301 32000000 = true ∧ calDue {} 300 1000000 = false := by decide +kernel
theorem witness_ResetAndBoot : let b := bootB (node {})
    Reaches b .firmware 0xC7F90108 0xA5 ∧ Reaches b .firmware 0xC7F90108 0xA4 ∧ hubUp b = true ∧ b.clk.power = true ∧ ({} : Block).clk.power = false ∧ ({} : Block).clk.latched = false ∧ hubUp {} = false :=
  ⟨reaches_of (by decide +kernel), reaches_of (by decide +kernel), by decide +kernel, by decide +kernel, rfl, rfl, by decide +kernel⟩
/-- In boot step `n` since time 0. -/
def inStep (n : Nat) : Block := { clk := { power := true, pgood := true, up := decide (n ≠ 0), step := n, modResetN := true }, now := 2 ^ 40 }
/-- In boot step `n`, within its bound. -/
def inTime (n : Nat) : Block := { inStep n with clk := { (inStep n).clk with stepAt := 2 ^ 40 - 5000 } }
theorem witness_ResetAndBoot_late : let b := inStep 4
    b.clk.power = true ∧ b.clk.failed = false ∧ b.clk.ready = false ∧ b.clk.up = true ∧ b.clk.stepAt + bootBound b.clk.step < b.now ∧ (inTime 4).clk.step = 4 ∧ b.pins.alert = false := by decide +kernel
theorem witness_ResetAndBoot_step : let b := inTime 1
    b.clk.power = true ∧ b.clk.failed = false ∧ b.clk.ready = false ∧ b.clk.up = true ∧ ¬b.clk.stepAt + bootBound b.clk.step < b.now ∧ (match bootEffect b 0 with | .ok _ => true | .error _ => false) = true ∧ (inTime 6).clk.step = 6 := by decide +kernel
theorem test_boot_step_late : let b := after (.bootStepDone 0 0 0) (st1 (inStep 1))
    (b.clk.failed, b.clk.status) = (true, Status.timeout.code) := by decide +kernel
theorem test_boot_step : ((after (.bootStepDone 0 0 0) (st1 (inTime 1))).clk.step, (after (.bootStepDone 0 0 0) (st1 (inTime 6))).clk.ready) = (2, true) := by decide +kernel
/-- Partition 1 managed by function 2, its command ring enabled with records handed over up to 3, and a DMA read of 64 bytes outstanding. -/
def dma1 (w : Bool) : Dma := { tag := 9, write := w, func := 2, addr := 4096, len := 64, use := .dead, sent := 0 }
def hostB (w : Bool) : Block := { hub1 { part1 with mgrFunc := 2, mgrEn := true, cmd := { en := true, base := 4096, tail := 3 }, comp := { en := true }, evt := { en := true } } with hub := { kw := { st := 2 }, dma := [dma1 w] }, now := 2 ^ 40 }
theorem witness_HostLink : kwUp (hostB false) = true ∧ kwUp {} = false ∧ funcPart (hostB false) 2 = some 1 ∧ funcPart (hostB false) 3 = none ∧ (∀ r < 3, (partRing ((hostB false).part 1) r).en = true) ∧
    (partRing ((hostB false).part 1) 0).size < 99 ∧ dmaOf (hostB false) 9 false = some (dma1 false) ∧ dmaOf (hostB true) 9 true = some (dma1 true) ∧ dmaOf (hostB false) 8 false = none ∧
    (dma1 false).sent + 1000 * dmaTimeoutUs (hostB false) ≤ (hostB false).now := by decide +kernel
/-- A doorbell message, credits for it or none left, and a data flit and one of an illegal type as the module's port receives them. -/
def bell : Pkt := { h := 1 }
theorem witness_HostLink_flits : let b := hub1 part1
    kwUp b = true ∧ domHeld b 24 5 = false ∧ (∀ typ ∈ [1, 4], wireFlit (flitWire (flit typ)) = some (flit typ, 0) ∧ bits (flit typ) 0 4 = typ ∧ bits (flit typ) 28 3 ≤ 3) ∧ bits (flit 1) 4 12 = (b.link 24).rxSeq ∧
    bell.kwVc = some 2 ∧ mget 0 (b.link 24).rxUsed 2 + bell.mCredits ≤ 256 ∧ 256 < mget 0 (({ b with fab := { links := [(24, { rxUsed := [(2, 256)] })] } } : Block).link 24).rxUsed 2 + bell.mCredits := by decide +kernel
/-- A flit that has been sent `n` times in the replay buffer of the Kwasar link, and a NOTIFY of vector 5 given to the link. -/
def replayB (n : Nat) : Block := { hub1 part1 with fab := { links := [(24, { replay := [{ seq := 0, bytes := 5, sends := n }] })] } }
def notifyB : Block := { hostB false with sent := [.kw 9 2 0 0 0 5 0] }
theorem witness_HostLink_replay : (∃ f ∈ ((replayB 9).link 24).replay, 9 ≤ f.sends) ∧ (∀ f ∈ ((replayB 3).link 24).replay, f.sends < 9) ∧ ((replayB 3).link 24).replay ≠ [] ∧
    (∀ typ ∈ [2, 0], wireFlit (flitWire (flit typ)) = some (flit typ, 0) ∧ bits (flit typ) 0 4 = typ ∧ bits (flit typ) 28 3 ≤ 3) := by decide +kernel
theorem test_kw_pump : let y := kwPump notifyB
    (y.sent.length, y.hub.kw.seen, (y.link 24).q.length, mget 0 (y.link 24).credits 3,
      (y.link 24).replay.map fun f => [bits f.bytes 0 4, bits f.bytes 41 5, bits f.bytes 64 8, bits f.bytes 72 8, bits f.bytes 128 8]) = (2, 1, 0, 1, [[1, 0, 9, 2, 5]]) := by decide +kernel
/-- An idle flit that acknowledges flit 0 and gives back the credit, and a NAK of it. -/
def cardFlit (f : Nat) : Block := kwFlit (BitVec.ofNat 2176 (flitWire f)) (kwPump notifyB)
theorem test_kw_ack : let y := cardFlit (mkFlit 0 0 0 3 1 31 0)
    ((y.link 24).replay.length, mget 0 (y.link 24).credits 3, y.sent.length) = (0, 0, 2) := by decide +kernel
theorem test_kw_nak : let y := cardFlit (mkFlit 2 0 4095 0 0 31 0)
    ((y.link 24).replay.map TxFlit.sends, y.sent.length, y.cnt 0xC7FA7838) = ([2], 3, 1) := by decide +kernel
theorem test_kw_pump_credits : let b : Block := { notifyB with fab := { links := [(24, { credits := [(3, 256)] })] } }
    ((kwPump b).sent.length, ((kwPump b).link 24).q.length) = (1, 1) := by decide +kernel
theorem witness_HostLink_rings : let b := bootB (apertured (hub1 { part1 with cmd := { base := 4096 } }))
    let x := (b.part 1).cmd
    let y := b.modPart 1 fun p => setRing p 0 (x.config 1)
    Reaches b .firmware (0xC7FA0008 + 0x100) 1 ∧ Reaches b .firmware 0xC7FA1008 1 ∧ x.en = false ∧ ringCheck y 1 0 (x.config 1) = none ∧
    ringCheck y 1 0 ({ x with base := 8 }.config 1) = some (1, .alignment) := ⟨reaches_of (by decide +kernel), reaches_of (by decide +kernel), by decide +kernel, by decide +kernel, by decide +kernel⟩
theorem witness_HostLink_states : let b (st : Nat) : Block := { hub1 part1 with hub := { kw := { st := st } }, now := 2 ^ 30, cnts := [(0xC7FA7800, 1)] }
    (∀ st ∈ [1, 2, 3, 4], (b st).hub.kw.st = st) ∧ (b 1).hub.kw.since + 20000000 ≤ (b 1).now ∧ domHeld (b 1) 24 5 = false ∧ (b 1).cnt (0xC7FA7800 + 8 * 0) - (b 1).hub.kw.posted.getD 0 0 ≠ 0 := by decide +kernel

/-! Witnesses: management, security and reliability. What lies behind a signature that holds (R501 to R504) rests on opaque functions, so no
concrete directive can be shown for it. -/
theorem witness_Management : let b := bootB (node {})
    let live (p : Path) (a : Nat) : Bool := pathOpen b (pathCode p) && !pathFull b (pathCode p) && mgmtAllowed b (requester b p) a true && (regFind a).isSome && !tooEarly b a true 0
    live .firmware 0xC7F60008 = true ∧ live .firmware (cellBase 3 + 0x30008) = true ∧ (regFind 0xC7F6F000).isNone = true ∧ (regFind 0xC7F60008).isSome = true ∧ pathOpen {} 0 = false ∧ pathOpen b 1 = true := by decide +kernel
theorem witness_Management_refused : let b := bootB (hub1 { part1 with mgrFunc := 2, mgrEn := true })
    mgmtAllowed b (requester b (.kwasar 2 9)) (cellBase 3 + 0x30008) true = false ∧ pathOpen b 1 = true ∧ tooEarly (inStep 2) (cellBase 3 + 0x30008) true 0 = true := by decide +kernel
theorem witness_Management_clock : let b := clkB 0 0 { running with stopped := true }
    (b.dom (regDomain (cellBase 3 + 0x30008)).1 (regDomain (cellBase 3 + 0x30008)).2).stopped = true ∧ tooEarly b (cellBase 3 + 0x30008) true 0 = false := by decide +kernel
theorem witness_Management_managers : ((regFind 0xC7F80010).any fun x => x.1.rd == 1) = true ∧ ((regFind 0xC7F70200).any fun x => x.1.wr == 1) = true ∧
    ownUnit (hub1 part1) 1 (cellBase 3 + 0x30008) = false := by decide +kernel
def waitingReq : MReq := { path := 0, func := 0, tag := 0, addr := 0x30008, write := false, data := 0, at_ := 0 }
theorem witness_Management_eclk : clockOff (clkB 20 3 {}) 20 3 = true ∧ regDomain (regionBase 20 + 0x20008) = (20, 3) ∧ tooEarly (clkB 20 3 {}) (regionBase 20 + 0x20008) false 0 = false := by decide +kernel
theorem witness_Management_watchdog : let b := { bootB (node {}) with now := 10000000, hub := { mreqs := [waitingReq] } }
    b.hub.mreqs.find? (fun r => r.path == 0 && !r.over_ && decide (r.at_ + 10000000 ≤ b.now)) = some waitingReq ∧ (b.path 0).postAt = none ∧ b.hub.i3c.dynAddr = 0 := by decide +kernel
theorem test_register_write : (after (.registerWrite .firmware 0xC7F60008 8 7) (st1 (bootB (node {})))).reg 0xC7F60008 ≠ fabCfgReset := by decide +kernel
theorem test_register_unaligned : (after (.registerWrite .firmware 0xC7F60009 8 7) (st1 (bootB (node {})))).sent = [.fw Status.alignment.code 0 0] := by decide +kernel
theorem witness_Security : let b := bootB (apertured (hub1 part1))
    Reaches b .firmware (0xC7FB1080 + 8) 5 ∧ Reaches b .firmware 0xC7FB4000 1 ∧ Reaches b .firmware 0xC7FB4108 (16384 + 2 ^ 29) ∧ (b.attest 1).busy = false ∧
    inAperture b 1 (b.reg (0xC7FB1000 + 8)) 3776 = true ∧ b.reg (0xC7FB1000 + 8) % 64 = 0 ∧ kwUp b = true ∧ inAperture b 2 0 3776 = false :=
  ⟨reaches_of (by decide +kernel), reaches_of (by decide +kernel), reaches_of (by decide +kernel), by decide +kernel, by decide +kernel, by decide +kernel, by decide +kernel, by decide +kernel⟩
theorem witness_Security_directive : directiveForm 0 = false ∧ directiveForm (1 + 2 ^ 16 + 5488 * 2 ^ 32) = true := by decide +kernel
theorem witness_Security_stage : let b := { bootB (hub1 part1) with regs := [(0xC7FB4108, 16384)] }
    b.sec.stage.busy = false ∧ stageAddr b % 64 = 0 ∧ stageCtrl b % 2 ^ 25 = 16384 ∧ kwUp b = true := by decide +kernel
theorem witness_Reliability : let r : Run := { e := chainE, phase := .running }
    let b := (ran r).blk
    runOf b 3 = some r ∧ r.replays < replayLimit b ∧ (chainOf r.e).isSome = true ∧ runOf b 4 = none ∧ ((attnRun item).e.kind ≠ .chain) := by decide +kernel
theorem witness_Reliability_bank : ((banked true).blk.cell 3).bankq[0]? = some { fillWork with started := true } ∧ fillWork.op < 2 ∧ fillWork.replays < replayLimit (banked true).blk := by decide +kernel
theorem witness_Reliability_recovery : let r := record [(0, 1, 0x30)]
    Starts1 (hub1 { part1 with inRecovery := true }) 1 r 0x30 ∧ Body r [] ∧ ((taken (hub1 { part1 with inRecovery := true }) 1 r).part 1).inRecovery = true :=
  ⟨starts_of (by decide +kernel), by unfold Body; decide +kernel, by decide +kernel⟩
theorem witness_Reliability_scrub : let b := { bootB (node {}) with now := 2 ^ 50 }
    isReady b = true ∧ calDue b 400 (86400000000000 / Config.pagesPerEdie) = true ∧ b.hub.platEvt.en = false := ⟨by decide +kernel, by unfold Config.pagesPerEdie; split <;> decide +kernel, rfl⟩
theorem witness_Reliability_fatal : let b := { bootB (node {}) with now := 2 ^ 40, hub := { fatal := some (4, 0, 0) } }
    b.hub.fatal = some (4, 0, 0) ∧ 0 + 1000000 ≤ b.now ∧ Reaches (bootB (node {})) .firmware (cellBase 3 + 0x30028) (2 ^ 39) := ⟨rfl, by decide +kernel, reaches_of (by decide +kernel)⟩

/-! Witnesses: steps. -/
theorem witness_ModuleStep : ({ pending := [.powerInputRise, .cNop (fr 0 0 0)] } : State).pending = [.powerInputRise, .cNop (fr 0 0 0)] ∧ State.reset.pending = [] := ⟨rfl, rfl⟩
theorem witness_WordRoundTrip : Instr.wf (.sAdd (fr 3 1 2)) = true ∧ (Instr.word (.sAdd (fr 3 1 2))).isSome = true ∧ (decodeWord 3 2 0x1030104222000000).isSome = true := by decide
theorem witness_CanonicalMemory : let s : State := { blk := { mem := [(64, 7), (65, 1)], merr := [(8, 1)] }, pending := [.powerInputRise] }
    s.memWf = true ∧ mwf 0 s.blk.merr = true := by decide
theorem witness_CommandIdentities : let b : Block := { hub1 part1 with hub := { nextId := 5, cmds := [{ id := 4, part := 1, idx := 0, desc := 0, st := .commit }] }, parts := [(1, { part1 with commits := [4] })] }
    (b.hub.cmds.map (·.id)).Nodup ∧ (∀ c ∈ b.hub.cmds, c.id < b.hub.nextId) ∧ (b.part 1).commits = [4] ∧ (∀ c ∈ b.hub.cmds, c.id = 4 → c.st = .commit ∧ c.part = 1) := by decide
theorem test_power_input_rises : (match step { pending := [.powerInputRise] } with | .next t => t.blk.clk.power && t.pending.isEmpty | _ => false) = true := by decide +kernel
end Sys2Proof.Tests
end

/-! REFUTED. The watchdog of management requests (R452, R485): when it ends a request of the card, the place that this frees lets the
card's next request, which has waited in the receive buffer of the Kwasar link, enter in the same command. -/
section
namespace Sys2Proof.Management
open Sys2Proof.Machine Sys2Proof.Claims

/-! What ends a request leaves the fabric's state, the receive buffer of the Kwasar link among it, as it was. -/
theorem modPath_fab (b : Block) (p : Nat) (f : MPath → MPath) : (b.modPath p f).fab = b.fab := rfl
theorem eventPlat_fab (b : Block) (n ty : Nat) (st : Status) (sev loc det : Nat) : (eventPlat b n ty st sev loc det).fab = b.fab :=
  (eventPlat_posts b n ty st sev loc det).fab
theorem mgmtAnswer_fab (b : Block) (path func tag : Nat) (w : Bool) (st : Status) (data flags : Nat) :
    (mgmtAnswer b path func tag w st data flags).fab = b.fab := by
  unfold mgmtAnswer
  split
  · split <;> rfl
  · rfl
  · rfl

/-- MGMT_WATCHDOG ends the late request and then reads what has waited on the Kwasar link. -/
theorem exec_mgmtWatchdog (path : Fin 3) (s : State) :
    exec (.mgmtWatchdog path) s = .next { s with blk := settled (kwDrainAll (mgmtWatchdog path s.blk)) } := rfl
theorem answers_mgmtWatchdog {path : Fin 3} {s : State} {P : Block → Prop} (h : Answers (.mgmtWatchdog path) s P) :
    P (settled (kwDrainAll (mgmtWatchdog path s.blk))) := by
  obtain ⟨u, hu, -, hP⟩ := h
  rw [exec_mgmtWatchdog] at hu
  cases hu
  exact hP

/-! The state: the card holds all 64 requests that its entry point takes (R485), each waiting for the stopped clock of region 0's C-die;
the oldest was issued 10 ms ago, and a 65th request waits in the link's receive buffer. -/
/-- The request of tag `t`: a read of STORE_SCRUB of cell 3, issued `t` ns after power-on. -/
def stoppedRead (t : Nat) : MReq := { path := 1, func := 0, tag := t, addr := cellBase 3 + 0x30008, write := false, data := 0, at_ := t }
/-- The 65th request: MREQ read (type 2), tag 64, of BOOT_STATUS, which is clocked. -/
def waitingRead : Pkt := { h := 2 + 64 * 2 ^ 16 + 0xC7F90110 * 2 ^ 64 }
def fullPath : Block :=
  { now := 10000000
    parts := [(1, { st := .active, mgrEn := true, blocks := 1 })]
    clk := { power := true, up := true, ready := true, step := 17, doms := [(domKey 0 0, { on := true, stopped := true })] }
    hub := { kw := { st := 2 }, mreqs := (List.range 64).map stoppedRead }
    fab := { links := [(24, { st := 2, rx := [waitingRead], rxUsed := [(2, 1)] })] } }

/-- The state is at rest: the entry point is full, so the waiting read stays where it is, and no answer or escalation is due. -/
theorem fullPath_at_rest : pathFull fullPath 1 = true ∧ settled (kwDrainAll fullPath) = fullPath := by decide +kernel
/-- The 64 requests are such as wait: their partition's manager may make them, and their clock does not run. -/
theorem fullPath_requests_wait : ∀ q ∈ fullPath.hub.mreqs, mgmtAllowed fullPath (requester fullPath (.kwasar 0 (BitVec.ofNat 16 q.tag))) q.addr q.write = true ∧
    clockOff fullPath (regDomain q.addr).1 (regDomain q.addr).2 = true := by decide +kernel
theorem fullPath_late : fullPath.hub.mreqs.find? (fun r => r.path == (1 : Fin 3).val && !r.over_ && decide (r.at_ + 10000000 ≤ fullPath.now)) =
    some (stoppedRead 0) := by decide +kernel
/-- The command takes the 65th request out of the receive buffer. -/
theorem fullPath_watchdog_takes : ((settled (kwDrainAll (mgmtWatchdog 1 fullPath))).link 24).rx = [] := by decide +kernel

/-- Refutes O53: the clause of the watchdog gives the whole block after MGMT_WATCHDOG as the request's end alone, but the command also lets
in the requests of the card that waited for the place (R485). In `fullPath` the statement keeps the waiting read in the receive buffer,
where the model has taken it. -/
theorem not_management : ¬ Obligations.Management := by
  unfold Obligations.Management
  intro h
  obtain ⟨-, -, -, -, watchdog, -⟩ := h
  obtain ⟨-, late⟩ := watchdog 1 { blk := fullPath }
  obtain ⟨-, posts⟩ := late (stoppedRead 0) fullPath_late
  have claimed := answers_mgmtWatchdog (posts fun t ht => nomatch ht)
  have keeps : (settled (kwDrainAll (mgmtWatchdog 1 fullPath))).fab = fullPath.fab := by
    refine (congrArg Block.fab claimed).trans ?_
    simp only [eventPlat_fab, modPath_fab]
    rw [if_neg (by decide), mgmtAnswer_fab, Block.modHub_fab]
  have taken := fullPath_watchdog_takes
  rw [Block.link, keeps] at taken
  exact absurd taken (by decide)

end Sys2Proof.Management
end

/-! The issue of an instruction (R59, R75) by a thread that runs: ISSUED counts what the body has done, and where the body changes its
thread alone, nothing else of the cell moves. -/
section
namespace Sys2Proof.Issue
open Sys2Proof.Machine Sys2Proof.Claims

/-! The frame of one cell. -/
theorem onlyCell_modCell (b : Block) (k : Nat) (f : Cell → Cell) : OnlyCell b (b.modCell k f) k :=
  ⟨rfl, fun j hj => by rw [Block.modCell_cell, if_neg hj]⟩
theorem onlyCell_trans {a b c : Block} {k : Nat} (h : OnlyCell a b k) (g : OnlyCell b c k) : OnlyCell a c k := by
  obtain ⟨hrest, hcell⟩ := h
  obtain ⟨grest, gcell⟩ := g
  refine ⟨?_, fun j hj => (gcell j hj).trans (hcell j hj)⟩
  rw [← grest] at hrest
  exact hrest
@[simp] theorem here_modCell (b : Block) (w : Who) (f : Cell → Cell) : here (b.modCell w.cell f) w = f (here b w) := Block.modCell_cell_same _ _ _
theorem me_modCell (b : Block) (w : Who) (f : Cell → Cell) : me (b.modCell w.cell f) w = (f (here b w)).thread w.thr := by
  rw [← here_modCell b w f]; rfl
theorem onlyCell_countModCell (b : Block) (k : Nat) (f : Cell → Cell) : OnlyCell b ((b.modCell k f).countC k 0x400) k :=
  onlyCell_trans (onlyCell_modCell b k f) (onlyCell_modCell _ k _)
theorem here_countModCell (b : Block) (w : Who) (f : Cell → Cell) : here ((b.modCell w.cell f).countC w.cell 0x400) w = (f (here b w)).count 0x400 := by
  simp [Block.countC]
theorem thread_countModCell (b : Block) (w : Who) (f : Cell → Cell) (u : Nat) :
    ((b.modCell w.cell f).countC w.cell 0x400).thread w.cell u = (f (here b w)).thread u := by
  have hthr := congrArg Cell.thr (here_countModCell b w f)
  exact congrArg (mget {} · u) hthr
theorem cell_congr {b b' : Block} (h : b'.cells = b.cells) (k : Nat) : b'.cell k = b.cell k := by rw [Block.cell, h]; rfl
theorem mget_count (c : Cell) (o n j : Nat) : mget 0 (c.count o n).cnt j = if j = o then (mget 0 c.cnt o + n) % 2 ^ 64 else mget 0 c.cnt j :=
  mget_mset _ _ _ _ _

/-! Answers. -/
theorem answers_act {i : Instr} {s : State} {f : Block → Block} {P : Block → Prop} (h : exec i s = act f s) (hP : P (f s.blk)) : Answers i s P :=
  ⟨_, h, rfl, hP⟩
theorem answers_mono {i : Instr} {s : State} {P Q : Block → Prop} (h : Answers i s P) (hPQ : ∀ b, P b → Q b) : Answers i s Q := by
  obtain ⟨u, hu, hq, hP⟩ := h
  exact ⟨u, hu, hq, hPQ _ hP⟩

/-- A change of a running thread that counts as an issue: it does not fault, a wait that it enters does not issue again, and it differs. -/
structure Moves (t t' : Thread) : Prop where
  noFault : t'.st ≠ .fault
  noRetry : t'.st = .wait → t'.wait.retries = false
  differs : t' ≠ t

theorem runs_st {b : Block} {w : Who} (h : Runs b w) : (me b w).st = .run := by
  obtain ⟨-, run, -, -⟩ := h
  exact run
/-- A thread whose registers alone have changed moves by going on. -/
theorem moves_advance {t u : Thread} (hst : u.st = .run) (hpc : u.pc = t.pc) (hloop : u.loop = t.loop) : Moves t u.advance where
  noFault := by simp [hst]
  noRetry := by simp [hst]
  differs h := by
    obtain ⟨epc, eloop⟩ := Thread.advance_congr hpc hloop
    rw [h] at epc eloop
    exact Thread.advance_ne t (by rw [Thread.advance_eq, ← epc, ← eloop])
/-- A running thread moves by a wait that its instruction has issued into. -/
theorem moves_block {t : Thread} {w : Wait} {now : Nat} (hst : t.st = .run) (hw : w.retries = false) : Moves t (t.block w now) where
  noFault := by simp [Thread.block]
  noRetry _ := hw
  differs h := by
    have : (t.block w now).st = .run := by rw [h, hst]
    simp [Thread.block] at this

/-- A thread that runs issues: the body acts, and ISSUED counts. -/
theorem issue_eq {b b' : Block} {w : Who} {word : Nat} {body : Block → Block} (h : Runs b w) (hbody : body b = b')
    (hm : Moves (me b w) (me b' w)) : issue b w word body = b'.countC w.cell 0x400 := by
  subst hbody
  obtain ⟨live, run, fetched, inside⟩ := h
  obtain ⟨noFault, noRetry, differs⟩ := hm
  simp only [me, Block.thread] at run fetched inside noFault noRetry differs
  have retry : ((((body b).cell w.cell).thread w.thr).st == .wait && (((body b).cell w.cell).thread w.thr).wait.retries) = false := by
    simpa using noRetry
  simp [issue, live, run, fetched, Nat.not_le.mpr inside, retry, noFault, differs]

/-- The block once thread `t'` has taken the place of the thread that issues, and ISSUED has counted. -/
def issued (b : Block) (w : Who) (t' : Thread) : Block := (b.modThread w.cell w.thr fun _ => t').countC w.cell 0x400

theorem here_issued (b : Block) (w : Who) (t' : Thread) : here (issued b w t') w = ((here b w).setThread w.thr t').count 0x400 :=
  here_countModCell b w _
theorem thread_issued (b : Block) (w : Who) (t' : Thread) (u : Nat) :
    (issued b w t').thread w.cell u = if u = w.thr.val then t' else b.thread w.cell u :=
  (thread_countModCell b w _ u).trans (Cell.setThread_thread _ _ _ _)
@[simp] theorem me_issued (b : Block) (w : Who) (t' : Thread) : me (issued b w t') w = t' := by rw [me, thread_issued, if_pos rfl]
theorem onlyMe_issued (b : Block) (w : Who) (t' : Thread) : OnlyMe b (issued b w t') w := by
  refine ⟨onlyCell_countModCell b _ _, ?_, fun u hu => ?_, fun o => ?_⟩
  · rw [here_issued]; rfl
  · rw [thread_issued, if_neg hu]
  · rw [here_issued, mget_count]
    by_cases ho : o = 0x400
    · subst ho; rfl
    · have : (0x400 == o) = false := by simpa using Ne.symm ho
      rw [if_neg ho]; simp only [List.find?_cons, List.find?_nil, this]; rfl
theorem watchOf_issued (b : Block) (w : Who) (t' : Thread) (k u : Nat) : watchOf (issued b w t') k u = watchOf b k u := rfl

/-- An instruction that changes its own thread, after a change outside the cells. -/
theorem issue_thread {b b1 : Block} {w : Who} {word : Nat} {body : Block → Block} {g : Thread → Thread} {t' : Thread} (h : Runs b w)
    (hcells : b1.cells = b.cells) (hbody : body b = b1.modThread w.cell w.thr g) (hg : g (me b w) = t') (hm : Moves (me b w) t') :
    issue b w word body = issued b1 w t' := by
  have hthread : b1.thread w.cell w.thr = me b w := by rw [me, Block.thread, Block.thread, cell_congr hcells]
  have hset : b1.modThread w.cell w.thr g = b1.modThread w.cell w.thr fun _ => t' := by
    simp only [Block.modThread, Block.modCell, Cell.modThread]
    rw [show (b1.cell w.cell).thread w.thr = me b w from hthread, hg]
  refine issue_eq h (hbody.trans hset) ?_
  rwa [show me (b1.modThread w.cell w.thr fun _ => t') w = t' from Block.modThread_thread_same _ _ _ _]
/-- What such an instruction answers. -/
theorem answers_issued {i : Instr} {s : State} {b1 : Block} {w : Who} {t' : Thread} {f : Block → Block} (h : exec i s = act f s)
    (hf : f s.blk = issued b1 w t') : Answers i s fun b => OnlyMe b1 b w ∧ me b w = t' :=
  answers_act h (hf ▸ ⟨onlyMe_issued b1 w t', me_issued b1 w t'⟩)

/-! A thread that has written a scalar and goes on. -/
theorem setS_pc (t : Thread) (d : Nat) (v : Word) : (t.setS d v).pc = t.pc := by
  rw [← congrArg Thread.pc (Thread.setS_rest t d v)]
theorem setS_loop (t : Thread) (d : Nat) (v : Word) : (t.setS d v).loop = t.loop := by
  rw [← congrArg Thread.loop (Thread.setS_rest t d v)]
theorem setS_st (t : Thread) (d : Nat) (v : Word) : (t.setS d v).st = t.st := by
  rw [← congrArg Thread.st (Thread.setS_rest t d v)]
theorem next_setS_advance (t : Thread) (d : Nat) (v : Word) : Next t (t.setS d v).advance := Thread.advance_congr (setS_pc t d v) (setS_loop t d v)
theorem putS_setS_advance (t : Thread) (d : BitVec 5) (v : Word) : PutS t (t.setS d.toNat v).advance true d v := by
  refine ⟨?_, fun r => ?_⟩
  · rw [KeepsS, Thread.advance_eq]
    unfold Thread.setS
    split <;> rfl
  · rw [Thread.sr, Thread.advance_s, ← Thread.sr, Thread.setS_sr]
    simp
theorem moves_setS_advance {t : Thread} (h : t.st = .run) (d : Nat) (v : Word) : Moves t (t.setS d v).advance :=
  moves_advance ((setS_st t d v).trans h) (setS_pc t d v) (setS_loop t d v)

end Sys2Proof.Issue
end

/-! Draining the coalescer (R131, R132) leaves the threads, and in a cell whose words are sound corrects none. -/
section
namespace Sys2Proof.Drain
open Sys2Proof.Machine

/-- No word of the cell is in error, none is armed to be, and none has been corrected. -/
structure Sound (c : Cell) : Prop where
  serr : c.serr = []
  inject : c.inject = none
  met : c.met = []
/-- What a write to the store keeps: the threads, and the soundness of the words. -/
structure Written (c c' : Cell) : Prop where
  thr : c'.thr = c.thr
  sound : Sound c → Sound c'

theorem Written.refl (c : Cell) : Written c c := ⟨rfl, id⟩
theorem Written.trans {a b c : Cell} (h : Written a b) (g : Written b c) : Written a c := ⟨g.thr.trans h.thr, fun s => g.sound (h.sound s)⟩

theorem count_written (c : Cell) (o n : Nat) : Written c (c.count o n) := ⟨rfl, fun ⟨hs, hi, hm⟩ => ⟨hs, hi, hm⟩⟩
theorem mend_written (c : Cell) (f : Nat → Bool) : Written c (c.mend f) := by
  have logged (l : List (Nat × Nat)) : ∀ c : Cell, (l.foldl (fun c x => (c.count 0x30878).logErr x.1 x.2 0) c).thr = c.thr := by
    induction l with
    | nil => exact fun _ => rfl
    | cons x l ih => exact fun c => ih _
  refine ⟨?_, fun h => ?_⟩
  · unfold Cell.mend
    dsimp only
    split
    · rfl
    · exact logged _ c
  · have unchanged : c.mend f = c := by simp [Cell.mend, h.serr]
    rwa [unchanged]
/-- A write up to the armed injection. -/
theorem stored_written (c : Cell) (whole : Bool) (f : Nat → Bool) (off len v mask n : Nat) (g : Nat × BitVec 72 → Bool) :
    let x := if whole = true then c else c.mend f
    let y := { x with store := x.store.writeMask off len v mask, serr := x.serr.filter g }
    Written c (if n = 0 then y else y.count 0x30848 n) := by
  intro x y
  have mended : Written c x := by
    unfold x; split
    · exact .refl c
    · exact mend_written c f
  have stored : Written x y := ⟨rfl, fun ⟨hs, hi, hm⟩ => ⟨by simp [y, hs], hi, hm⟩⟩
  split
  · exact .trans mended stored
  · exact .trans (.trans mended stored) (count_written y _ _)
theorem write_written (c : Cell) (off len v mask : Nat) : Written c (c.write off len v mask) := by
  unfold Cell.write
  dsimp only
  split
  · exact stored_written c _ _ _ _ _ _ _ _
  · next armed =>
    split
    · exact stored_written c _ _ _ _ _ _ _ _
    · exact .trans (stored_written c _ _ _ _ _ _ _ _) ⟨rfl, fun h => nomatch armed.symm.trans h.inject⟩
theorem drain_written (c : Cell) (e : Coal) : Written c (c.drain e) :=
  .trans (b := { c with coal := c.coal.erase e }) ⟨rfl, fun ⟨hs, hi, hm⟩ => ⟨hs, hi, hm⟩⟩ (.trans (count_written _ _ _) (write_written _ _ _ _ _))
theorem drainAll_written : ∀ (l : List Coal) (c : Cell), Written c (l.foldl Cell.drain c)
  | [], c => .refl c
  | e :: l, c => .trans (drain_written c e) (drainAll_written l _)
theorem drainThread_written (c : Cell) (t : Nat) : Written c (c.drainThread t) := drainAll_written _ c

theorem thread_drainThread (c : Cell) (t u : Nat) : (c.drainThread t).thread u = c.thread u := by
  rw [Cell.thread, (drainThread_written c t).thr]; rfl

end Sys2Proof.Drain
end

/-! Nothing follows a command that has corrected no word (R25, R158). -/
section
namespace Sys2Proof.Quiescent
open Sys2Proof.Machine Sys2Proof.Claims

theorem mem_mput {α : Type} {m : Map α} {i : Nat} {v : α} {e : Nat × α} (h : e ∈ mput m i v) : e = (i, v) ∨ e ∈ m := by
  induction m with
  | nil => simpa [mput] using h
  | cons x m ih =>
    obtain ⟨k, w⟩ := x
    simp only [mput] at h
    split at h
    · simpa using h
    · split at h
      · exact (List.mem_cons.mp h).imp id (List.mem_cons_of_mem _)
      · rcases List.mem_cons.mp h with rfl | h
        · exact .inr List.mem_cons_self
        · exact (ih h).imp id (List.mem_cons_of_mem _)
theorem mem_mset {α : Type} [DecidableEq α] {d v : α} {m : Map α} {i : Nat} {e : Nat × α} (h : e ∈ mset d m i v) : e = (i, v) ∨ e ∈ m := by
  unfold mset at h
  split at h
  · exact .inr (List.mem_of_mem_filter h)
  · exact mem_mput h
/-- A property of the default and of every entry holds of what a key reads as. -/
theorem mget_of_forall {α : Type} {p : α → Prop} {d : α} (hd : p d) {m : Map α} (h : ∀ e ∈ m, p e.2) (i : Nat) : p (mget d m i) := by
  induction m with
  | nil => exact hd
  | cons x m ih =>
    simp only [mget]
    split
    · exact h x List.mem_cons_self
    · exact ih fun e he => h e (List.mem_cons_of_mem _ he)

theorem cell_met {b : Block} (h : Quiet b) (k : Nat) : (b.cell k).met = [] := by
  obtain ⟨-, -, met, -⟩ := h
  exact mget_of_forall (p := fun c : Cell => c.met = []) rfl met k
theorem quiet_modCell {b : Block} (h : Quiet b) (k : Nat) {f : Cell → Cell} (hf : (f (b.cell k)).met = []) : Quiet (b.modCell k f) := by
  obtain ⟨escal, answers, met, fresh⟩ := h
  refine ⟨escal, answers, fun e he => ?_, fresh⟩
  rcases mem_mset he with rfl | he
  · exact hf
  · exact met e he
theorem settle_quiet {b : Block} (h : Quiet b) : settle b = b := by
  obtain ⟨escal, -, met, fresh⟩ := h
  exact settle_nil escal met fresh

end Sys2Proof.Quiescent
end

/-! Token waits, the barrier, the fence and the tallies (R78 to R82). -/
section
namespace Sys2Proof.Synchronisation
open Sys2Proof.Machine Sys2Proof.Claims Sys2Proof.Issue Sys2Proof.Drain Sys2Proof.Quiescent

theorem bit_toNat {n : Nat} (x : BitVec n) (k : Nat) : bit x.toNat k = x.getLsbD k := by
  rw [BitVec.getLsbD, Nat.testBit_eq_decide_div_mod_eq, bit, Nat.shiftRight_eq_div_pow]; rfl

/-! Tokens. -/
/-- R80: a mask that names only idle tokens waits for nothing. -/
theorem tokensReady_of_idle {t : Thread} {mask : Nat} (any : Bool) (h : ∀ k, k < 16 → bit mask k = true → (t.token k).busy = false) :
    t.tokensReady mask any = true := by
  have idle : ∀ k ∈ (List.range 16).filter (bit mask), (!(t.token k).busy) = true := fun k hk => by
    obtain ⟨lt, named⟩ := List.mem_filter.mp hk
    simp [h k (List.mem_range.mp lt) named]
  unfold Thread.tokensReady
  dsimp only
  cases any with
  | false => exact List.all_eq_true.mpr idle
  | true =>
    cases named : (List.range 16).filter (bit mask) with
    | nil => rfl
    | cons k l => simp [idle k (named ▸ List.mem_cons_self)]
theorem yWtok_ready {f : FI} {b : Block} (h : Runs b f.w) (ready : (me b f.w).tokensReady (f.imm.toNat % 65536) (f.imm.getLsbD 16) = true) :
    yWtok f b = issued b f.w (me b f.w).advance :=
  issue_thread h rfl rfl (by dsimp only; rw [bit_toNat, if_pos ready]) (moves_advance (runs_st h) rfl rfl)
theorem yWtok_waits {f : FI} {b : Block} (h : Runs b f.w) (busy : (me b f.w).tokensReady (f.imm.toNat % 65536) (f.imm.getLsbD 16) = false) :
    yWtok f b = issued b f.w ((me b f.w).block (.tokens (f.imm.toNat % 65536) (f.imm.getLsbD 16)) b.now) :=
  issue_thread h rfl rfl (by dsimp only; rw [bit_toNat, if_neg (by rw [busy]; decide)]) (moves_block (runs_st h) rfl)
/-- What y.tokst reads of a token (R80). -/
def tokenWord (k : Token) : Word := w64 (k.status + 256 * k.flags + 65536 * b2n k.busy)
theorem tokenWord_eq (k : Token) : tokenWord k = BitVec.ofNat 64 (k.status + 256 * k.flags + if k.busy then 65536 else 0) := by
  unfold tokenWord w64 b2n
  split <;> rfl
theorem yTokst_issued {f : FI} {b : Block} (h : Runs b f.w) :
    yTokst f b = issued b f.w ((me b f.w).setS f.d.toNat (tokenWord ((me b f.w).token (f.imm.toNat % 16)))).advance := by
  unfold yTokst issueThread
  exact issue_thread h rfl rfl (by dsimp only; rfl) (moves_setS_advance (runs_st h) _ _)

/-! The barrier. -/
/-- The other threads of a barrier's mask. -/
def others (mask t : Nat) : List Nat := (List.range 8).filter fun k => bit mask k && k != t
theorem mem_others {mask t k : Nat} : k ∈ others mask t ↔ k < 8 ∧ bit mask k = true ∧ k ≠ t := by simp [others]
/-- The cell once the listed threads have left their waits. -/
def wakeAll (c : Cell) (l : List Nat) : Cell := l.foldl (fun c k => c.modThread k fun t => t.wake true) c
theorem wakeAll_store : ∀ (l : List Nat) (c : Cell), (wakeAll c l).store = c.store
  | [], _ => rfl
  | _ :: l, _ => wakeAll_store l _
theorem wakeAll_thread {l : List Nat} (h : l.Nodup) (c : Cell) (u : Nat) :
    (wakeAll c l).thread u = if u ∈ l then (c.thread u).wake true else c.thread u := by
  induction l generalizing c with
  | nil => simp [wakeAll]
  | cons k l ih =>
    obtain ⟨fresh, distinct⟩ := List.nodup_cons.mp h
    rw [show wakeAll c (k :: l) = wakeAll (c.modThread k fun t => t.wake true) l from rfl, ih distinct, Cell.modThread_thread]
    by_cases hu : u = k
    · subst hu; simp [fresh]
    · simp [hu]
/-- R79: the cell once the last thread has arrived at the barrier. -/
def released (c : Cell) (mask t : Nat) : Cell := (wakeAll c (others mask t)).modThread t Thread.advance
theorem released_thread (c : Cell) (mask t u : Nat) : (released c mask t).thread u =
    if u = t then (c.thread t).advance else if u < 8 ∧ bit mask u = true then (c.thread u).wake true else c.thread u := by
  have distinct : (others mask t).Nodup := List.nodup_range.filter _
  rw [released, Cell.modThread_thread]
  simp only [wakeAll_thread distinct, mem_others]
  by_cases hu : u = t
  · simp [hu]
  · simp [hu]
theorem released_store (c : Cell) (mask t : Nat) : (released c mask t).store = c.store := wakeAll_store _ _
/-- The barrier's condition: every other thread of the mask waits at it. -/
def arrived (c : Cell) (mask t : Nat) : Bool := (others mask t).all fun k => (c.thread k).st == .wait && (c.thread k).wait == .barrier mask
theorem arrived_iff {c : Cell} {mask t : Nat} : arrived c mask t = true ↔
    ∀ u, u < 8 → bit mask u = true → u ≠ t → (c.thread u).st = .wait ∧ (c.thread u).wait = .barrier mask := by
  simp [arrived, List.all_eq_true, mem_others]
theorem yBar_completes {f : FI} {b : Block} (h : Runs b f.w) (named : bit (f.imm.toNat % 256) f.w.thr = true)
    (all : arrived (here b f.w) (f.imm.toNat % 256) f.w.thr = true) :
    yBar f b = (b.modCell f.w.cell fun c => released c (f.imm.toNat % 256) f.w.thr).countC f.w.cell 0x400 := by
  refine issue_eq h ((if_neg (by rw [named]; decide)).trans (if_pos all)) ?_
  rw [me_modCell, released_thread, if_pos rfl]
  exact moves_advance (runs_st h) rfl rfl
theorem yBar_waits {f : FI} {b : Block} (h : Runs b f.w) (named : bit (f.imm.toNat % 256) f.w.thr = true)
    (missing : ¬ arrived (here b f.w) (f.imm.toNat % 256) f.w.thr = true) :
    yBar f b = issued b f.w ((me b f.w).block (.barrier (f.imm.toNat % 256)) b.now) :=
  issue_thread h rfl ((if_neg (by rw [named]; decide)).trans (if_neg missing)) rfl (moves_block (runs_st h) rfl)

/-! The fence. -/
theorem yFence_drains {f : FR} {b : Block} (h : Runs b f.w) :
    yFence f b = (b.modCell f.w.cell fun c => (c.drainThread f.w.thr).modThread f.w.thr Thread.advance).countC f.w.cell 0x400 := by
  refine issue_eq h rfl ?_
  rw [me_modCell, Cell.modThread_thread_same, thread_drainThread]
  exact moves_advance (runs_st h) rfl rfl
theorem yFence_stores {f : FR} {b : Block} (h : Runs b f.w) : Stores b (yFence f b) f.w fun c => c.drainThread f.w.thr := by
  rw [yFence_drains h]
  exact ⟨onlyCell_countModCell _ _ _, here_countModCell _ _ _⟩
/-- In a cell whose words are sound the fence corrects none, and nothing follows it. -/
theorem yFence_quiet {f : FR} {b : Block} (h : Runs b f.w) (hq : Quiet b) (hs : (here b f.w).serr = []) (hi : (here b f.w).inject = none) :
    settle (yFence f b) = yFence f b := by
  have drained := (drainThread_written (here b f.w) f.w.thr).sound ⟨hs, hi, cell_met hq _⟩
  rw [yFence_drains h]
  have after := quiet_modCell hq f.w.cell (f := fun c => (c.drainThread f.w.thr).modThread f.w.thr Thread.advance) drained.met
  exact settle_quiet (quiet_modCell after _ (cell_met after _))

/-! Tallies. -/
/-- A tally instruction whose handle lies below the quota, and whose body changes its own thread after a change outside the cells. -/
theorem yTally_issued {b b1 : Block} {w : Who} {word : Nat} {a : BitVec 5} {body : Block → Nat → Nat → Block} {g : Thread → Thread} {t' : Thread}
    (h : Runs b w) (hquota : ((me b w).sr a.toNat).toNat < (b.part (here b w).part).tallyQuota) (hcells : b1.cells = b.cells)
    (hbody : body b (here b w).part ((me b w).sr a.toNat).toNat = b1.modThread w.cell w.thr g) (hg : g (me b w) = t') (hm : Moves (me b w) t') :
    yTally b w word a body = issued b1 w t' :=
  issue_thread h hcells ((if_pos (decide_eq_true hquota)).trans hbody) hg hm

section
variable {f : FR} {b : Block} (h : Runs b f.w) (hquota : ((me b f.w).sr f.a.toNat).toNat < (b.part (here b f.w).part).tallyQuota)
include h hquota

theorem yTinc_issued : yTinc f b = issued (tallyQueue b
    { part := (here b f.w).part, handle := ((me b f.w).sr f.a.toNat).toNat, set := false, amount := ((me b f.w).sr f.b.toNat).toNat % 2 ^ 32,
      loc := cellLoc f.w.cell 0 }) f.w (me b f.w).advance :=
  yTally_issued h hquota rfl rfl rfl (moves_advance (runs_st h) rfl rfl)
theorem yTread_issued : yTread f b = issued b f.w ((me b f.w).setS f.d.toNat
    (w64 (b.tally (here b f.w).part ((me b f.w).sr f.a.toNat).toNat).val)).advance :=
  yTally_issued h hquota rfl rfl rfl (moves_setS_advance (runs_st h) _ _)
theorem yTwait_holds (hv : holds (b.tally (here b f.w).part ((me b f.w).sr f.a.toNat).toNat).val (((me b f.w).sr f.b.toNat).toNat % 2 ^ 32) = true) :
    yTwait f b = issued b f.w (me b f.w).advance :=
  yTally_issued h hquota rfl (if_pos hv) rfl (moves_advance (runs_st h) rfl rfl)
theorem yTwait_waits (hv : ¬ holds (b.tally (here b f.w).part ((me b f.w).sr f.a.toNat).toNat).val (((me b f.w).sr f.b.toNat).toNat % 2 ^ 32) = true) :
    yTwait f b = issued (watchSet b
        { cell := f.w.cell, unit := f.w.thr, part := (here b f.w).part, handle := ((me b f.w).sr f.a.toNat).toNat,
          value := ((me b f.w).sr f.b.toNat).toNat % 2 ^ 32, id := 0, released := false }) f.w
      ((me b f.w).block (.tally ((me b f.w).sr f.a.toNat).toNat (((me b f.w).sr f.b.toNat).toNat % 2 ^ 32) false) b.now) :=
  yTally_issued h hquota rfl (if_neg hv) rfl (moves_block (runs_st h) rfl)
end

/-- R336: the serial comparison with a value of 32 bits. -/
theorem holds_iff (t v : Nat) : holds t (v % 2 ^ 32) = true ↔ (t + 2 ^ 32 - v % 2 ^ 32) % 2 ^ 32 < 2 ^ 31 := by
  simp [holds]
/-- R339: a wait stands in its unit's slot, released if its condition held at registration. -/
theorem watchOf_watchSet (b : Block) (w : Watch) : watchOf (watchSet b w) w.cell w.unit =
    some { w with released := holds (b.tally w.part w.handle).val w.value, told := holds (b.tally w.part w.handle).val w.value } := by
  have emptied : (b.hub.watches.filter fun x => !(x.cell == w.cell && x.unit == w.unit)).find? (fun x => x.cell == w.cell && x.unit == w.unit) = none := by
    rw [List.find?_eq_none]
    intro x hx
    obtain ⟨-, elsewhere⟩ := List.mem_filter.mp hx
    simpa only [Bool.not_eq_true, Bool.not_eq_true'] using elsewhere
  rw [watchOf, watchSet, Block.modHub]
  simp only [List.find?_append, emptied, Option.none_or, List.find?_singleton, beq_self_eq_true, Bool.and_self, ↓reduceIte]

/-- Settles O11: a running thread issues, so each instruction changes its thread alone, after a change outside the cells; the barrier also wakes
the threads that wait at it, and the fence drains the thread's stores, after which nothing follows where the words are sound. -/
theorem synchronisation : Obligations.Synchronisation := by
  unfold Obligations.Synchronisation
  refine ⟨fun f s h => ?tokens, fun f s h => ?tallies⟩
  case tokens =>
    refine ⟨fun ready => ?ready, fun idle => ?idle, fun busy => ?busy, ?tokst, fun named all => ?completes, fun named missing => ?waits⟩
    case ready => exact answers_issued rfl (yWtok_ready h ready)
    case idle => exact answers_issued rfl (yWtok_ready h (tokensReady_of_idle _ idle))
    case busy => exact answers_issued rfl (yWtok_waits h busy)
    case tokst =>
      refine answers_mono (answers_issued rfl (yTokst_issued h)) ?_
      rintro b ⟨frame, thread⟩
      rw [thread, ← tokenWord_eq]
      exact ⟨frame, next_setS_advance _ _ _, putS_setS_advance _ _ _⟩
    case completes =>
      refine answers_act rfl ?_
      rw [yBar_completes h named (arrived_iff.mpr all)]
      refine ⟨onlyCell_countModCell _ _ _, ?_, ?_, fun u hu => ?_⟩
      · rw [me, thread_countModCell, released_thread, if_pos rfl]; rfl
      · rw [here_countModCell]; exact released_store _ _ _
      · rw [thread_countModCell, released_thread, if_neg hu]; rfl
    case waits =>
      refine answers_issued rfl (yBar_waits h named fun all => ?_)
      obtain ⟨u, hu, inMask, other, notThere⟩ := missing
      exact notThere (arrived_iff.mp all u hu inMask other)
  case tallies =>
    refine ⟨?fence, fun hquota => ⟨?inc, ?read, fun hv => ?holds, fun hv => ?waits⟩⟩
    case fence => exact answers_act (f := fun b => settle (yFence f b)) rfl ⟨yFence f s.blk, rfl, yFence_stores h, yFence_quiet h⟩
    case inc => exact answers_issued rfl (yTinc_issued h hquota)
    case read =>
      refine answers_mono (answers_issued rfl (yTread_issued h hquota)) ?_
      rintro b ⟨frame, thread⟩
      rw [thread]
      exact ⟨frame, next_setS_advance _ _ _, putS_setS_advance _ _ _⟩
    case holds => exact answers_issued rfl (yTwait_holds h hquota ((holds_iff _ _).mpr hv))
    case waits =>
      refine answers_act rfl ?_
      have unheld := fun hh => hv ((holds_iff _ _).mp hh)
      rw [yTwait_waits h hquota unheld]
      exact ⟨me_issued _ _ _, _, (watchOf_issued _ _ _ _ _).trans (watchOf_watchSet _ _), rfl, rfl, rfl, Bool.eq_false_iff.mpr unheld⟩

end Sys2Proof.Synchronisation
end

/-! What the ending of a partition's work leaves alone (R404, R405): a relation that every step of it is in. -/
section
namespace Sys2Proof.Aborts
open Sys2Proof.Machine Sys2Proof.Claims

/-- What a partition is in, but for its quotas, rings, tables and recovery. -/
def life (p : Part) : PState × Nat × Option Batch × Option Batch × Option Image := (p.st, p.killCause, p.running, p.ahead, p.image)
/-- What a cell holds of a program, but for its streams. -/
def work (c : Cell) : Map Thread × Option Run × List ArrEntry × List Bank × List Coal := (c.thr, c.run, c.arrq, c.bankq, c.coal)
/-- A command whose work has ended (R395). -/
def Over (c : Cmd) : Prop := c.st = .commit ∨ c.st = .posting
/-- The command of an identity has ended with a status. -/
def EndedWith (b : Block) (i : Nat) (st : Status) : Prop := ∃ d, cmdOf b i = some d ∧ d.status = st ∧ Over d

/-- What the units keep while work ends: the clocks, the lives of the partitions, what the cells hold of their programs; no collective,
remittance or wait of a partition is new. -/
structure Keeps (b b' : Block) : Prop where
  clk : b'.clk = b.clk
  kept : b'.kept = b.kept
  life : ∀ n, life (b'.part n) = life (b.part n)
  work : ∀ k, work (b'.cell k) = work (b.cell k)
  colls : ∀ c ∈ b'.fab.colls, ∃ d ∈ b.fab.colls, d.id = c.id ∧ d.part = c.part
  remits : ∀ r ∈ b'.rem.remits, r ∈ b.rem.remits
  watches : ∀ w ∈ b'.hub.watches, ∃ v ∈ b.hub.watches, v.part = w.part
/-- They also keep what has ended as it ended. -/
structure Ends (b b' : Block) : Prop extends Keeps b b' where
  ended : ∀ i st, EndedWith b i st → EndedWith b' i st

theorem Keeps.refl (b : Block) : Keeps b b :=
  ⟨rfl, rfl, fun _ => rfl, fun _ => rfl, fun c h => ⟨c, h, rfl, rfl⟩, fun _ h => h, fun w h => ⟨w, h, rfl⟩⟩
theorem Keeps.trans {a b c : Block} (h : Keeps a b) (g : Keeps b c) : Keeps a c where
  clk := g.clk.trans h.clk
  kept := g.kept.trans h.kept
  life n := (g.life n).trans (h.life n)
  work k := (g.work k).trans (h.work k)
  colls x hx := by
    obtain ⟨y, hy, hid, hpart⟩ := g.colls x hx
    obtain ⟨z, hz, hid', hpart'⟩ := h.colls y hy
    exact ⟨z, hz, hid'.trans hid, hpart'.trans hpart⟩
  remits x hx := h.remits x (g.remits x hx)
  watches x hx := by
    obtain ⟨y, hy, hpart⟩ := g.watches x hx
    obtain ⟨z, hz, hpart'⟩ := h.watches y hy
    exact ⟨z, hz, hpart'.trans hpart⟩
theorem Ends.refl (b : Block) : Ends b b := ⟨.refl b, fun _ _ h => h⟩
theorem Ends.trans {a b c : Block} (h : Ends a b) (g : Ends b c) : Ends a c :=
  ⟨h.toKeeps.trans g.toKeeps, fun i st x => g.ended i st (h.ended i st x)⟩
theorem ends_ite {b x y : Block} {p : Prop} [Decidable p] (hx : Ends b x) (hy : Ends b y) : Ends b (if p then x else y) := by
  split
  · exact hx
  · exact hy
theorem ends_each {α : Type} {F : Block → α → Block} (h : ∀ b x, Ends b (F b x)) : ∀ (l : List α) (b : Block), Ends b (b.each l F)
  | [], b => .refl b
  | x :: l, b => .trans (h b x) (ends_each h l _)

/-! Updates of one unit. -/
/-- What the relation speaks of. -/
def scope (b : Block) := (b.clk, b.kept, b.parts, b.cells, b.fab.colls, b.rem.remits, b.hub.watches, b.hub.cmds)
theorem ends_of_scope {b b' : Block} (h : scope b' = scope b) : Ends b b' := by
  simp only [scope, Prod.mk.injEq] at h
  obtain ⟨clk, kept, parts, cells, colls, remits, watches, cmds⟩ := h
  refine ⟨⟨clk, kept, fun n => ?_, fun k => ?_, fun c hc => ⟨c, colls ▸ hc, rfl, rfl⟩, fun r hr => remits ▸ hr, fun w hw => ⟨w, watches ▸ hw, rfl⟩⟩, ?_⟩
  · rw [Block.part, parts]; rfl
  · rw [Block.cell, cells]; rfl
  · unfold EndedWith cmdOf
    rw [cmds]
    exact fun _ _ h => h
theorem modPart_ends {b : Block} {n : Nat} {f : Part → Part} (h : life (f (b.part n)) = life (b.part n)) : Ends b (b.modPart n f) := by
  refine ⟨{ Keeps.refl b with life := fun m => ?_ }, fun _ _ h => h⟩
  rw [Block.modPart_part]
  split
  · next e => subst e; exact h
  · rfl
theorem setCell_ends {b : Block} {n : Nat} {c : Cell} (h : work c = work (b.cell n)) : Ends b (b.setCell n c) := by
  refine ⟨{ Keeps.refl b with work := fun k => ?_ }, fun _ _ h => h⟩
  rw [Block.setCell_cell]
  split
  · next e => subst e; exact h
  · rfl
theorem modCell_ends {b : Block} {n : Nat} {f : Cell → Cell} (h : work (f (b.cell n)) = work (b.cell n)) : Ends b (b.modCell n f) := setCell_ends h
theorem ends_of_posts {b b' : Block} (h : Posts b b') : Ends b b' := by
  have watches : b'.hub.watches = b.hub.watches := by have := h.hub; rw [← this]
  refine ⟨⟨h.clk, h.kept, fun n => ?_, fun k => ?_, fun c hc => ⟨c, h.fab ▸ hc, rfl, rfl⟩, fun r hr => h.rem ▸ hr, fun w hw => ⟨w, watches ▸ hw, rfl⟩⟩, ?_⟩
  · rw [← h.part n]; rfl
  · rw [h.cell]
  · unfold EndedWith cmdOf
    rw [h.cmds]
    exact fun _ _ h => h
theorem keeps_of_rings {b b' : Block} (h : Rings b b') : Keeps b b' := by
  have watches : b'.hub.watches = b.hub.watches := by have := h.hub; rw [← this]
  have kept : b'.kept = b.kept := by have := h.block; rw [← this]
  refine ⟨h.clk, kept, fun n => ?_, fun k => ?_, fun c hc => ⟨c, h.fab ▸ hc, rfl, rfl⟩, fun r hr => h.rem ▸ hr, fun w hw => ⟨w, watches ▸ hw, rfl⟩⟩
  · rw [← h.part n]; rfl
  · rw [Block.cell, h.cells]; rfl
theorem count_ends (b : Block) (a k : Nat) : Ends b (b.count a k) := ends_of_scope rfl
theorem event_ends (b : Block) (n ty : Nat) (st : Status) (sev loc det : Nat) : Ends b (event b n ty st sev loc det) := ends_of_posts (event_posts b n ty st sev loc det)

/-! Commands. -/
theorem modCmd_ends {b : Block} {id : Nat} {f : Cmd → Cmd}
    (hf : ∀ c, ((f c).id, (f c).part, (f c).idx, (f c).desc, (f c).status) = (c.id, c.part, c.idx, c.desc, c.status)) (hst : ∀ c, Over c → Over (f c)) :
    Ends b (modCmd b id f) := by
  simp only [Prod.mk.injEq] at hf
  refine ⟨keeps_of_rings (modCmd_rings b id f fun c => ?_), fun i st ⟨d, hd, status, ended⟩ => ?_⟩
  · obtain ⟨h1, h2, h3, h4, -⟩ := hf c
    rw [h1, h2, h3, h4]
  · unfold EndedWith
    rw [cmdOf_modCmd b id f (fun c => (hf c).1), hd]
    refine ⟨_, rfl, ?_⟩
    split
    · exact ⟨(hf d).2.2.2.2.trans status, hst d ended⟩
    · exact ⟨status, ended⟩
theorem dmaPush_cmds (b : Block) (w : DmaWait) : (dmaPush b w).hub.cmds = b.hub.cmds := (dmaPush_posts b w).cmds
theorem cmdOf_congr {b b' : Block} (h : b'.hub.cmds = b.hub.cmds) (i : Nat) : cmdOf b' i = cmdOf b i := by rw [cmdOf, h]; rfl
theorem cmdOf_id {b : Block} {i : Nat} {c : Cmd} (h : cmdOf b i = some c) : c.id = i := by simpa using List.find?_some h
/-- A command whose record is on its way to a place of the completion ring. -/
def posting (slot : Nat) (c : Cmd) : Cmd := { c with st := .posting, slot := slot }
theorem cmdOf_compWrite (b : Block) (n : Nat) (c : Cmd) (slot i : Nat) :
    cmdOf (compWrite b n c slot) i = (cmdOf b i).map fun d => if i = c.id then posting slot d else d :=
  (cmdOf_congr (dmaPush_cmds _ _) i).trans (cmdOf_modCmd b c.id (posting slot) (fun _ => rfl) i)
theorem compWrite_commits (b : Block) (n : Nat) (c : Cmd) (slot m : Nat) : ((compWrite b n c slot).part m).commits = (b.part m).commits :=
  (dmaPush_posts _ _).part_commits m
/-- Of the commands of a block, `i` is as it was in another, or stood in the commit order `l` there and its record is on its way. -/
def PostedFrom (b b' : Block) (l : List Nat) (i : Nat) : Prop :=
  cmdOf b' i = cmdOf b i ∨ i ∈ l ∧ ∃ slot, cmdOf b' i = (cmdOf b i).map (posting slot)
theorem postCommits_posted (n : Nat) : ∀ (k : Nat) (b : Block) (i : Nat), PostedFrom b (postCommits n k b) (b.part n).commits i
  | 0, b, i => .inl rfl
  | k + 1, b, i => by
    unfold postCommits
    dsimp only
    split
    · exact .inl rfl
    · next id rest hc =>
      split
      · rcases postCommits_posted n k (b.modPart n fun p => { p with commits := rest }) i with h | ⟨hi, slot, h⟩
        · exact .inl h
        · rw [Block.modPart_part_same] at hi
          exact .inr ⟨hc ▸ List.mem_cons_of_mem _ hi, slot, h⟩
      · next c hcmd =>
        split
        · exact .inl rfl
        · have hid := cmdOf_id hcmd
          generalize hx : compWrite _ n c _ = x
          have hcommits : (x.part n).commits = rest := by rw [← hx, compWrite_commits, Block.modPart_part_same]
          have hcmds : cmdOf x i = (cmdOf b i).map fun d => if i = c.id then posting (b.part n).comp.issued d else d := by rw [← hx, cmdOf_compWrite]; rfl
          rw [hc]
          rcases postCommits_posted n k x i with h | ⟨hi, slot, h⟩
          · by_cases e : i = c.id
            · simp only [e, if_true] at hcmds h
              exact .inr ⟨by rw [e, hid]; exact List.mem_cons_self, _, by rw [e, h, hcmds]⟩
            · simp only [e, if_false, Option.map_id'] at hcmds
              exact .inl (h.trans hcmds)
          · refine .inr ⟨List.mem_cons_of_mem _ (hcommits ▸ hi), slot, ?_⟩
            rw [h, hcmds, Option.map_map]
            congr 1
            funext d
            simp only [Function.comp]
            split <;> rfl
theorem postAll_posted (b : Block) (n i : Nat) : PostedFrom b (postAll b n) (b.part n).commits i := postCommits_posted n _ b i
theorem mem_postCommits (n : Nat) : ∀ (k : Nat) (b : Block) (i : Nat), i ∈ ((postCommits n k b).part n).commits → i ∈ (b.part n).commits
  | 0, _, _ => id
  | k + 1, b, i => by
    unfold postCommits
    dsimp only
    split
    · exact id
    · next id' rest hc =>
      rw [hc]
      split
      · intro h
        have := mem_postCommits n k _ i h
        rw [Block.modPart_part_same] at this
        exact List.mem_cons_of_mem _ this
      · split
        · rw [hc]; exact id
        · intro h
          have := mem_postCommits n k _ i h
          rw [compWrite_commits, Block.modPart_part_same] at this
          exact List.mem_cons_of_mem _ this
theorem PostedFrom.endedWith {b b' : Block} {l : List Nat} {i : Nat} (h : PostedFrom b b' l i) {st : Status} (he : EndedWith b i st) : EndedWith b' i st := by
  obtain ⟨d, hd, status, ended⟩ := he
  rcases h with h | ⟨-, slot, h⟩
  · exact ⟨d, h.trans hd, status, ended⟩
  · exact ⟨posting slot d, by rw [h, hd]; rfl, status, .inr rfl⟩
/-- A command whose work ends. -/
def finished (st : Status) (res : Nat) (fl : Flags) (c : Cmd) : Cmd := { c with st := .commit, status := st, result := res, flags := c.flags.or fl }
theorem finish_ended {b : Block} {id : Nat} {c : Cmd} (hc : cmdOf b id = some c) (h : Over c) (st : Status) (res : Nat) (fl : Flags) :
    finish b id st res fl = b := by
  unfold finish
  rw [hc]
  exact if_pos h
/-- The block once a command's work has ended, before commit records are written. -/
def joined (b : Block) (id n : Nat) (st : Status) (res : Nat) (fl : Flags) : Block :=
  (modCmd b id (finished st res fl)).modPart n fun p => { p with commits := p.commits ++ [id] }
theorem finish_running {b : Block} {id : Nat} {c : Cmd} (hc : cmdOf b id = some c) (h : ¬ Over c) (st : Status) (res : Nat) (fl : Flags) :
    finish b id st res fl = postAll (joined b id c.part st res fl) c.part := by
  unfold finish
  rw [hc]
  exact if_neg h
theorem cmdOf_joined (b : Block) (id n : Nat) (st : Status) (res : Nat) (fl : Flags) (i : Nat) :
    cmdOf (joined b id n st res fl) i = (cmdOf b i).map fun d => if i = id then finished st res fl d else d :=
  cmdOf_modCmd b id (finished st res fl) (fun _ => rfl) i
theorem joined_commits (b : Block) (id n : Nat) (st : Status) (res : Nat) (fl : Flags) :
    ((joined b id n st res fl).part n).commits = (b.part n).commits ++ [id] := by
  rw [joined, Block.modPart_part_same]; rfl
/-- The command that ends has the status that it ends with. -/
theorem finish_endedWith {b : Block} {id : Nat} {c : Cmd} (hc : cmdOf b id = some c) (h : ¬ Over c) (st : Status) (res : Nat) (fl : Flags) :
    EndedWith (finish b id st res fl) id st := by
  rw [finish_running hc h]
  refine (postAll_posted _ _ id).endedWith ⟨finished st res fl c, ?_, rfl, .inl rfl⟩
  rw [cmdOf_joined, hc]
  simp
theorem finish_ends (b : Block) (id : Nat) (st : Status) (res : Nat) (fl : Flags) : Ends b (finish b id st res fl) := by
  refine ⟨keeps_of_rings (finish_rings b id st res fl), fun i s he => ?_⟩
  cases hc : cmdOf b id with
  | none => simpa [finish, hc] using he
  | some c =>
    by_cases h : Over c
    · rwa [finish_ended hc h]
    · rw [finish_running hc h]
      refine (postAll_posted _ _ i).endedWith ?_
      obtain ⟨d, hd, status, ended⟩ := he
      have other : i ≠ id := fun e => h (by rw [e, hc] at hd; cases hd; exact ended)
      exact ⟨d, by rw [cmdOf_joined, hd]; simp [other], status, ended⟩

end Sys2Proof.Aborts
end

/-! Writes to a store by engines and windows keep what the cell holds of its program (R129, R139 to R146). -/
section
namespace Sys2Proof.Aborts
open Sys2Proof.Machine Sys2Proof.Claims

theorem mend_work (c : Cell) (f : Nat → Bool) : work (c.mend f) = work c := by
  have logged (l : List (Nat × Nat)) : ∀ c : Cell, work (l.foldl (fun c x => (c.count 0x30878).logErr x.1 x.2 0) c) = work c := by
    induction l with
    | nil => exact fun _ => rfl
    | cons x l ih => exact fun c => (ih _).trans (by simp only [work, Cell.logErr, Cell.count])
  unfold Cell.mend
  dsimp only
  split
  · rfl
  · exact logged _ c
theorem write_work (c : Cell) (off len v mask : Nat) : work (c.write off len v mask) = work c := by
  have mended (p : Bool) (f : Nat → Bool) : work (if p = true then c else c.mend f) = work c := by
    split
    · rfl
    · exact mend_work c f
  have counted (n : Nat) (c : Cell) : work (if n = 0 then c else c.count 0x30848 n) = work c := by split <;> rfl
  unfold Cell.write
  dsimp only
  split
  · exact (counted _ _).trans (mended _ _)
  · split
    · exact (counted _ _).trans (mended _ _)
    · exact (counted _ _).trans (mended _ _)
@[simp] theorem count_work (c : Cell) (o n : Nat) : work (c.count o n) = work c := rfl
@[simp] theorem setRange_work (c : Cell) (r : Range) : work (c.setRange r) = work c := rfl
@[simp] theorem put_work (c : Cell) (off len v : Nat) : work (c.put off len v) = work c := write_work c off len v _
theorem accElem_work (c : Cell) (r : Range) (k x : Nat) : work (c.accElem r k x).1 = work c := by
  unfold Cell.accElem
  split
  · exact (count_work _ _ _).trans (put_work c _ _ _)
  · extract_lets a cv s sat c1
    have stored : work c1 = work c := (count_work _ _ _).trans (put_work c _ _ _)
    refine Eq.trans ?_ stored
    dsimp only
    split
    · exact count_work c1 _ _
    · rfl
/-- Elements accumulated one after another, those that `bad` names left out. -/
theorem accElems_work {bad : Nat → Bool} {x : Nat → Nat} {k : Nat} : ∀ (l : List Nat) (a : Cell × Range × Flags),
    work (l.foldl (fun (a : Cell × Range × Flags) i => if bad i then a else
      ((a.1.accElem a.2.1 (k + i) (x i)).1, (a.1.accElem a.2.1 (k + i) (x i)).2.1, a.2.2.or (a.1.accElem a.2.1 (k + i) (x i)).2.2)) a).1 = work a.1
  | [], _ => rfl
  | i :: l, a => by
    rw [List.foldl_cons, accElems_work l]
    split
    · rfl
    · exact accElem_work _ _ _ _
theorem engineLine_work (c : Cell) (off len v cmd : Nat) : work (c.engineLine off len v cmd).1 = work c := by
  unfold Cell.engineLine
  extract_lets c1 c2
  have mended : work c1 = work c := mend_work c _
  refine Eq.trans ?_ mended
  clear_value c1
  split
  · exact put_work c1 _ _ _
  · have stored : work c2 = work c1 := put_work c1 _ _ _
    split
    · extract_lets sz k0 cnt
      split
      · rfl
      · exact accElems_work _ _
    · refine Eq.trans ?_ stored
      clear_value c2
      split
      · rfl
      · extract_lets sz row a bad
        split
        · rfl
        · exact (setRange_work _ _).trans ((count_work _ _ _).trans (put_work c2 _ _ _))
theorem engineWrite_work (c : Cell) (off len v cmd : Nat) : work (c.engineWrite off len v cmd).1 = work c := by
  have lines : ∀ (l : List (Nat × Nat)) (a : Cell × Flags × Option Status), work (l.foldl (fun (a : Cell × Flags × Option Status) p =>
      let (c, f, st) := a.1.engineLine p.1 p.2 (bits v (8 * (p.1 - off)) (8 * p.2)) cmd
      (c, a.2.1.or f, match a.2.2 with | some s => some s | none => st)) a).1 = work a.1 := by
    intro l
    induction l with
    | nil => exact fun _ => rfl
    | cons p l ih => exact fun a => (ih _).trans (engineLine_work _ _ _ _ _)
  exact lines _ _

end Sys2Proof.Aborts
end

/-! The operations that end a partition's collectives, remittances, window writes and attestation (R349, R376, R328, R500). -/
section
namespace Sys2Proof.Aborts
open Sys2Proof.Machine Sys2Proof.Claims

/-! Updates of one unit. -/
theorem modHub_ends {b : Block} {f : Hub → Hub} (hc : (f b.hub).cmds = b.hub.cmds) (hw : (f b.hub).watches = b.hub.watches) : Ends b (b.modHub f) :=
  ends_of_scope (by simp only [scope, Block.modHub, hc, hw])
theorem modFab_ends {b : Block} {f : Fab → Fab} (h : (f b.fab).colls = b.fab.colls) : Ends b (b.modFab f) :=
  ends_of_scope (by simp only [scope, Block.modFab, h])
theorem modRem_ends {b : Block} {f : Rem → Rem} (h : (f b.rem).remits = b.rem.remits) : Ends b (b.modRem f) :=
  ends_of_scope (by simp only [scope, Block.modRem, h])
theorem modSec_ends (b : Block) (f : Sec → Sec) : Ends b (b.modSec f) := ends_of_scope rfl
theorem modConn_ends (b : Block) (d : Nat) (f : Conn → Conn) : Ends b (b.modConn d f) := modFab_ends rfl
theorem modEd_ends (b : Block) (e : Nat) (f : EDie → EDie) : Ends b (b.modEd e f) := modRem_ends rfl
theorem modWin_ends (b : Block) (n i : Nat) (f : Win → Win) : Ends b (b.modWin n i f) := modHub_ends rfl rfl
theorem modTally_ends (b : Block) (n h : Nat) (f : Tally → Tally) : Ends b (b.modTally n h f) := modHub_ends rfl rfl
theorem newId_ends (b : Block) : Ends b b.newId.2 := ends_of_scope rfl
theorem draw_ends (b : Block) : Ends b b.draw.2 := ends_of_scope rfl
theorem setEntry_ends (b : Block) (n : Nat) (e : LEntry) : Ends b (b.setEntry n e) := ends_of_scope rfl

/-! Stores and tallies. -/
theorem escrowPut_ends : ∀ (l : List (Nat × Nat × Nat)) (pos len v : Nat) (b : Block), Ends b (escrowPut l pos len v b)
  | [], _, _, _, b => .refl b
  | (k, base, size) :: l, pos, len, v, b => by
    unfold escrowPut
    refine ends_ite (.refl b) (ends_ite (escrowPut_ends l _ _ _ _) ?_)
    exact .trans (modCell_ends (put_work _ _ _ _)) (escrowPut_ends l _ _ _ _)
theorem escrowLost_ends (b : Block) (c : Coll) : Ends b (escrowLost b c) := by
  unfold escrowLost
  split
  · exact .refl b
  · exact .trans (draw_ends b) (escrowPut_ends _ _ _ _ _)
theorem setKeys_ends (b : Block) (l : List Nat) (v : Nat) : Ends b (setKeys b l v) := ends_each (fun _ _ => modCell_ends (by rfl)) l b
theorem cellEvent_ends (b : Block) (n ty : Nat) (st : Status) (sev loc det : Nat) : Ends b (cellEvent b n ty st sev loc det) := by
  unfold cellEvent
  exact ends_ite (event_ends _ _ _ _ _ _ _) (ends_ite (ends_of_posts (eventPlat_posts _ _ _ _ _ _ _)) (.refl b))
theorem storeUncorr_ends (b : Block) (n off syn kind : Nat) : Ends b (storeUncorr b n off syn kind) := by
  unfold storeUncorr
  extract_lets win lim b1 b2
  have logged (c : Cell) (l : List Nat) : work { (c.count 0x30880).logErr off syn kind with uncorr := l } = work c := by
    simp only [work, Cell.logErr, Cell.count]
  have h1 : Ends b b1 := modCell_ends (logged _ _)
  have h2 : Ends b1 b2 := count_ends b1 _ _
  exact h1.trans (h2.trans (ends_ite (modHub_ends rfl rfl) (.refl b2)))
theorem uncorrRead_ends (b : Block) (n off syn kind cls : Nat) : Ends b (uncorrRead b n off syn kind cls) :=
  .trans (storeUncorr_ends b n off syn kind) (cellEvent_ends _ _ _ _ _ _ _)
theorem accCheck_ends (b : Block) (n off len cls : Nat) : Ends b (accCheck b n off len cls).2 := ends_each (fun _ _ => uncorrRead_ends _ _ _ _ _ _) _ b
theorem pvaWrite_ends (n : Nat) (acc : Access) : ∀ (fuel : Nat) (b : Block) (pva len v : Nat), Ends b (pvaWrite b n acc pva fuel len v)
  | 0, b, _, _, _ => .refl b
  | fuel + 1, b, pva, len, v => by
    unfold pvaWrite
    refine ends_ite (.refl b) (.trans ?_ (pvaWrite_ends n acc fuel _ _ _ _))
    split
    · exact ends_of_scope rfl
    · exact .refl b
theorem tallyFire_ends (b : Block) (n h : Nat) : Ends b (tallyFire b n h) := by
  unfold tallyFire
  exact ends_ite (.trans (modTally_ends b n h _) (event_ends _ _ _ _ _ _ _)) (.refl b)
/-- Waits that are marked stay their partitions'. -/
theorem markWatches_ends (b : Block) (f : Watch → Watch) (h : ∀ w, (f w).part = w.part) :
    Ends b (b.modHub fun u => { u with watches := u.watches.map f }) := by
  refine ⟨{ Keeps.refl b with watches := fun w hw => ?_ }, fun _ _ h => h⟩
  obtain ⟨v, hv, rfl⟩ := List.mem_map.mp hw
  exact ⟨v, hv, (h v).symm⟩
theorem tallyApply_ends (b : Block) (u : TUpd) : Ends b (tallyApply b u) := by
  unfold tallyApply
  extract_lets b1 v hit k b2 b3 b4
  have h1 : Ends b b1 := modTally_ends _ _ _ _
  have h2 : Ends b1 b2 := markWatches_ends b1 _ fun w => by split <;> rfl
  have h4 : Ends b3 b4 := ends_ite (.refl b3) (count_ends _ _ _)
  exact h1.trans (h2.trans ((count_ends b2 _ _).trans (h4.trans (tallyFire_ends _ _ _))))
theorem tallyNow_ends (b : Block) (u : TUpd) : Ends b (tallyNow b u) := by
  unfold tallyNow
  extract_lets mine b1
  have h1 : Ends b b1 := modHub_ends rfl rfl
  exact h1.trans (.trans (ends_each tallyApply_ends _ _) (tallyApply_ends _ _))

/-! The fabric. -/
theorem routeSend_ends {b b' : Block} {e : Nat} {k : Pkt} (h : routeSend b e k = some b') : Ends b b' := by
  unfold routeSend at h
  dsimp only at h
  split at h
  · cases h
  · cases h
    refine .trans ?_ (modFab_ends ?_)
    · exact modFab_ends rfl
    · rfl
theorem answerLocal_ends (b : Block) (o : Origin) (st : Status) (k : Pkt) : Ends b (answerLocal b o st k) := by
  unfold answerLocal
  split
  · exact modCell_ends (by split <;> rfl)
  · exact modFab_ends rfl
  · exact .refl b
theorem sendAnswer_ends (b : Block) (node cseq : Nat) (st : Status) (cumul expect : Bool) (token : Nat) :
    Ends b (sendAnswer b node cseq st cumul expect token) := by
  unfold sendAnswer
  dsimp only
  split
  · next h => exact routeSend_ends h
  · exact count_ends _ _ _
theorem answerPkt_ends (b : Block) (node cseq : Nat) (st : Status) (token : Nat) : Ends b (answerPkt b node cseq st token) := by
  unfold answerPkt
  extract_lets put b1
  have h1 : Ends b b1 := modFab_ends rfl
  exact h1.trans (sendAnswer_ends _ _ _ _ _ _ _)
theorem connPump_ends (d : Nat) (fuel : Nat) (b : Block) : Ends b (connPump d fuel b) := by
  induction fuel generalizing b with
  | zero => exact .refl b
  | succ fuel ih =>
    unfold connPump
    extract_lets c
    split
    · exact .refl b
    · refine ends_ite (.refl b) ?_
      extract_lets k'
      split
      · exact .trans (modConn_ends _ _ _) (.trans (count_ends _ _ _) (.trans (answerLocal_ends _ _ _ _) (ih _)))
      · next b1 h =>
        exact (routeSend_ends h).trans (.trans (count_ends _ _ _) (.trans (modConn_ends _ _ _) (ih _)))
theorem connSend_ends (b : Block) (k : Pkt) (o : Origin) : Ends b (connSend b k o) := by
  unfold connSend
  exact ends_ite (modFab_ends rfl) (ends_ite (answerLocal_ends _ _ _ _) (.trans (modConn_ends _ _ _) (connPump_ends _ _ _)))
theorem sendMember_ends (b : Block) (c : Coll) (rank typ len : Nat) (body : List (Nat × Nat × Nat)) (data : Nat) :
    Ends b (sendMember b c rank typ len body data) := .trans (b := collProgress b c.part) (modFab_ends rfl) (connSend_ends _ _ _)
theorem groupCleared_ends (b : Block) (n g : Nat) : Ends b (groupCleared b n g) := by
  unfold groupCleared
  split
  · split
    · exact ends_ite (.refl b) (.trans (b := setGroup b n g none) (modFab_ends rfl) (finish_ends _ _ _ _ _))
    · exact .refl b
  · exact .refl b
/-- A block without the collectives of an identity. -/
def withoutColl (b : Block) (id : Nat) : Block := b.modFab fun f => { f with colls := f.colls.filter fun x => x.id != id }
theorem withoutColl_ends (b : Block) (id : Nat) : Ends b (withoutColl b id) :=
  ⟨{ Keeps.refl b with colls := fun c hc => ⟨c, List.mem_of_mem_filter hc, rfl, rfl⟩ }, fun _ _ h => h⟩
/-- The end of a collective takes it out, and is an end of work before and after. -/
theorem collEnd_parts (b : Block) (c : Coll) (st : Status) (received tell : Bool) (rank : Nat) (fl : Flags) :
    ∃ x, Ends b x ∧ Ends (withoutColl x c.id) (collEnd b c st received tell rank fl) := by
  unfold collEnd
  extract_lets g b1 b2 b3 b4 b5 b6
  have h1 : Ends b b1 := ends_ite (.refl b) (escrowLost_ends b c)
  have h2 : Ends b1 b2 := ends_ite (ends_each (fun _ _ => sendMember_ends _ _ _ _ _ _ _) _ _) (.refl b1)
  have h4 : Ends b3 b4 := ends_ite (ends_each (fun b e => modFab_ends (by rfl)) _ _) (.refl b3)
  have h5 : Ends b4 b5 := by
    unfold b5
    split
    · exact ends_ite (.trans (count_ends _ _ 1) (count_ends _ _ 1)) (count_ends _ _ 1)
    all_goals exact count_ends _ _ 1
  have h6 : Ends b5 b6 := ends_ite (.refl b5) (event_ends _ _ _ _ _ _ _)
  exact ⟨b2, h1.trans h2, h4.trans (h5.trans (h6.trans ((finish_ends b6 _ _ _ _).trans (groupCleared_ends _ _ _))))⟩
theorem collFail_ends (b : Block) (c : Coll) (st : Status) : Ends b (collFail b c st) := by
  obtain ⟨x, before, after⟩ := collEnd_parts b c st false true (collGroup b c).rank {}
  exact before.trans ((withoutColl_ends x _).trans after)
/-- The collective that fails is gone. -/
theorem collFail_gone (b : Block) (c : Coll) (st : Status) : ∀ x ∈ (collFail b c st).fab.colls, x.id ≠ c.id := by
  intro x hx
  obtain ⟨y, -, after⟩ := collEnd_parts b c st false true (collGroup b c).rank {}
  obtain ⟨z, hz, hid, -⟩ := after.colls x hx
  have := (List.mem_filter.mp hz).2
  rw [hid] at this
  simpa using this
/-- What is left of the collectives once those of a list have failed. -/
theorem collFails_gone (st : Status) (l : List Coll) (b : Block) : ∀ x ∈ (b.each l fun b c => collFail b c st).fab.colls, ∀ c ∈ l, x.id ≠ c.id := by
  induction l generalizing b with
  | nil => exact fun _ _ _ h => nomatch h
  | cons c l ih =>
    intro x hx d hd
    rcases List.mem_cons.mp hd with rfl | hd
    · obtain ⟨y, hy, hid, -⟩ := (ends_each (fun b c => collFail_ends b c st) l _).colls x hx
      exact hid ▸ collFail_gone b d st y hy
    · exact ih _ x hx d hd
theorem collKill_ends (b : Block) (n : Nat) : Ends b (collKill b n) := by
  unfold collKill
  exact .trans (ends_each (fun b c => collFail_ends b c .aborted) _ b) (modFab_ends rfl)
theorem collKill_colls (b : Block) (n : Nat) : ∀ c ∈ (collKill b n).fab.colls, c.part ≠ n := by
  intro c hc hn
  obtain ⟨d, hd, hid, hpart⟩ := (ends_each (fun b c => collFail_ends b c .aborted) (b.fab.colls.filter fun c => c.part == n) b).colls c hc
  exact collFails_gone .aborted _ b c hc d (List.mem_filter.mpr ⟨hd, by simpa using hpart.trans hn⟩) hid.symm

/-! Remittances. -/
theorem modFrame_ends (b : Block) (n m f : Nat) (g : Frame → Frame) : Ends b (b.modFrame n m f g) := by
  unfold Block.modFrame Block.modModel
  exact modPart_ends rfl
theorem clearsDone_ends (b : Block) : Ends b (clearsDone b) := by
  unfold clearsDone
  extract_lets ready b1
  have h1 : Ends b b1 := modRem_ends rfl
  exact h1.trans (ends_each (fun _ _ => finish_ends _ _ _ _ _) _ _)
/-- A block without the remittances of an identity. -/
def withoutRemit (b : Block) (id : Nat) : Block := b.modRem fun x => { x with remits := x.remits.filter fun y => y.id != id }
theorem withoutRemit_ends (b : Block) (id : Nat) : Ends b (withoutRemit b id) :=
  ⟨{ Keeps.refl b with remits := fun _ hr => List.mem_of_mem_filter hr }, fun _ _ h => h⟩
theorem remitGone_parts (b : Block) (r : Remit) (st : Status) : ∃ x, Ends b x ∧ Ends (withoutRemit x r.id) (remitGone b r st) := by
  unfold remitGone
  extract_lets b1 b2 b3 b4
  have h1 : Ends b b1 := ends_ite (.refl b) (modFrame_ends _ _ _ _ _)
  have h3 : Ends b2 b3 := modEd_ends _ _ _
  have h4 : Ends b3 b4 := by
    unfold b4
    split
    · exact .refl b3
    · extract_lets b5
      have h5 : Ends b3 b5 := modCmd_ends (fun _ => rfl) fun _ h => h
      refine h5.trans ?_
      split
      · exact ends_ite (finish_ends _ _ _ _ _) (.refl _)
      · exact .refl _
  exact ⟨b1, h1, h3.trans (h4.trans (clearsDone_ends b4))⟩
theorem remitFail_parts (b : Block) (r : Remit) (st : Status) (quiet : Bool) :
    ∃ x, Ends b x ∧ Ends (withoutRemit x r.id) (remitFail b r st quiet) := by
  unfold remitFail
  extract_lets qpn b1 b2 b3
  have h2 : Ends b1 b2 := ends_ite (.refl b1) (event_ends _ _ _ _ _ _ _)
  have h3 : Ends b2 b3 := by
    unfold b3
    split
    · exact .refl b2
    · exact modEd_ends _ _ _
  obtain ⟨x, before, after⟩ := remitGone_parts b3 r st
  exact ⟨x, (count_ends b _ 1).trans (h2.trans (h3.trans before)), after⟩
theorem remitFail_ends (b : Block) (r : Remit) (st : Status) (quiet : Bool) : Ends b (remitFail b r st quiet) := by
  obtain ⟨x, before, after⟩ := remitFail_parts b r st quiet
  exact before.trans ((withoutRemit_ends x _).trans after)
theorem remitFails_gone (st : Status) (quiet : Bool) (l : List Remit) (b : Block) :
    ∀ x ∈ (b.each l fun b r => remitFail b r st quiet).rem.remits, ∀ r ∈ l, x.id ≠ r.id := by
  induction l generalizing b with
  | nil => exact fun _ _ _ h => nomatch h
  | cons r l ih =>
    intro x hx s hs
    rcases List.mem_cons.mp hs with rfl | hs
    · obtain ⟨y, -, after⟩ := remitFail_parts b s st quiet
      have left := after.remits x ((ends_each (fun b r => remitFail_ends b r st quiet) l _).remits x hx)
      simpa using (List.mem_filter.mp left).2
    · exact ih _ x hx s hs
theorem killRemit_parts (b : Block) (n : Nat) :
    Ends (b.each (b.rem.remits.filter fun r => r.part == n) fun b r => remitFail b r .aborted true) (killRemit b n) := by
  unfold killRemit
  extract_lets b1 b2
  have h2 : Ends b1 b2 := ends_each (fun b e => modEd_ends b e _) (List.range 4) b1
  exact h2.trans (modRem_ends rfl)
theorem killRemit_ends (b : Block) (n : Nat) : Ends b (killRemit b n) :=
  .trans (ends_each (fun b r => remitFail_ends b r .aborted true) _ b) (killRemit_parts b n)
theorem killRemit_remits (b : Block) (n : Nat) : ∀ r ∈ (killRemit b n).rem.remits, r.part ≠ n := by
  intro r hr hn
  have left := (killRemit_parts b n).remits r hr
  have mine := (ends_each (fun b r => remitFail_ends b r .aborted true) _ b).remits r left
  exact remitFails_gone .aborted true _ b r left r (List.mem_filter.mpr ⟨mine, by simpa using hn⟩) rfl

/-! Windows, the ledger, attestation and DMA. -/
theorem answerWin_ends (b : Block) (w : WinWrite) (st : Status) : Ends b (answerWin b w st) := by
  unfold answerWin
  split
  · exact answerPkt_ends _ _ _ _ _
  · exact answerLocal_ends _ _ _ _
theorem winLand_ends (b : Block) (w : Win) (x : WinWrite) : Ends b (winLand b w x).1 := by
  unfold winLand
  split
  · split
    · exact .refl b
    · dsimp only
      split
      · exact .refl b
      · exact .trans (.trans (accCheck_ends _ _ _ _ _) (newId_ends _)) (setCell_ends (engineWrite_work _ _ _ _ _))
  · exact pvaWrite_ends _ _ _ _ _ _ _
theorem winSettle_ends (b : Block) (x : WinWrite) : Ends b (winSettle b x) := by
  unfold winSettle
  extract_lets b1 w
  have h1 : Ends b b1 := modHub_ends rfl rfl
  split
  next b2 st h =>
  have h2 : Ends b1 b2 := by have := winLand_ends b1 w x; rwa [h] at this
  extract_lets b3 b4
  have h3 : Ends b2 b3 := setKeys_ends _ _ _
  have h4 : Ends b3 b4 := ends_ite (.refl b3) (tallyNow_ends _ _)
  exact h1.trans (h2.trans (h3.trans (h4.trans (.trans (modWin_ends _ _ _ _) (answerWin_ends _ _ _)))))
theorem tallyZero_ends (b : Block) (n : Nat) : Ends b (tallyZero b n) := modHub_ends rfl rfl
theorem winKill_ends (b : Block) (n : Nat) : Ends b (winKill b n) := by
  unfold winKill
  extract_lets b1 b2 b3
  have h1 : Ends b b1 := modHub_ends rfl rfl
  have h2 : Ends b1 b2 := ends_each winSettle_ends _ _
  have h3 : Ends b2 b3 := by
    unfold b3
    exact ends_each (fun b i => ends_ite (modWin_ends _ _ _ _) (ends_ite (modWin_ends _ _ _ _) (.refl b))) _ _
  exact h1.trans (h2.trans (h3.trans (tallyZero_ends b3 n)))
theorem killLedger_ends (b : Block) (n : Nat) : Ends b (killLedger b n) := by
  unfold killLedger
  extract_lets mine b1
  have h1 : Ends b b1 := ends_each (fun b e => .trans (setEntry_ends _ _ _) (count_ends _ _ _)) _ _
  exact h1.trans (modPart_ends rfl)
theorem attestEnd_ends (b : Block) (n : Nat) (st : Status) : Ends b (attestEnd b n st) := by
  unfold attestEnd
  exact .trans (modSec_ends _ _) (event_ends _ _ _ _ _ _ _)
theorem attestKill_ends (b : Block) (n : Nat) : Ends b (attestKill b n) := by
  unfold attestKill
  exact ends_ite (.trans (modHub_ends rfl rfl) (attestEnd_ends _ _ _)) (.refl b)
theorem killDma_ends (b : Block) (n : Nat) : Ends b (killDma b n) := ends_of_scope rfl

end Sys2Proof.Aborts
end

/-! A change made of every cell of a list. -/
section
namespace Sys2Proof.Kill
open Sys2Proof.Machine Sys2Proof.Claims Sys2Proof.Aborts

/-- A change of one cell at a time, made of every cell of a list: `f` need not count how often a cell is listed. -/
theorem each_cell {I : Block → Prop} {F : Block → Nat → Block} {f : Cell → Cell} (hf : ∀ c, f (f c) = f c)
    (hF : ∀ b k, I b → I (F b k) ∧ ∀ j, (F b k).cell j = if j = k then f (b.cell j) else b.cell j) (l : List Nat) {b : Block} (hb : I b) :
    I (b.each l F) ∧ ∀ j, (b.each l F).cell j = if j ∈ l then f (b.cell j) else b.cell j := by
  induction l generalizing b with
  | nil => exact ⟨hb, fun j => by simp [Block.each]⟩
  | cons k l ih =>
    obtain ⟨hI, hcell⟩ := hF b k hb
    obtain ⟨hI', hcell'⟩ := ih hI
    refine ⟨hI', fun j => (hcell' j).trans ?_⟩
    rw [hcell j]
    by_cases hk : j = k <;> by_cases hl : j ∈ l <;> simp [hk, hl, hf]
/-- Nothing but cells differs. -/
def OnlyCells (b x : Block) : Prop := { x with cells := b.cells } = b
theorem modCells_cell {f : Cell → Cell} (hf : ∀ c, f (f c) = f c) (l : List Nat) (b : Block) :
    OnlyCells b (b.each l fun b k => b.modCell k f) ∧ ∀ j, (b.each l fun b k => b.modCell k f).cell j = if j ∈ l then f (b.cell j) else b.cell j := by
  refine each_cell (I := OnlyCells b) (F := fun b k => b.modCell k f) hf (fun x k hx => ⟨hx, fun j => ?_⟩) l rfl
  rw [Block.modCell_cell]
  by_cases e : j = k
  · simp [e]
  · simp [e]

end Sys2Proof.Kill
end

/-! The kill of a partition (R404, R405): its steps, and what each does. -/
section
namespace Sys2Proof.Kill
open Sys2Proof.Machine Sys2Proof.Claims Sys2Proof.Aborts

/-! The commands of the partition. -/
/-- Every command whose record is still to be written has ended. -/
def Orderly (b : Block) (n : Nat) : Prop := ∀ i ∈ (b.part n).commits, ∀ c, cmdOf b i = some c → Over c
/-- A command of the partition has ended or not as it had when `c` was read. -/
def Stands (b : Block) (n : Nat) (c : Cmd) : Prop := ∃ d, cmdOf b c.id = some d ∧ d.part = n ∧ (Over d ↔ Over c)
/-- A command that a kill ends after its work had ended. -/
def aborted (c : Cmd) : Cmd := { c with status := .aborted, result := 0 }

theorem cmdOf_modHub {b : Block} {f : Hub → Hub} (h : (f b.hub).cmds = b.hub.cmds) (i : Nat) : cmdOf (b.modHub f) i = cmdOf b i := cmdOf_congr h i
/-- A command whose work had ended before takes ABORTED in place of its status; one whose record is on its way is written again. -/
theorem killCmd_of_ended {b : Block} {c : Cmd} (h : Over c) :
    ∃ g : Cmd → Cmd, (∀ d, (g d).part = d.part ∧ (Over d → Over (g d) ∧ (g d).status = .aborted)) ∧
      ∀ i, cmdOf (killCmd b c) i = (cmdOf b i).map fun d => if i = c.id then g d else d := by
  rcases h with h | h
  · refine ⟨aborted, fun d => ⟨rfl, fun e => ⟨e, rfl⟩⟩, fun i => ?_⟩
    unfold killCmd
    rw [h]
    exact cmdOf_modCmd b c.id aborted (fun _ => rfl) i
  · refine ⟨fun d => aborted (posting c.slot d), fun d => ⟨rfl, fun _ => ⟨.inr rfl, rfl⟩⟩, fun i => ?_⟩
    unfold killCmd
    rw [h]
    refine (cmdOf_modCmd _ c.id aborted (fun _ => rfl) i).trans ?_
    rw [cmdOf_compWrite, cmdOf_modHub rfl, Option.map_map]
    congr 1
    funext d
    simp only [Function.comp]
    split <;> rfl
theorem killCmd_of_running {b : Block} {c : Cmd} (h : ¬ Over c) : killCmd b c = finish b c.id .aborted := by
  unfold killCmd
  cases hst : c.st with
  | aside => rfl
  | running => rfl
  | commit => exact absurd (.inl hst) h
  | posting => exact absurd (.inr hst) h
theorem killCmd_rings (b : Block) (c : Cmd) : Rings b (killCmd b c) := by
  have again (b : Block) (f : Cmd → Cmd) : Rings b (modCmd b c.id fun c => aborted c) := modCmd_rings b c.id aborted fun _ => rfl
  cases hst : c.st with
  | aside => exact killCmd_of_running (b := b) (c := c) (by simp [Over, hst]) ▸ finish_rings _ _ _ _ _
  | running => exact killCmd_of_running (b := b) (c := c) (by simp [Over, hst]) ▸ finish_rings _ _ _ _ _
  | commit =>
    unfold killCmd
    rw [hst]
    exact again b id
  | posting =>
    unfold killCmd
    rw [hst]
    exact .trans (.trans (Posts.rings (modHub_posts _ _ (by rfl) (by rfl))) (compWrite_rings _ _ _ _)) (again _ id)
theorem killCmd_commits_of_ended {b : Block} {c : Cmd} (h : Over c) (n : Nat) : ((killCmd b c).part n).commits = (b.part n).commits := by
  unfold killCmd
  rcases h with h | h
  · rw [h]; rfl
  · rw [h]
    exact compWrite_commits _ _ _ _ _

/-- A command that already ended with ABORTED stays so, whichever command the kill takes. -/
theorem killCmd_keeps_aborted {b : Block} {c : Cmd} {i : Nat} (h : EndedWith b i .aborted) : EndedWith (killCmd b c) i .aborted := by
  by_cases hc : Over c
  · obtain ⟨g, hg, hcmd⟩ := killCmd_of_ended (b := b) hc
    obtain ⟨d, hd, status, ended⟩ := h
    obtain ⟨ended', status'⟩ := (hg d).2 ended
    refine ⟨_, by rw [hcmd, hd]; rfl, ?_⟩
    split
    · exact ⟨status', ended'⟩
    · exact ⟨status, ended⟩
  · rw [killCmd_of_running hc]
    exact (finish_ends b c.id .aborted 0 {}).ended i _ h
/-- The command that the kill takes ends with ABORTED. -/
theorem killCmd_aborts {b : Block} {n : Nat} {c : Cmd} (h : Stands b n c) : EndedWith (killCmd b c) c.id .aborted := by
  obtain ⟨d, hd, -, same⟩ := h
  by_cases hc : Over c
  · obtain ⟨g, hg, hcmd⟩ := killCmd_of_ended (b := b) hc
    obtain ⟨ended', status'⟩ := (hg d).2 (same.mpr hc)
    exact ⟨g d, by rw [hcmd, hd]; simp, status', ended'⟩
  · rw [killCmd_of_running hc]
    exact finish_endedWith hd (fun e => hc (same.mp e)) _ _ _
/-- Another command of the partition stands as it did. -/
theorem killCmd_keeps_stands {b : Block} {n : Nat} {c x : Cmd} (ho : Orderly b n) (hc : Stands b n c ∨ EndedWith b c.id .aborted) (hx : Stands b n x) (ne : x.id ≠ c.id) :
    Stands (killCmd b c) n x := by
  obtain ⟨d, hd, part, same⟩ := hx
  by_cases ended : Over c
  · obtain ⟨g, -, hcmd⟩ := killCmd_of_ended (b := b) ended
    exact ⟨d, by rw [hcmd, hd]; simp [ne], part, same⟩
  · rw [killCmd_of_running ended]
    rcases hc.symm with ⟨e, he, -, eended⟩ | ⟨e, he, epart, esame⟩
    · exact ⟨d, by rw [finish_ended he eended, hd], part, same⟩
    · rw [finish_running he fun h => ended (esame.mp h), epart]
      have joined : cmdOf (joined b c.id n .aborted 0 {}) x.id = some d := by rw [cmdOf_joined, hd]; simp [ne]
      rcases postAll_posted (Aborts.joined b c.id n .aborted 0 {}) n x.id with h | ⟨hi, slot, h⟩
      · exact ⟨d, h.trans joined, part, same⟩
      · rw [joined_commits] at hi
        have mine : x.id ∈ (b.part n).commits := by simpa [ne] using hi
        exact ⟨posting slot d, by rw [h, joined]; rfl, part, ⟨fun _ => same.mp (ho _ mine d hd), fun _ => .inr rfl⟩⟩
theorem killCmd_keeps_orderly {b : Block} {n : Nat} {c : Cmd} (ho : Orderly b n) (hc : Stands b n c ∨ EndedWith b c.id .aborted) :
    Orderly (killCmd b c) n := by
  intro i hi x hx
  by_cases ended : Over c
  · obtain ⟨g, hg, hcmd⟩ := killCmd_of_ended (b := b) ended
    rw [killCmd_commits_of_ended ended] at hi
    rw [hcmd] at hx
    obtain ⟨d, hd, rfl⟩ := Option.map_eq_some_iff.mp hx
    split
    · exact ((hg d).2 (ho i hi d hd)).1
    · exact ho i hi d hd
  · rw [killCmd_of_running ended] at hi hx
    rcases hc with ⟨e, he, epart, esame⟩ | ⟨e, he, -, eended⟩
    · rw [finish_running he fun h => ended (esame.mp h), epart] at hi hx
      have listed : i ∈ (b.part n).commits ∨ i = c.id := by
        have := mem_postCommits n _ _ i hi
        rw [joined_commits] at this
        simpa using this
      have before : ∀ d, cmdOf (joined b c.id n .aborted 0 {}) i = some d → Over d := by
        intro d hd
        rw [cmdOf_joined] at hd
        obtain ⟨d', hd', rfl⟩ := Option.map_eq_some_iff.mp hd
        split
        · exact .inl rfl
        · next other => exact ho i (listed.resolve_right other) d' hd'
      rcases postAll_posted (joined b c.id n .aborted 0 {}) n i with h | ⟨-, slot, h⟩
      · exact before x (h.symm.trans hx)
      · rw [h] at hx
        obtain ⟨d, -, rfl⟩ := Option.map_eq_some_iff.mp hx
        exact .inr rfl
    · rw [finish_ended he eended] at hi hx
      exact ho i hi x hx
/-- The kill ends every command of its list with ABORTED. -/
theorem killCmds_aborted {n : Nat} (l : List Cmd) : ∀ {b : Block}, Orderly b n → (∀ c ∈ l, Stands b n c ∨ EndedWith b c.id .aborted) →
    ∀ i, ((∃ c ∈ l, c.id = i) ∨ EndedWith b i .aborted) → EndedWith (b.each l killCmd) i .aborted := by
  induction l with
  | nil =>
    intro b _ _ i hi
    exact hi.resolve_left fun ⟨c, hc, _⟩ => nomatch hc
  | cons c l ih =>
    intro b ho hl i hi
    have first : EndedWith (killCmd b c) c.id .aborted := (hl c List.mem_cons_self).elim killCmd_aborts killCmd_keeps_aborted
    refine ih (killCmd_keeps_orderly ho (hl c List.mem_cons_self)) (fun x hx => ?_) i ?_
    · rcases hl x (List.mem_cons_of_mem _ hx) with stands | done
      · by_cases e : x.id = c.id
        · exact .inr (e ▸ first)
        · exact .inl (killCmd_keeps_stands ho (hl c List.mem_cons_self) stands e)
      · exact .inr (killCmd_keeps_aborted done)
    · rcases hi with ⟨x, hx, rfl⟩ | done
      · rcases List.mem_cons.mp hx with rfl | hx
        · exact .inr first
        · exact .inl ⟨x, hx, rfl⟩
      · exact .inr (killCmd_keeps_aborted done)

end Sys2Proof.Kill
end

section
namespace Sys2Proof.Kill
open Sys2Proof.Machine Sys2Proof.Claims Sys2Proof.Aborts

theorem rings_each {α : Type} {F : Block → α → Block} (h : ∀ b x, Rings b (F b x)) : ∀ (l : List α) (b : Block), Rings b (b.each l F)
  | [], b => .refl b
  | x :: l, b => .trans (h b x) (rings_each h l _)

/-! The steps of a kill, in their order. -/
/-- The partition is KILLING. -/
def killMarked (b : Block) (n cause : Nat) : Block :=
  b.setPart n { b.part n with st := .killing, killCause := cause, killAt := b.now, zeroList := killZero b n, cellsZeroed := false,
                              memZeroed := false, scrubLate := false, ahead := none, running := none }
/-- The commands of a list take flags of what their work has done. -/
def addFlags (b : Block) (l : List (Nat × Flags)) : Block := b.each l fun b x => modCmd b x.1 fun c => { c with flags := c.flags.or x.2 }
/-- The commands of the partition end. -/
def killCmds (b : Block) (n : Nat) : Block := b.each (b.hub.cmds.filter fun c => c.part == n) killCmd
def workDone (b : Block) (n : Nat) : List (Nat × Flags) := (b.hub.cmds.filter fun c => c.part == n).map fun c => (c.id, workFlags b c)
def killEnded (b : Block) (n cause : Nat) : Block := killCmds (addFlags (killMarked b n cause) (workDone b n)) n
/-- The cells stop. -/
def quenchCells (b : Block) (l : List Nat) : Block := b.each l fun b k => coinReturn (b.modCell k Cell.quench) k
def dropWatches (b : Block) (n : Nat) : Block := b.modHub fun h => { h with watches := h.watches.filter fun w => w.part != n }
def killStopped (b : Block) (n cause : Nat) : Block := dropWatches (quenchCells (killEnded b n cause) (partCells b n)) n
def clearWalkers (b : Block) (n : Nat) : Block := b.each (partBlocks b n) fun b k => { b with walkers := mset {} b.walkers k { cnt := (b.walker k).cnt } }
/-- The units of the hub and the E-dies drop the partition's work. -/
def killUnits (b : Block) (n : Nat) : Block := attestKill (killDma (killLedger (winKill (killRemit (collKill b n) n) n) n) n) n
def dropImage (b : Block) (n : Nat) : Block :=
  b.modPart n fun p => { p with image := none, cellMap := [], inRecovery := false, recStatus := 0, recEnded := 0 }
theorem killPart_eq {b : Block} {n : Nat} (h : (b.part n).st = .active) (cause : Nat) :
    ∃ sev det, killPart b n cause =
      eventBoth (dropImage (killUnits (clearWalkers (killStopped b n cause) n) n) n) n 0x0901 .aborted sev chipLoc det := by
  refine ⟨if cause = 2 then 3 else 0,
    detail [(16, 1, n), (17, 1, cause), (18, 2, (b.hub.cmds.filter fun c => c.part == n).length), (20, 4, (partPages b n).length)], ?_⟩
  unfold killPart
  extract_lets p cells zero pages cmds done b1 b2 b3 b4 b5 b6 b7 b8 b9 b10 b11 b12 det sev
  rw [if_neg (by rw [h]; decide)]
  have e3 : b3 = killEnded b n cause := rfl
  have e4 : b4 = quenchCells b3 cells := rfl
  have e5 : b5 = dropWatches b4 n := rfl
  have e6 : b6 = clearWalkers b5 n := rfl
  have e11 : b11 = killUnits b6 n := rfl
  have e12 : b12 = dropImage b11 n := rfl
  rw [killStopped, ← e3, ← e4, ← e5, ← e6, ← e11, ← e12]

/-! What each step does. -/
theorem addFlags_rings (b : Block) (l : List (Nat × Flags)) : Rings b (addFlags b l) := by
  unfold addFlags
  exact rings_each (fun b x => modCmd_rings b x.1 (fun c => { c with flags := c.flags.or x.2 }) fun _ => rfl) l b
theorem killEnded_rings (b : Block) (n cause : Nat) : Rings (killMarked b n cause) (killEnded b n cause) :=
  (addFlags_rings _ _).trans (rings_each killCmd_rings _ _)
/-- Flags leave the commands in their places, and the partitions. -/
theorem addFlags_cmds (l : List (Nat × Flags)) (b : Block) :
    ∃ g : Cmd → Cmd, (∀ c, (g c).id = c.id ∧ (g c).part = c.part ∧ (g c).st = c.st) ∧
      (addFlags b l).hub.cmds = b.hub.cmds.map g ∧ (addFlags b l).parts = b.parts := by
  induction l generalizing b with
  | nil => exact ⟨id, fun _ => ⟨rfl, rfl, rfl⟩, (List.map_id _).symm, rfl⟩
  | cons x l ih =>
    obtain ⟨g, hg, hcmds, hparts⟩ := ih (modCmd b x.1 fun c => { c with flags := c.flags.or x.2 })
    refine ⟨_, fun c => ?_, hcmds.trans (List.map_map ..), hparts⟩
    obtain ⟨gid, gpart, gst⟩ := hg (if c.id = x.1 then { c with flags := c.flags.or x.2 } else c)
    refine ⟨gid.trans ?_, gpart.trans ?_, gst.trans ?_⟩ <;> split <;> rfl
/-- The commands of the partition are ended with ABORTED (R404). -/
theorem killEnded_aborted {b : Block} {n : Nat} (cause : Nat) (unique : ∀ c ∈ b.hub.cmds, ∀ d ∈ b.hub.cmds, c.id = d.id → c = d)
    (ordered : ∀ i ∈ (b.part n).commits, ∀ c, cmdOf b i = some c → c.st = .commit) {c : Cmd} (hc : c ∈ b.hub.cmds) (hn : c.part = n) :
    EndedWith (killEnded b n cause) c.id .aborted := by
  obtain ⟨g, hg, hcmds, hparts⟩ := addFlags_cmds (workDone b n) (killMarked b n cause)
  have gid (c : Cmd) : (g c).id = c.id := (hg c).1
  have gpart (c : Cmd) : (g c).part = c.part := (hg c).2.1
  have gst (c : Cmd) : (g c).st = c.st := (hg c).2.2
  generalize hx : addFlags (killMarked b n cause) (workDone b n) = x at hcmds hparts
  have hcmds : x.hub.cmds = b.hub.cmds.map g := hcmds
  have commits : (x.part n).commits = (b.part n).commits := by
    rw [Block.part, hparts, ← Block.part, killMarked, Block.setPart_part_same]
  have find (i : Nat) : cmdOf x i = (cmdOf b i).map g := by
    rw [cmdOf, hcmds, List.find?_map]
    simp only [cmdOf, Function.comp_def, gid]
  have ho : Orderly x n := fun i hi d hd => by
    rw [find] at hd
    obtain ⟨d', hd', rfl⟩ := Option.map_eq_some_iff.mp hd
    exact .inl ((gst d').trans (ordered i (commits ▸ hi) d' hd'))
  have mine : g c ∈ x.hub.cmds.filter fun c => c.part == n :=
    List.mem_filter.mpr ⟨hcmds ▸ List.mem_map_of_mem hc, by simpa [gpart] using hn⟩
  have stands : ∀ d ∈ x.hub.cmds.filter fun c => c.part == n, Stands x n d := by
    intro d hd
    obtain ⟨hd, part⟩ := List.mem_filter.mp hd
    rw [hcmds] at hd
    obtain ⟨e, he, rfl⟩ := List.mem_map.mp hd
    refine ⟨g e, ?_, by simpa using part, .rfl⟩
    have found : (cmdOf b e.id).isSome := List.find?_isSome.mpr ⟨e, he, by simp⟩
    obtain ⟨e', he'⟩ := Option.isSome_iff_exists.mp found
    rw [find, gid, he', unique e' (List.mem_of_find?_eq_some he') e he (cmdOf_id he')]
    rfl
  unfold killEnded
  rw [hx]
  exact killCmds_aborted _ ho (fun d hd => .inl (stands d hd)) c.id (.inl ⟨g c, mine, gid c⟩)
/-- Nothing but cells, purses and counters differs. -/
def OnlyStopped (b x : Block) : Prop := { x with cells := b.cells, pow := b.pow, cnts := b.cnts } = b
theorem coinReturn_rest (b : Block) (k : Nat) : { coinReturn b k with pow := b.pow, cnts := b.cnts } = b := by
  unfold coinReturn coinWaited
  dsimp only
  split <;> rfl
theorem coinReturn_cells (b : Block) (k : Nat) : (coinReturn b k).cells = b.cells := by
  have h := congrArg Block.cells (coinReturn_rest b k)
  exact h
theorem onlyStopped_quench {b x : Block} (h : OnlyStopped b x) (k : Nat) : OnlyStopped b (coinReturn (x.modCell k Cell.quench) k) := by
  have rest := coinReturn_rest (x.modCell k Cell.quench) k
  have := congrArg (fun y : Block => { y with cells := b.cells, pow := b.pow, cnts := b.cnts }) rest
  exact this.trans h
theorem quenchCells_cell (b : Block) (l : List Nat) :
    OnlyStopped b (quenchCells b l) ∧ ∀ j, (quenchCells b l).cell j = if j ∈ l then (b.cell j).quench else b.cell j := by
  refine each_cell (I := OnlyStopped b) (F := fun b k => coinReturn (b.modCell k Cell.quench) k) (f := Cell.quench) (fun _ => rfl)
    (fun x k hx => ⟨onlyStopped_quench hx k, fun j => ?_⟩) l rfl
  rw [Issue.cell_congr (coinReturn_cells _ _), Block.modCell_cell]
  by_cases e : j = k
  · simp [e]
  · simp [e]
theorem clearWalkers_ends (b : Block) (n : Nat) : Ends b (clearWalkers b n) := by
  unfold clearWalkers
  exact ends_each (fun b k => ends_of_scope (by rfl)) _ b
theorem killUnits_ends (b : Block) (n : Nat) : Ends (killRemit (collKill b n) n) (killUnits b n) :=
  (winKill_ends _ n).trans ((killLedger_ends _ n).trans ((killDma_ends _ n).trans (attestKill_ends _ n)))
/-- Once the units have dropped the partition's work, none of its collectives is left. -/
theorem killUnits_colls (b : Block) (n : Nat) : ∀ c ∈ (killUnits b n).fab.colls, c.part ≠ n := by
  intro c hc
  obtain ⟨d, hd, -, hpart⟩ := ((killRemit_ends _ n).trans (killUnits_ends b n)).colls c hc
  exact hpart ▸ collKill_colls b n d hd
/-- Nor any of its remittances. -/
theorem killUnits_remits (b : Block) (n : Nat) : ∀ r ∈ (killUnits b n).rem.remits, r.part ≠ n := fun r hr =>
  killRemit_remits _ n r ((killUnits_ends b n).remits r hr)

/-! What the first steps have done. -/
theorem killMarked_life (b : Block) (n cause m : Nat) :
    life ((killMarked b n cause).part m) = if m = n then (.killing, cause, none, none, (b.part n).image) else life (b.part m) := by
  rw [killMarked, Block.setPart_part]
  split <;> rfl
theorem quenchCells_rest (b : Block) (l : List Nat) : (quenchCells b l).clk = b.clk ∧ (quenchCells b l).kept = b.kept ∧
    (quenchCells b l).parts = b.parts ∧ (quenchCells b l).hub = b.hub := by
  obtain ⟨h, -⟩ := quenchCells_cell b l
  have clk := congrArg Block.clk h
  have kept := congrArg Block.kept h
  have parts := congrArg Block.parts h
  have hub := congrArg Block.hub h
  exact ⟨clk, kept, parts, hub⟩
theorem killStopped_clk (b : Block) (n cause : Nat) : (killStopped b n cause).clk = b.clk ∧ (killStopped b n cause).kept = b.kept := by
  have ended := keeps_of_rings (killEnded_rings b n cause)
  obtain ⟨clk, kept, -, -⟩ := quenchCells_rest (killEnded b n cause) (partCells b n)
  exact ⟨clk.trans ended.clk, kept.trans ended.kept⟩
theorem killStopped_life (b : Block) (n cause m : Nat) :
    life ((killStopped b n cause).part m) = if m = n then (.killing, cause, none, none, (b.part n).image) else life (b.part m) := by
  obtain ⟨-, -, parts, -⟩ := quenchCells_rest (killEnded b n cause) (partCells b n)
  rw [← killMarked_life, ← (keeps_of_rings (killEnded_rings b n cause)).life m, killStopped, dropWatches, Block.modHub_part, Block.part, parts]
  rfl
theorem killStopped_work (b : Block) (n cause : Nat) {k : Nat} (hk : k ∈ partCells b n) :
    work ((killStopped b n cause).cell k) = ([], none, [], [], []) := by
  rw [killStopped, dropWatches, Block.modHub_cell, (quenchCells_cell _ _).2, if_pos hk]
  rfl
theorem killStopped_watches (b : Block) (n cause : Nat) : ∀ w ∈ (killStopped b n cause).hub.watches, w.part ≠ n := by
  intro w hw
  simpa using (List.mem_filter.mp hw).2
theorem killStopped_aborted {b : Block} {n : Nat} (cause : Nat) (unique : ∀ c ∈ b.hub.cmds, ∀ d ∈ b.hub.cmds, c.id = d.id → c = d)
    (ordered : ∀ i ∈ (b.part n).commits, ∀ c, cmdOf b i = some c → c.st = .commit) {c : Cmd} (hc : c ∈ b.hub.cmds) (hn : c.part = n) :
    EndedWith (killStopped b n cause) c.id .aborted := by
  obtain ⟨-, -, -, hub⟩ := quenchCells_rest (killEnded b n cause) (partCells b n)
  have same : (quenchCells (killEnded b n cause) (partCells b n)).hub.cmds = (killEnded b n cause).hub.cmds := by rw [hub]
  unfold EndedWith
  rw [cmdOf_congr (b' := killStopped b n cause) same]
  exact killEnded_aborted cause unique ordered hc hn

/-! The whole kill. -/
theorem killPart_inactive {b : Block} {n : Nat} (h : (b.part n).st ≠ .active) (cause : Nat) : killPart b n cause = b := by
  unfold killPart
  exact if_pos h
/-- A kill: its first steps end commands and stop cells, its units drop their work, and it forgets the image. -/
theorem killPart_parts {b : Block} {n : Nat} (h : (b.part n).st = .active) (cause : Nat) :
    ∃ x, Ends (killStopped b n cause) x ∧ (∀ c ∈ x.fab.colls, c.part ≠ n) ∧ (∀ r ∈ x.rem.remits, r.part ≠ n) ∧
      Ends (dropImage x n) (killPart b n cause) := by
  obtain ⟨sev, det, heq⟩ := killPart_eq h cause
  have before := clearWalkers_ends (killStopped b n cause) n
  generalize clearWalkers (killStopped b n cause) n = y at heq before
  have units : Ends y (killUnits y n) := (collKill_ends y n).trans ((killRemit_ends _ n).trans (killUnits_ends y n))
  exact ⟨killUnits y n, before.trans units, killUnits_colls y n, killUnits_remits y n, heq ▸ ends_of_posts (eventBoth_posts _ _ _ _ _ _ _)⟩
theorem dropImage_life (b : Block) (n m : Nat) : life ((dropImage b n).part m) =
    if m = n then ((b.part n).st, (b.part n).killCause, (b.part n).running, (b.part n).ahead, none) else life (b.part m) := by
  rw [dropImage, Block.modPart_part]
  split <;> rfl
/-- A kill leaves the clocks and the root of trust's kept state as they are. -/
theorem killPart_clk (b : Block) (n cause : Nat) : (killPart b n cause).clk = b.clk ∧ (killPart b n cause).kept = b.kept := by
  by_cases h : (b.part n).st = .active
  · obtain ⟨x, first, -, -, last⟩ := killPart_parts h cause
    obtain ⟨clk, kept⟩ := killStopped_clk b n cause
    exact ⟨last.clk.trans (first.clk.trans clk), last.kept.trans (first.kept.trans kept)⟩
  · rw [killPart_inactive h]
    exact ⟨rfl, rfl⟩
/-- R404: the partition is KILLING with its cause, and nothing runs or is loaded. -/
theorem killPart_life {b : Block} {n : Nat} (h : (b.part n).st = .active) (cause m : Nat) :
    life ((killPart b n cause).part m) = if m = n then (.killing, cause, none, none, none) else life (b.part m) := by
  obtain ⟨x, first, -, -, last⟩ := killPart_parts h cause
  have mine := first.life n
  rw [killStopped_life, if_pos rfl, life] at mine
  simp only [Prod.mk.injEq] at mine
  obtain ⟨st, killCause, running, ahead, -⟩ := mine
  rw [last.life, dropImage_life, st, killCause, running, ahead]
  by_cases e : m = n
  · simp [e]
  · simp only [if_neg e]
    rw [first.life, killStopped_life, if_neg e]
theorem killPart_quenched {b : Block} {n : Nat} (h : (b.part n).st = .active) (cause : Nat) {k : Nat} (hk : k ∈ partCells b n) :
    Quenched ((killPart b n cause).cell k) := by
  obtain ⟨x, first, -, -, last⟩ := killPart_parts h cause
  have stopped := (last.work k).trans ((first.work k).trans (killStopped_work b n cause hk))
  unfold Quenched
  simpa only [work, Prod.mk.injEq] using stopped
theorem killPart_colls {b : Block} {n : Nat} (h : (b.part n).st = .active) (cause : Nat) : ∀ c ∈ (killPart b n cause).fab.colls, c.part ≠ n := by
  intro c hc
  obtain ⟨x, -, colls, -, last⟩ := killPart_parts h cause
  obtain ⟨d, hd, -, hpart⟩ := last.colls c hc
  exact hpart ▸ colls d hd
theorem killPart_remits {b : Block} {n : Nat} (h : (b.part n).st = .active) (cause : Nat) : ∀ r ∈ (killPart b n cause).rem.remits, r.part ≠ n := by
  intro r hr
  obtain ⟨x, -, -, remits, last⟩ := killPart_parts h cause
  exact remits r (last.remits r hr)
theorem killPart_watches {b : Block} {n : Nat} (h : (b.part n).st = .active) (cause : Nat) : ∀ w ∈ (killPart b n cause).hub.watches, w.part ≠ n := by
  intro w hw
  obtain ⟨x, first, -, -, last⟩ := killPart_parts h cause
  obtain ⟨v, hv, hpart⟩ := last.watches w hw
  obtain ⟨u, hu, hpart'⟩ := first.watches v hv
  exact hpart ▸ hpart' ▸ killStopped_watches b n cause u hu
/-- R404: the partition's commands end with ABORTED. -/
theorem killPart_aborted {b : Block} {n : Nat} (h : (b.part n).st = .active) (cause : Nat)
    (unique : ∀ c ∈ b.hub.cmds, ∀ d ∈ b.hub.cmds, c.id = d.id → c = d)
    (ordered : ∀ i ∈ (b.part n).commits, ∀ c, cmdOf b i = some c → c.st = .commit) {c : Cmd} (hc : c ∈ b.hub.cmds) (hn : c.part = n) :
    EndedWith (killPart b n cause) c.id .aborted := by
  obtain ⟨x, first, -, -, last⟩ := killPart_parts h cause
  exact last.ended _ _ (first.ended _ _ (killStopped_aborted cause unique ordered hc hn))

end Sys2Proof.Kill
end

/-! Assignment, kill and scrub of a partition (R44, R56, R397, R400 to R408). -/
section
namespace Sys2Proof.Partitions
open Sys2Proof.Machine Sys2Proof.Claims Sys2Proof.Issue Sys2Proof.Aborts Sys2Proof.Kill

/-! Pages. -/
/-- R44: a page's bytes lie on its E-die, their granules on the subchannels in turn from seven times the page's number on. -/
theorem granule_place {e p o : Nat} (he : e < 4) (hp : p < 2 ^ 17) (ho : o < 2 ^ 21) :
    mpaEdie (pageMpa (pageKey e p) + o) = e ∧ mpaPage (pageMpa (pageKey e p) + o) = p ∧
      mpaSubchannel (pageMpa (pageKey e p) + o) = (o / 256 + 7 * p) % 48 := by
  have base : pageMpa (pageKey e p) + o = 2 ^ 21 * (2 ^ 17 * e + p) + o := by
    have edie : (e * 131072 + p) / 131072 = e := by omega
    have page : (e * 131072 + p) % 131072 = p := by omega
    rw [pageMpa, pageKey, edie, page]
    ring
  have number : (pageMpa (pageKey e p) + o) / 2 ^ 21 = 2 ^ 17 * e + p := by
    rw [base, Nat.mul_add_div (by decide), Nat.div_eq_of_lt ho, Nat.add_zero]
  have page : mpaPage (pageMpa (pageKey e p) + o) = p := by rw [mpaPage, number, Nat.mul_add_mod, Nat.mod_eq_of_lt hp]
  have offset : (pageMpa (pageKey e p) + o) % 2 ^ 21 = o := by rw [base, Nat.mul_add_mod, Nat.mod_eq_of_lt ho]
  refine ⟨?_, page, by rw [mpaSubchannel, page, offset]⟩
  rw [mpaEdie, show (2 : Nat) ^ 38 = 2 ^ 21 * 2 ^ 17 from rfl, ← Nat.div_div_eq_div_mul, number, Nat.mul_add_div (by decide), Nat.div_eq_of_lt hp,
    Nat.add_zero, Nat.mod_eq_of_lt he]
theorem pageZeroed_eq {e : Fin 4} {p : Fin 131072} {b : Block} (h : ∃ z ∈ b.hub.zeroing, z.1 = pageKey e p) :
    pageZeroed e p b = (b.memZero (pageMpa (pageKey e p)) (2 ^ 21)).modHub fun h => { h with zeroing := h.zeroing.filter fun z => z.1 != pageKey e p } := by
  obtain ⟨z, hz, hkey⟩ := h
  exact if_pos (List.any_eq_true.mpr ⟨z, hz, by simpa using hkey⟩)
theorem dropXlate_cell (b : Block) (n : Nat) (f : Nat → Bool) : OnlyCells b (dropXlate b n f) ∧
    ∀ k, (dropXlate b n f).cell k = if k ∈ partCells b n then { b.cell k with xlate := (b.cell k).xlate.filter fun x => !f x.vpn } else b.cell k :=
  modCells_cell (fun c => by simp) _ b
/-- Every cell of the partition has dropped what it had translated. -/
theorem dropXlate_all {b : Block} {n k : Nat} (h : k ∈ partCells b n) : ((dropXlate b n fun _ => true).cell k).xlate = [] := by
  rw [(dropXlate_cell b n _).2, if_pos h]
  simp

/-! Events of the platform ring touch nothing else of the hub, the partitions or the counters. -/
/-- The platform's ring and list of last events, the windows, LPDDR6 and what is sent may differ. -/
def OnlyOuter (b x : Block) : Prop :=
  { x with hub := { x.hub with platEvt := b.hub.platEvt, lastEvents := b.hub.lastEvents, wins := b.hub.wins }, mem := b.mem, merr := b.merr, sent := b.sent } = b
theorem OnlyOuter.trans {a b c : Block} (h : OnlyOuter a b) (g : OnlyOuter b c) : OnlyOuter a c := by
  unfold OnlyOuter at *
  rw [← g] at h
  exact h
theorem platPut_outer (b : Block) (r : Nat) : OnlyOuter b (platPut b r) := by
  unfold platPut
  dsimp only
  split <;> rfl
theorem platLost_outer (b : Block) : OnlyOuter b (platLost b) := by
  unfold platLost
  dsimp only
  split
  · rfl
  · exact .trans (b := b.modHub fun h => { h with platEvt := { h.platEvt with lostNew := 0 } }) rfl (platPut_outer _ _)
theorem postPlat_outer (b : Block) (r : Nat) : OnlyOuter b (postPlat b r) := by
  unfold postPlat
  extract_lets sev b1 b2
  have h1 : OnlyOuter b b1 := rfl
  have h2 : OnlyOuter b b2 := by
    unfold b2
    split
    · split
      · exact h1.trans rfl
      · exact h1
    · rfl
  split
  · exact h2
  · exact h2.trans ((platLost_outer b2).trans (platPut_outer _ _))
theorem eventPlat_outer (b : Block) (n ty : Nat) (st : Status) (sev loc det : Nat) : OnlyOuter b (eventPlat b n ty st sev loc det) := postPlat_outer _ _

/-! Writes of PART_OP. -/
theorem regFind_partOp : ∃ r x, regFind 0xC7F70200 = some (r, x) ∧ r.wr = 1 ∧ r.write = fun _ v b => writePartOp v b := ⟨_, _, rfl, rfl, rfl⟩
/-- No card function reaches PART_OP. -/
theorem partOp_platform {b : Block} {f : Fin 16} {tag : BitVec 16} : mgmtAllowed b (requester b (.kwasar f tag)) 0xC7F70200 true = false := by
  obtain ⟨r, x, found, wr, -⟩ := regFind_partOp
  unfold requester
  dsimp only
  split
  · simp [mgmtAllowed, found, wr]
  · rfl
theorem partOp_bits (n : Fin 16) (op : Nat) (h : op < 4) : bits (op + 4 * n) 0 2 = op ∧ bits (op + 4 * n) 2 4 = n := by
  simp only [bits_eq, Nat.reducePow]
  omega
theorem regAccess_partOp (b : Block) (who : Option Nat) (i3c : Bool) (v : Nat) : regAccess b who i3c 0xC7F70200 true v = (0, writePartOp v b) := by
  obtain ⟨r, x, found, -, write⟩ := regFind_partOp
  simp only [regAccess, found, write, if_true]
/-- A request that writes PART_OP on behalf of the platform. -/
def partOpReq (b : Block) (p : Path) (v : Nat) : MReq :=
  { path := pathCode p, func := pathFunc p, tag := pathTag p, addr := 0xC7F70200, write := true, data := v, at_ := b.now }
/-- A write of PART_OP is performed, and answered where the clocks and the count of releases stay as they were. -/
theorem mgmtDo_partOp {b : Block} {p : Path} {v : Nat} {who : Option Nat} (up : hubUp b = true) (clk : (writePartOp v b).clk = b.clk)
    (kept : (writePartOp v b).kept = b.kept) : mgmtDo b (partOpReq b p v) who = mgmtAnswer (writePartOp v b) (pathCode p) (pathFunc p) (pathTag p) true .done 0 0 := by
  have up' : hubUp (writePartOp v b) = true := by rw [hubUp, clk]; exact up
  have access := regAccess_partOp b who (pathCode p == 2) v
  simp only [mgmtDo, partOpReq, access, kept, up', bne_self_eq_false, Bool.not_true, Bool.or_false, Bool.false_eq_true, if_false]
  rfl
/-- What the platform's entry points answer. -/
theorem mgmtAnswer_platform (b : Block) {p : Path} (hp : ∀ f tag, p ≠ .kwasar f tag) :
    mgmtAnswer b (pathCode p) (pathFunc p) (pathTag p) true .done 0 0 = answered b p := by
  cases p with
  | firmware => rfl
  | kwasar f tag => exact absurd rfl (hp f tag)
  | i3c seq => rfl
/-- A request of the platform's that writes PART_OP passes every check (R57, R461) and is performed. -/
theorem mgmtReq_partOp {b : Block} {p : Path} {v : Nat} (h : Reaches b p 0xC7F70200 v) (hp : ∀ f tag, p ≠ .kwasar f tag) :
    mgmtReq p 0xC7F70200 8 true v b = mgmtDo (asked b p) (partOpReq (asked b p) p v) none := by
  obtain ⟨isOpen, notFull, -, -, found, early, reset, clock⟩ := h
  have there : (regFind 0xC7F70200).isNone = false := rfl
  have early' : tooEarly (asked b p) 0xC7F70200 true v = false := by rw [← early]; unfold asked; split <;> rfl
  have reset' : ((asked b p).dom (regDomain 0xC7F70200).1 (regDomain 0xC7F70200).2).inReset = false := by rw [← reset]; unfold asked; split <;> rfl
  have clock' : clockOff (asked b p) (regDomain 0xC7F70200).1 (regDomain 0xC7F70200).2 = false := by rw [← clock]; unfold asked; split <;> rfl
  have heard : (!pathOpen b (pathCode p) || pathFull b (pathCode p)) = false := by simp [isOpen, notFull]
  have reached : mgmtReach (asked b p) p 0xC7F70200 true v = mgmtDo (asked b p) (partOpReq (asked b p) p v) (whoPart (requester (asked b p) p)) := by
    unfold mgmtReach
    simp only [early', reset', clock', Bool.false_eq_true, if_false]
    rfl
  have platform : requester (asked b p) p = .platform := by
    cases p with
    | kwasar f tag => exact absurd rfl (hp f tag)
    | firmware => rfl
    | i3c seq => rfl
  have notCard : pathCode p ≠ 1 := by
    cases p with
    | kwasar f tag => exact absurd rfl (hp f tag)
    | firmware => decide
    | i3c seq => exact (by decide : (2 : Nat) ≠ 1)
  unfold mgmtReq
  rw [heard]
  simp only [Bool.false_eq_true, if_false]
  have entered : (if pathCode p = 2 then b.modHub fun h => { h with i3c := { h.i3c with busy := true, seq := pathTag p, status := 0xFF } } else b) = asked b p := rfl
  rw [entered, platform, there, reached, platform]
  simp [notCard, mgmtAllowed, whoPart]
/-- A write of PART_OP has its operation's effect and is answered DONE, where the effect leaves the clocks and the count of releases. -/
theorem partOp_writes {i : Instr} {s : State} {p : Path} {v : Nat} {f : Block → Block} (hi : exec i s = regWrite p 0xC7F70200 v s)
    (hf : ∀ b, writePartOp v b = f b) (keeps : ∀ b, (f b).clk = b.clk ∧ (f b).kept = b.kept) : Writes i s p 0xC7F70200 v f := by
  intro h
  have hp : ∀ c tag, p ≠ .kwasar c tag := by
    rintro c tag rfl
    obtain ⟨-, -, -, allowed, -⟩ := h
    rw [partOp_platform] at allowed
    cases allowed
  have up : hubUp (asked s.blk p) = true := by
    have isOpen := h.1
    simp only [pathOpen, Bool.and_eq_true] at isOpen
    rw [← isOpen.1.1]
    unfold asked
    split <;> rfl
  obtain ⟨clk, kept⟩ := keeps (asked s.blk p)
  refine ⟨_, hi, rfl, ?_⟩
  show settled (mgmtReq p 0xC7F70200 8 true v s.blk) = _
  rw [mgmtReq_partOp h hp, mgmtDo_partOp up (by rw [hf, clk]) (by rw [hf, kept]), mgmtAnswer_platform _ hp, hf]

/-! ASSIGN, KILL and SYNC. -/
/-- R400: every block of the partition is free and not fenced. -/
def BlocksFree (b : Block) (n : Nat) : Prop := ∀ k ∈ partBlocks b n, blockOwner b k = none ∧ bit b.hub.fence k = false
theorem assign_not_free {b : Block} {n : Nat} (h : (b.part n).st ≠ .free) : assign b n = opStatus b 1 n 1 := if_pos h
theorem assign_taken {b : Block} {n : Nat} (h : (b.part n).st = .free) (taken : ∃ k ∈ partBlocks b n, blockOwner b k ≠ none ∨ bit b.hub.fence k = true) :
    assign b n = opStatus b 1 n 2 := by
  obtain ⟨k, hk, why⟩ := taken
  unfold assign
  dsimp only
  rw [if_neg (by rw [h]; decide), if_pos]
  exact List.any_eq_true.mpr ⟨k, hk, by simpa [Option.isSome_iff_ne_none] using why⟩
/-- The partition table's part of an assignment. -/
def assignPart (b : Block) (n : Nat) : Block :=
  opStatus (b.modPart n fun p => { p with st := .active, killCause := 0, cellsZeroed := false, memZeroed := false }) 1 n 0
/-- The partition's tallies, counters and measurement are cleared. -/
def assignClear (b : Block) (n : Nat) : Block := partMeasClear (clearCounters (tallyZero b n) n) n
def assignCells (b : Block) (n : Nat) : Block := b.each (partCells b n) fun b k => b.modCell k fun c => { c with part := n, assigned := true }
def assignWins (b : Block) (n : Nat) : Block :=
  b.each (List.range 2048) fun b i => if (b.win n i).late = 0 then b else b.modWin n i fun w => { w with late := 0 }
theorem assign_free {b : Block} {n : Nat} (h : (b.part n).st = .free) (free : BlocksFree b n) :
    ∃ det, assign b n = eventPlat (assignWins (assignCells (assignClear (assignPart b n) n) n) n) n 0x0903 .done 0 chipLoc det := by
  refine ⟨detail [(16, 1, n), (17, 1, (partBlocks b n).length)], ?_⟩
  unfold assign
  dsimp only
  rw [if_neg (by rw [h]; decide), if_neg]
  · rfl
  · intro any
    obtain ⟨k, hk, why⟩ := List.any_eq_true.mp any
    obtain ⟨owner, fence⟩ := free k hk
    simp [owner, fence] at why
theorem assignWins_outer (b : Block) (n : Nat) : OnlyOuter b (assignWins b n) := by
  have each (l : List Nat) : ∀ x, OnlyOuter b x →
      OnlyOuter b (x.each l fun b i => if (b.win n i).late = 0 then b else b.modWin n i fun w => { w with late := 0 }) := by
    induction l with
    | nil => exact fun _ h => h
    | cons i l ih =>
      intro x h
      refine ih _ ?_
      dsimp only
      split
      · exact h
      · exact h
  exact each _ b rfl
theorem assignPart_part (b : Block) (n m : Nat) : (assignPart b n).part m =
    if m = n then { b.part n with st := .active, killCause := 0, cellsZeroed := false, memZeroed := false } else b.part m := by
  rw [assignPart, opStatus, Block.modHub_part, Block.modPart_part]
theorem assignPart_blocks (b : Block) (n m : Nat) : ((assignPart b n).part m).blocks = (b.part m).blocks := by
  rw [assignPart_part]
  split
  · next e => rw [e]
  · rfl
/-- Which cells a partition has follows from its blocks alone. -/
theorem partCells_congr {b x : Block} {n : Nat} (h : (x.part n).blocks = (b.part n).blocks) : partCells x n = partCells b n := by
  rw [partCells, partBlocks, h]; rfl
theorem mget_cleared {m : Map Nat} (l : List (Nat × Nat)) {a : Nat} (h : mget 0 m a = 0) : mget 0 (l.foldl (fun m r => mclear m r.1 (r.1 + r.2)) m) a = 0 := by
  induction l generalizing m with
  | nil => exact h
  | cons r l ih => exact ih (by rw [mget_mclear]; split <;> simp [h])
theorem clearCounters_cnt (b : Block) (n a : Nat) (lo : 0xC7F52000 + 0x100 * n ≤ a) (hi : a < 0xC7F52100 + 0x100 * n) : (clearCounters b n).cnt a = 0 := by
  unfold clearCounters Block.cnt
  dsimp only
  rw [List.foldl_cons]
  refine mget_cleared _ ?_
  rw [mget_mclear, if_pos (by omega)]
/-- What the platform's event and the windows leave alone. -/
structure Settled (b x : Block) : Prop where
  parts : x.parts = b.parts
  cells : x.cells = b.cells
  sec : x.sec = b.sec
  cnts : x.cnts = b.cnts
  clk : x.clk = b.clk
  kept : x.kept = b.kept
  opStatus : x.hub.opStatus = b.hub.opStatus
theorem OnlyOuter.settled {b x : Block} (h : OnlyOuter b x) : Settled b x := by
  have parts := congrArg Block.parts h
  have cells := congrArg Block.cells h
  have sec := congrArg Block.sec h
  have cnts := congrArg Block.cnts h
  have clk := congrArg Block.clk h
  have kept := congrArg Block.kept h
  have op := congrArg (fun b : Block => b.hub.opStatus) h
  exact ⟨parts, cells, sec, cnts, clk, kept, op⟩
/-- After an accepted ASSIGN, all but the cells is as its first steps leave it. -/
theorem assign_settled {b : Block} {n : Nat} (h : (b.part n).st = .free) (free : BlocksFree b n) :
    Settled (assignCells (assignClear (assignPart b n) n) n) (assign b n) := by
  obtain ⟨det, heq⟩ := assign_free h free
  rw [heq]
  exact ((assignWins_outer _ n).trans (eventPlat_outer _ _ _ _ _ _ _)).settled
theorem assignCells_cell (b : Block) (n : Nat) : OnlyCells b (assignCells b n) ∧
    ∀ k, (assignCells b n).cell k = if k ∈ partCells b n then { b.cell k with part := n, assigned := true } else b.cell k :=
  modCells_cell (f := fun c => { c with part := n, assigned := true }) (fun _ => rfl) _ b
theorem partMeasClear_meas (b : Block) (n : Nat) : mget 0 (partMeasClear b n).sec.partMeas n = 0 :=
  mget_mset_same (d := (0 : BitVec 384)) (i := n) (m := b.sec.partMeas) (v := 0)
theorem assignClear_cell (b : Block) (n k : Nat) : (assignClear b n).cell k = b.cell k := cell_congr (by rfl) k
theorem assignPart_cell (b : Block) (n k : Nat) : (assignPart b n).cell k = b.cell k := by
  rw [assignPart, opStatus, Block.modHub_cell, Block.modPart_cell]
/-- An accepted ASSIGN (R400, R495). -/
theorem assign_accepted {b : Block} {n : Nat} (h : (b.part n).st = .free) (free : BlocksFree b n) :
    let y := assign b n
    (y.part n).st = .active ∧ (y.part n).blocks = (b.part n).blocks ∧
      y.hub.opStatus = 2 + n * 8 ∧ mget 0 y.sec.partMeas n = 0 ∧ (∀ x, 0xC7F52000 + 0x100 * n ≤ x → x < 0xC7F52100 + 0x100 * n → y.cnt x = 0) ∧
      (∀ k ∈ partCells b n, y.cell k = { b.cell k with part := n, assigned := true }) ∧ (∀ k, k ∉ partCells b n → y.cell k = b.cell k) ∧
      ∀ m, m ≠ n → y.part m = b.part m := by
  intro y
  obtain ⟨parts, cells, sec, cnts, -, -, op⟩ := assign_settled h free
  obtain ⟨only, cell⟩ := assignCells_cell (assignClear (assignPart b n) n) n
  have onlyParts := congrArg Block.parts only
  have onlySec := congrArg Block.sec only
  have onlyCnts := congrArg Block.cnts only
  have onlyOp := congrArg (fun b : Block => b.hub.opStatus) only
  have part (m : Nat) : y.part m = (assignPart b n).part m := by
    rw [Block.part, parts]
    exact congrArg (fun p => mget {} p m) onlyParts
  have cell (k : Nat) : y.cell k = if k ∈ partCells b n then { b.cell k with part := n, assigned := true } else b.cell k := by
    rw [cell_congr cells, cell, partCells_congr (x := assignClear (assignPart b n) n) (assignPart_blocks b n n), assignClear_cell, assignPart_cell]
  refine ⟨?_, ?_, op.trans onlyOp, ?_, fun x lo hi => ?_, fun k hk => ?_, fun k hk => ?_, fun m hm => ?_⟩
  case refine_1 => rw [part, assignPart_part, if_pos rfl]
  case refine_2 => rw [part, assignPart_blocks]
  case refine_3 =>
    rw [sec]
    exact (congrArg (fun s => mget 0 s.partMeas n) onlySec).trans (partMeasClear_meas _ n)
  case refine_4 =>
    rw [Block.cnt, cnts]
    refine (congrArg (fun c => mget 0 c x) onlyCnts).trans ?_
    exact clearCounters_cnt (tallyZero (assignPart b n) n) n x lo hi
  case refine_5 => rw [cell, if_pos hk]
  case refine_6 => rw [cell, if_neg hk]
  case refine_7 => rw [part, assignPart_part, if_neg hm]
theorem assignClear_clk (b : Block) (n : Nat) : (assignClear b n).clk = b.clk ∧ (assignClear b n).kept = b.kept := ⟨rfl, rfl⟩
/-- ASSIGN leaves the clocks and the root of trust's kept state as they are. -/
theorem assign_clk (b : Block) (n : Nat) : (assign b n).clk = b.clk ∧ (assign b n).kept = b.kept := by
  by_cases h : (b.part n).st = .free
  · by_cases taken : ∃ k ∈ partBlocks b n, blockOwner b k ≠ none ∨ bit b.hub.fence k = true
    · rw [assign_taken h taken]
      exact ⟨rfl, rfl⟩
    · have free : BlocksFree b n := by
        unfold BlocksFree
        push Not at taken
        exact fun k hk => ⟨(taken k hk).1, by simpa using (taken k hk).2⟩
      obtain ⟨-, -, -, -, clk, kept, -⟩ := assign_settled h free
      obtain ⟨only, -⟩ := assignCells_cell (assignClear (assignPart b n) n) n
      have onlyClk := congrArg Block.clk only
      have onlyKept := congrArg Block.kept only
      obtain ⟨clearClk, clearKept⟩ := assignClear_clk (assignPart b n) n
      exact ⟨clk.trans (onlyClk.trans clearClk), kept.trans (onlyKept.trans clearKept)⟩
  · rw [assign_not_free h]
    exact ⟨rfl, rfl⟩

/-! KILL. -/
theorem killOp_active {b : Block} {n : Nat} (h : (b.part n).st = .active) : killOp b n = killPart (opStatus b 2 n 0) n 1 := by rw [killOp, h]
theorem killOp_free {b : Block} {n : Nat} (h : (b.part n).st = .free) : killOp b n = opStatus b 2 n 1 := by rw [killOp, h]
theorem killOp_ended {b : Block} {n : Nat} (h : (b.part n).st = .killing ∨ (b.part n).st = .scrubbing) : killOp b n = opStatus b 2 n 3 := by
  rw [killOp]
  rcases h with h | h
  · rw [h]
  · rw [h]
theorem killPart_st {b : Block} {n : Nat} (h : (b.part n).st = .active) (cause : Nat) : ((killPart b n cause).part n).st = .killing := by
  have mine := killPart_life h cause n
  rw [if_pos rfl] at mine
  exact congrArg Prod.fst mine
theorem killOp_busy {b : Block} {n : Nat} (hn : n < 16) (h : (b.part n).st = .active) : opBusy (killOp b n) = true := by
  have st := killPart_st (b := opStatus b 2 n 0) h 1
  rw [killOp_active h, opBusy, Bool.or_eq_true]
  exact .inr (List.any_eq_true.mpr ⟨n, List.mem_range.mpr hn, by rw [st]; rfl⟩)
theorem killOp_clk (b : Block) (n : Nat) : (killOp b n).clk = b.clk ∧ (killOp b n).kept = b.kept := by
  unfold killOp
  split
  · exact killPart_clk (opStatus b 2 n 0) n 1
  · exact ⟨rfl, rfl⟩
  · exact ⟨rfl, rfl⟩

/-! SYNC. -/
/-- The clocks, the root of trust's kept state and the cells are as they were. -/
structure Calm (b x : Block) : Prop where
  clk : x.clk = b.clk
  kept : x.kept = b.kept
  cells : x.cells = b.cells
theorem Calm.trans {a b c : Block} (h : Calm a b) (g : Calm b c) : Calm a c :=
  ⟨g.clk.trans h.clk, g.kept.trans h.kept, g.cells.trans h.cells⟩
theorem calm_each {α : Type} {F : Block → α → Block} (h : ∀ b x, Calm b (F b x)) (l : List α) (b : Block) : Calm b (b.each l F) := by
  induction l generalizing b with
  | nil => exact ⟨rfl, rfl, rfl⟩
  | cons x l ih => exact (h b x).trans (ih _)
theorem modHub_calm (b : Block) (f : Hub → Hub) : Calm b (b.modHub f) := ⟨rfl, rfl, rfl⟩
theorem finish_calm (b : Block) (id : Nat) (st : Status) (res : Nat) (fl : Flags) : Calm b (finish b id st res fl) := by
  have h := finish_rings b id st res fl
  exact ⟨h.clk, (keeps_of_rings h).kept, h.cells⟩
theorem unmapPump_calm (b : Block) : Calm b (unmapPump b) := by
  unfold unmapPump
  extract_lets ready freed
  have ended : Calm b freed := by
    unfold freed
    exact calm_each (fun b c => (calm_each (fun b k => modHub_calm b _) c.wait b).trans (finish_calm _ _ _ _ _)) ready b
  split
  · split
    · exact ended
    · exact ended.trans (modHub_calm freed _)
  · exact ended
theorem syncOp_clk (b : Block) (n : Nat) : (syncOp b n).clk = b.clk ∧ (syncOp b n).kept = b.kept := by
  have pumped := unmapPump_calm ((opStatus (dropXlate b n fun _ => true) 3 n 0).modHub fun h => { h with syncing := some n })
  obtain ⟨only, -⟩ := dropXlate_cell b n fun _ => true
  have onlyClk := congrArg Block.clk only
  have onlyKept := congrArg Block.kept only
  exact ⟨pumped.clk.trans onlyClk, pumped.kept.trans onlyKept⟩
/-- R402: after a SYNC no cell of the partition holds a translation. -/
theorem syncOp_xlate {b : Block} {n k : Nat} (hk : k ∈ partCells b n) : ((syncOp b n).cell k).xlate = [] := by
  have pumped := unmapPump_calm ((opStatus (dropXlate b n fun _ => true) 3 n 0).modHub fun h => { h with syncing := some n })
  have dropped := dropXlate_all hk
  rw [syncOp, cell_congr pumped.cells, Block.modHub_cell, opStatus, Block.modHub_cell, dropped]

end Sys2Proof.Partitions
end

/-! The steps of a kill and the zeroing that ends it (R397, R404 to R406). -/
section
namespace Sys2Proof.Partitions
open Sys2Proof.Machine Sys2Proof.Claims Sys2Proof.Issue Sys2Proof.Aborts Sys2Proof.Kill

/-- R404, R406: what a kill does with a partition and its work. -/
theorem killPart_accepted {b : Block} {n : Nat} (cause : Nat) (h : (b.part n).st = .active) (unique : ∀ c ∈ b.hub.cmds, ∀ d ∈ b.hub.cmds, c.id = d.id → c = d)
    (ordered : ∀ i ∈ (b.part n).commits, ∀ c, cmdOf b i = some c → c.st = .commit) :
    let y := killPart b n cause
    (y.part n).st = .killing ∧ (y.part n).killCause = cause ∧ (y.part n).running = none ∧ (y.part n).ahead = none ∧ (y.part n).image = none ∧
      (∀ k ∈ partCells b n, Quenched (y.cell k)) ∧ (∀ c ∈ y.fab.colls, c.part ≠ n) ∧ (∀ r ∈ y.rem.remits, r.part ≠ n) ∧ (∀ w ∈ y.hub.watches, w.part ≠ n) ∧
      (∀ c ∈ b.hub.cmds, c.part = n → ∃ d, cmdOf y c.id = some d ∧ d.status = .aborted ∧ (d.st = .commit ∨ d.st = .posting)) ∧
      ∀ m, m ≠ n → (y.part m).st = (b.part m).st := by
  have mine := killPart_life h cause n
  rw [if_pos rfl, life] at mine
  simp only [Prod.mk.injEq] at mine
  obtain ⟨st, killCause, running, ahead, image⟩ := mine
  refine ⟨st, killCause, running, ahead, image, fun k hk => killPart_quenched h cause hk, killPart_colls h cause, killPart_remits h cause,
    killPart_watches h cause, fun c hc hn => killPart_aborted h cause unique ordered hc hn, fun m hm => ?_⟩
  have other := killPart_life h cause m
  rw [if_neg hm] at other
  exact congrArg Prod.fst other

/-! The stop step. -/
/-- The partition is SCRUBBING. -/
def stopMarked (b : Block) (n : Nat) : Block :=
  b.modPart n fun p => { p with st := .scrubbing, stopAt := b.now, scrubBytes := p.zeroList.foldl (fun a z => a + z.2) 0 }
/-- A cell that stops and starts its zeroing keeps whether it is fenced. -/
def stopCell (cyc : Nat) (c : Cell) : Cell := { c.startZero cyc with fenced := c.fenced }
theorem killStopDone_eq {b : Block} {n : Fin 16} (h : (b.part n).st = .killing) :
    killStopDone n b = (stopMarked b n).each (partCells (stopMarked b n) n) fun b k => b.modCell k fun c => stopCell b.cycles c := by
  unfold killStopDone
  rw [if_neg (by rw [h]; decide)]
  rfl
theorem stopMarked_blocks (b : Block) (n : Nat) : ((stopMarked b n).part n).blocks = (b.part n).blocks := by
  rw [stopMarked, Block.modPart_part_same]
theorem killStopDone_cell {b : Block} {n : Fin 16} (h : (b.part n).st = .killing) : OnlyCells (stopMarked b n) (killStopDone n b) ∧
    ∀ k, (killStopDone n b).cell k = if k ∈ partCells b n then stopCell b.cycles (b.cell k) else b.cell k := by
  have step (x : Block) (k : Nat) (hx : OnlyCells (stopMarked b n) x) :
      OnlyCells (stopMarked b n) (x.modCell k fun c => stopCell x.cycles c) ∧
        ∀ j, (x.modCell k fun c => stopCell x.cycles c).cell j = if j = k then stopCell b.cycles (x.cell j) else x.cell j := by
    have cycles := congrArg Block.cycles hx
    have cycles : x.cycles = b.cycles := cycles
    refine ⟨hx, fun j => ?_⟩
    rw [Block.modCell_cell, cycles]
    split
    · next e => rw [e]
    · rfl
  obtain ⟨only, cell⟩ := each_cell (I := OnlyCells (stopMarked b n)) (f := stopCell b.cycles) (fun _ => rfl) step (partCells (stopMarked b n) n) (b := stopMarked b n) rfl
  rw [killStopDone_eq h]
  refine ⟨only, fun k => (cell k).trans ?_⟩
  rw [partCells_congr (stopMarked_blocks b n), stopMarked, Block.modPart_cell]
/-- R404: once everything has stopped, the partition is SCRUBBING and its cells are zeroed. -/
theorem killStopDone_accepted {b : Block} {n : Fin 16} (h : (b.part n).st = .killing) :
    let y := killStopDone n b
    (y.part n).st = .scrubbing ∧ y.mem = b.mem ∧
      (∀ k ∈ partCells b n, (y.cell k).zeroing = true ∧ Quenched (y.cell k) ∧ (y.cell k).fenced = (b.cell k).fenced) ∧
      ∀ k, k ∉ partCells b n → y.cell k = b.cell k := by
  obtain ⟨only, cell⟩ := killStopDone_cell h
  have st := congrArg (fun x : Block => (x.part n).st) only
  have mem := congrArg Block.mem only
  refine ⟨st.trans (by rw [stopMarked, Block.modPart_part_same]), mem, fun k hk => ?_, fun k hk => ?_⟩
  · rw [cell, if_pos hk]
    exact ⟨rfl, ⟨rfl, rfl, rfl, rfl, rfl⟩, rfl⟩
  · rw [cell, if_neg hk]

/-! The end of zeroing. -/
/-- Nothing but LPDDR6 differs. -/
def OnlyMem (b x : Block) : Prop := { x with mem := b.mem, merr := b.merr } = b
theorem zeroAll_mem (l : List (Nat × Nat)) (b : Block) : OnlyMem b (b.each l fun b z => b.memZero z.1 z.2) ∧
    ∀ a, (b.each l fun b z => b.memZero z.1 z.2).mem.byte a =
      if l.any (fun z => decide (z.1 ≤ a) && decide (a < z.1 + z.2)) = true then 0 else b.mem.byte a := by
  induction l generalizing b with
  | nil => exact ⟨rfl, fun a => rfl⟩
  | cons z l ih =>
    obtain ⟨only, byte⟩ := ih (b.memZero z.1 z.2)
    have rest := congrArg (fun x : Block => { x with mem := b.mem, merr := b.merr }) only
    refine ⟨rest, fun a => (byte a).trans ?_⟩
    rw [Block.memZero, Memory.byte_zero, List.any_cons]
    by_cases here : z.1 ≤ a ∧ a < z.1 + z.2
    · simp [here]
    · have outside : (decide (z.1 ≤ a) && decide (a < z.1 + z.2)) = false := by simpa using here
      rw [outside, if_neg here, Bool.false_or]
/-- The partition's pages are freed. -/
def freePages (b : Block) (n : Nat) : Block := b.modHub fun h => { h with pageOwner := h.pageOwner.filter fun e => e.2 != n + 1 }
theorem freePages_owner (b : Block) (n key : Nat) : pageOwner (freePages b n) key ≠ some n := by
  have others : mget 0 (b.hub.pageOwner.filter fun e => e.2 != n + 1) key ≠ n + 1 :=
    Quiescent.mget_of_forall (p := fun v => v ≠ n + 1) (by omega) (fun e he => by simpa using (List.mem_filter.mp he).2) key
  unfold pageOwner
  show (match mget 0 (b.hub.pageOwner.filter fun e => e.2 != n + 1) key with | 0 => none | n + 1 => some n) ≠ some n
  split
  · exact nofun
  · next m hm => exact fun e => others (by rw [hm, Option.some.inj e])
/-- The partition is FREE. -/
def scrubMarked (b : Block) (n : Nat) : Block :=
  b.modPart n fun p => { p with st := .free, zeroList := [], cellsZeroed := true, memZeroed := true }
/-- What is left of the partition once its zeroing has ended. -/
def scrubbed (b : Block) (n : Nat) : Block :=
  (scrubMarked (freePages (b.each (b.part n).zeroList fun b z => b.memZero z.1 z.2) n) n).each (partCells b n)
    fun b k => b.modCell k fun c => { c with assigned := false, part := 0 }
theorem scrubbed_now (b : Block) (n : Nat) : (scrubbed b n).now = b.now := by
  obtain ⟨zeroed, -⟩ := zeroAll_mem (b.part n).zeroList b
  obtain ⟨only, -⟩ := modCells_cell (f := fun c => { c with assigned := false, part := 0 }) (fun _ => rfl) (partCells b n)
    (scrubMarked (freePages (b.each (b.part n).zeroList fun b z => b.memZero z.1 z.2) n) n)
  have onlyNow := congrArg Block.now only
  have zeroedNow := congrArg Block.now zeroed
  exact onlyNow.trans zeroedNow
theorem partScrubbed_eq {b : Block} {n : Fin 16} (h : (b.part n).st = .scrubbing) (zeroed : ∀ k ∈ partCells b n, (b.cell k).zeroing = false) :
    partScrubbed n b = eventPlat (scrubbed b n) n 0x0902 .done 0 chipLoc (detail [(16, 1, n), (20, 4, (b.now - (b.part n).killAt) / 1000)]) := by
  unfold partScrubbed
  dsimp only
  have done : (decide ((b.part n).st ≠ .scrubbing) || (partCells b n).any fun k => (b.cell k).zeroing) = false := by
    rw [Bool.or_eq_false_iff]
    exact ⟨by simp [h], List.any_eq_false.mpr fun k hk => by simp [zeroed k hk]⟩
  rw [if_neg (by rw [done]; decide)]
  rw [← scrubbed_now b n]
  rfl
theorem scrubbed_accepted (b : Block) (n : Nat) : let y := scrubbed b n
    (y.part n).st = .free ∧ (∀ key, pageOwner y key ≠ some n) ∧ (∀ k ∈ partCells b n, (y.cell k).assigned = false) ∧
      ∀ a, y.mem.byte a = if (b.part n).zeroList.any (fun z => decide (z.1 ≤ a) && decide (a < z.1 + z.2)) = true then 0 else b.mem.byte a := by
  obtain ⟨-, byte⟩ := zeroAll_mem (b.part n).zeroList b
  obtain ⟨only, cell⟩ := modCells_cell (f := fun c => { c with assigned := false, part := 0 }) (fun _ => rfl) (partCells b n)
    (scrubMarked (freePages (b.each (b.part n).zeroList fun b z => b.memZero z.1 z.2) n) n)
  have st := congrArg (fun x : Block => (x.part n).st) only
  have owner (key : Nat) := congrArg (fun x : Block => pageOwner x key) only
  have mem := congrArg Block.mem only
  refine ⟨st.trans (by rw [scrubMarked, Block.modPart_part_same]), fun key e => ?_, fun k hk => ?_, fun a => ?_⟩
  · exact freePages_owner (b.each (b.part n).zeroList fun b z => b.memZero z.1 z.2) n key ((owner key).symm.trans e)
  · rw [scrubbed, cell, if_pos hk]
  · rw [← byte a]
    exact congrArg (fun m => m.byte a) mem

end Sys2Proof.Partitions
end

/-! The registers, pages and ends of a partition's life, as the obligation states them (R44, R56, R397, R400 to R408). -/
section
namespace Sys2Proof.Partitions
open Sys2Proof.Machine Sys2Proof.Claims Sys2Proof.Issue Sys2Proof.Aborts Sys2Proof.Kill

/-- R56, R401: a new MTT base is a multiple of 4 MiB, and every cached translation of the old table is dropped. -/
theorem writeMttBase_spec (b : Block) (n v : Nat) : let y := writeMttBase b n v
    (y.part n).mttBase = v % 2 ^ 40 / 2 ^ 22 * 2 ^ 22 ∧ (y.part n).mttEn = bit v 63 ∧ y.mem = b.mem ∧ ∀ k ∈ partCells b n, (y.cell k).xlate = [] := by
  obtain ⟨only, -⟩ := dropXlate_cell (b.modPart n fun p => { p with mttBase := bits v 22 18 * 2 ^ 22, mttEn := bit v 63 }) n fun _ => true
  have part := congrArg (fun x : Block => x.part n) only
  have mem := congrArg Block.mem only
  have part : (writeMttBase b n v).part n = { b.part n with mttBase := bits v 22 18 * 2 ^ 22, mttEn := bit v 63 } := part.trans (Block.modPart_part_same _ _ _)
  refine ⟨?_, by rw [part], mem, fun k hk => ?_⟩
  · rw [part]
    show bits v 22 18 * 2 ^ 22 = v % 2 ^ 40 / 2 ^ 22 * 2 ^ 22
    rw [bits_eq]
    omega
  · refine dropXlate_all (b := b.modPart n _) (n := n) ?_
    rwa [partCells_congr (b := b) (by rw [Block.modPart_part_same])]
/-- R397: the zero-fill of a freed page. -/
theorem pageZeroed_spec (e : Fin 4) (p : Fin 131072) (b : Block) (h : ∃ z ∈ b.hub.zeroing, z.1 = pageKey e p) : let y := pageZeroed e p b
    y.cells = b.cells ∧ (∀ z ∈ y.hub.zeroing, z.1 ≠ pageKey e p) ∧
      ∀ a, y.mem.byte a = if pageMpa (pageKey e p) ≤ a ∧ a < pageMpa (pageKey e p) + 2 ^ 21 then 0 else b.mem.byte a := by
  rw [pageZeroed_eq h]
  exact ⟨rfl, fun z hz => by simpa using (List.mem_filter.mp hz).2, fun a => Memory.byte_zero _ _ _ _⟩
/-- R406: zeroing that passes its bound is reported, and the partition stays SCRUBBING. -/
theorem scrubBoundExpiry_late {b : Block} {n : Fin 16} (st : (b.part n).st = .scrubbing) (first : (b.part n).scrubLate = false)
    (late : (b.part n).stopAt + 10000000 + zeroNs (b.part n).scrubBytes < b.now) :
    scrubBoundExpiry n b = eventPlat (b.modPart n fun p => { p with scrubLate := true }) n 0x0902 .timeout 0 chipLoc
      (detail [(16, 1, n), (20, 4, (b.now - (b.part n).killAt) / 1000)]) := by
  unfold scrubBoundExpiry
  exact if_pos ⟨st, by rw [first]; rfl, late⟩

/-! Writes of PART_OP (R400, R402, R404). -/
theorem writePartOp_assign (n : Fin 16) (b : Block) : writePartOp (1 + 4 * n) b = assign b n := by
  obtain ⟨op, part⟩ := partOp_bits n 1 (by decide)
  simp only [writePartOp, op, part]
theorem writePartOp_kill (n : Fin 16) (b : Block) : writePartOp (2 + 4 * n) b = killOp b n := by
  obtain ⟨op, part⟩ := partOp_bits n 2 (by decide)
  simp only [writePartOp, op, part]
theorem writePartOp_sync (n : Fin 16) (b : Block) : writePartOp (3 + 4 * n) b = syncOp b n := by
  obtain ⟨op, part⟩ := partOp_bits n 3 (by decide)
  simp only [writePartOp, op, part]

/-- Settles O46: it holds. ASSIGN, KILL and SYNC are writes of PART_OP, which no check refuses to the platform; each step of a kill keeps
what the steps before it ended (`Aborts.Ends`), so a command, collective, remittance or wait of the partition that one step ends stays
ended; the changes made cell by cell are read off as one change of each named cell (`Kill.each_cell`). -/
theorem partitionLife : Obligations.PartitionLife := by
  unfold Obligations.PartitionLife
  refine ⟨?granules, ?base, ?zeroed, ?writes, ?table, ?steps⟩
  case granules => exact fun e p o he hp ho => granule_place he hp ho
  case base => exact fun b n v _ => writeMttBase_spec b n v
  case zeroed => exact fun e p s h => answers_act rfl (pageZeroed_spec e p s.blk h)
  case writes =>
    exact fun a n s => ⟨partOp_writes rfl (writePartOp_assign n) fun b => assign_clk b n,
      partOp_writes rfl (writePartOp_kill n) fun b => killOp_clk b n, partOp_writes rfl (writePartOp_sync n) fun b => syncOp_clk b n⟩
  case table =>
    exact fun b n hn => ⟨⟨assign_not_free, assign_taken, assign_accepted⟩, fun h => ⟨killOp_active h, killOp_busy hn h⟩, killOp_free, killOp_ended,
      fun k hk => syncOp_xlate hk, fun cause h unique ordered => killPart_accepted cause h unique ordered⟩
  case steps =>
    refine fun n s => ⟨fun h => answers_act rfl (killStopDone_accepted h), fun h zeroed => answers_act rfl ?_, fun h first late => answers_act rfl ?_⟩
    · exact ⟨_, partScrubbed_eq h zeroed, scrubbed_accepted s.blk n⟩
    · exact ⟨_, scrubBoundExpiry_late h first late, rfl⟩

end Sys2Proof.Partitions
end

/-! A register write that reaches its register is performed and answered on the path that it came by (R54, R57, R461, R481). -/
section
namespace Sys2Proof.Requests
open Sys2Proof.Machine Sys2Proof.Claims

/-- What the answer of a request goes back by: the clocks, the count of releases and the Kwasar link. -/
structure KeepsWay (b y : Block) : Prop where
  clk : y.clk = b.clk
  releases : y.kept.releases = b.kept.releases
  link : kwUp y = kwUp b
theorem KeepsWay.refl (b : Block) : KeepsWay b b := ⟨rfl, rfl, rfl⟩
theorem KeepsWay.trans {a b c : Block} (h : KeepsWay a b) (g : KeepsWay b c) : KeepsWay a c :=
  ⟨g.clk.trans h.clk, g.releases.trans h.releases, g.link.trans h.link⟩
theorem KeepsWay.hubUp {b y : Block} (h : KeepsWay b y) : hubUp y = hubUp b := by rw [Machine.hubUp, h.clk]; rfl
theorem keepsWay_of_posts {b y : Block} (h : Posts b y) : KeepsWay b y := ⟨h.clk, congrArg SecKept.releases h.kept, h.kwUp⟩

/-! The checks of a request. -/
/-- A request enters without a change of what its checks look at: at most the I3C target's registers differ. -/
theorem asked_eq (b : Block) (p : Path) : ∃ x, asked b p = b.modHub fun h => { h with i3c := x } := by
  unfold asked
  split
  · exact ⟨_, rfl⟩
  · exact ⟨b.hub.i3c, rfl⟩
theorem asked_keepsWay (b : Block) (p : Path) : KeepsWay b (asked b p) := by
  obtain ⟨x, h⟩ := asked_eq b p
  rw [h]
  exact ⟨rfl, rfl, rfl⟩
/-- The request that writes `v` to the register at `a`. -/
def writeReq (b : Block) (p : Path) (a v : Nat) : MReq :=
  { path := pathCode p, func := pathFunc p, tag := pathTag p, addr := a, write := true, data := v, at_ := b.now }
/-- A request that passes every check is performed. -/
theorem mgmtReq_reaches {b : Block} {p : Path} {a v : Nat} (h : Reaches b p a v) :
    mgmtReq p a 8 true v b = mgmtDo (asked b p) (writeReq (asked b p) p a v) (whoPart (requester (asked b p) p)) := by
  obtain ⟨isOpen, notFull, aligned, allowed, found, early, reset, clock⟩ := h
  have heard : (!pathOpen b (pathCode p) || pathFull b (pathCode p)) = false := by simp [isOpen, notFull]
  have there : (regFind a).isNone = false := by simpa using found
  obtain ⟨x, entered⟩ := asked_eq b p
  have allowed' : mgmtAllowed (asked b p) (requester (asked b p) p) a true = true := by rw [entered]; exact allowed
  have early' : tooEarly (asked b p) a true v = false := by rw [entered]; exact early
  have reset' : ((asked b p).dom (regDomain a).1 (regDomain a).2).inReset = false := by rw [entered]; exact reset
  have clock' : clockOff (asked b p) (regDomain a).1 (regDomain a).2 = false := by rw [entered]; exact clock
  have reached : mgmtReach (asked b p) p a true v = mgmtDo (asked b p) (writeReq (asked b p) p a v) (whoPart (requester (asked b p) p)) := by
    unfold mgmtReach
    simp only [early', reset', clock', Bool.false_eq_true, if_false]
    rfl
  unfold mgmtReq
  rw [heard]
  simp only [Bool.false_eq_true, if_false]
  have inside : (if pathCode p = 2 then b.modHub fun h => { h with i3c := { h.i3c with busy := true, seq := pathTag p, status := 0xFF } } else b) = asked b p := rfl
  rw [inside, there, reached]
  simp [aligned, allowed']

/-! The answer. -/
/-- A performed write is answered DONE: to the card while its link is up. -/
theorem mgmtAnswer_done {b : Block} {p : Path} (up : pathCode p = 1 → kwUp b = true) :
    mgmtAnswer b (pathCode p) (pathFunc p) (pathTag p) true .done 0 0 = answered b p := by
  cases p with
  | firmware => rfl
  | kwasar f tag => exact if_pos (up rfl)
  | i3c seq => rfl
/-- A write of a register that keeps the way of its answer. -/
theorem mgmtDo_write {b : Block} {p : Path} {a v : Nat} {who : Option Nat} {r : RegRow} {x : RegAt} (found : regFind a = some (r, x))
    (up : hubUp b = true) (link : pathCode p = 1 → kwUp b = true) (keeps : KeepsWay b (r.write { x with who := who, i3c := pathCode p == 2 } v b)) :
    mgmtDo b (writeReq b p a v) who = answered (r.write { x with who := who, i3c := pathCode p == 2 } v b) p := by
  have up' := keeps.hubUp.trans up
  have access : regAccess b who (pathCode p == 2) a true v = (0, r.write { x with who := who, i3c := pathCode p == 2 } v b) := by
    simp only [regAccess, found, if_true]
  rw [← mgmtAnswer_done fun hp => keeps.link.trans (link hp)]
  simp only [mgmtDo, writeReq, access, keeps.releases, up', bne_self_eq_false, Bool.not_true, Bool.or_false, Bool.false_eq_true, if_false]
  rfl
/-- A command that writes a register has the effect of its row, where that keeps the way of its answer. -/
theorem writes_of_row {i : Instr} {s : State} {p : Path} {a v : Nat} {f : Block → Block} {r : RegRow} {x : RegAt} (hi : exec i s = regWrite p a v s)
    (found : regFind a = some (r, x)) (hf : ∀ who b, r.write { x with who := who, i3c := pathCode p == 2 } v b = f b)
    (keeps : ∀ b, KeepsWay b (f b)) : Writes i s p a v f := by
  intro h
  have way := asked_keepsWay s.blk p
  have isOpen := h.1
  simp only [pathOpen, Bool.and_eq_true, Bool.or_eq_true, bne_iff_ne] at isOpen
  obtain ⟨⟨up, -⟩, link⟩ := isOpen
  have link : pathCode p = 1 → kwUp (asked s.blk p) = true := fun hp => way.link.trans (link.resolve_left fun h => h hp)
  refine ⟨_, hi, rfl, ?_⟩
  show settled (mgmtReq p a 8 true v s.blk) = _
  rw [mgmtReq_reaches h, mgmtDo_write found (way.hubUp.trans up) link (by rw [hf]; exact keeps _), hf]

end Sys2Proof.Requests
end

/-! Attestation of a partition (R495, R499, R500). -/
section
namespace Sys2Proof.Security
open Sys2Proof.Machine Sys2Proof.Claims Sys2Proof.Requests

/-! DMA of attestation and staging only queues and issues transfers. -/
theorem dmaWrites_posts (n func addr : Nat) (use : Nat → DmaUse) (bulk : Bool) (fuel len v : Nat) (b : Block) :
    Posts b (dmaWrites n func addr use bulk fuel len v b) := by
  induction fuel generalizing addr len v b with
  | zero => exact .refl b
  | succ fuel ih =>
    unfold dmaWrites
    split
    · exact .refl b
    · exact .trans (dmaPush_posts _ _) (ih _ _ _ _)
theorem stageReads_posts (func fuel addr pos len : Nat) (b : Block) : Posts b (stageReads func fuel addr pos len b) := by
  induction fuel generalizing addr pos len b with
  | zero => exact .refl b
  | succ fuel ih =>
    unfold stageReads
    split
    · exact .refl b
    · exact .trans (dmaPush_posts _ _) (ih _ _ _ _)

/-! The request of one partition. -/
theorem mget_mmod {α : Type} [DecidableEq α] (d : α) (m : Map α) (i : Nat) (f : α → α) (j : Nat) :
    mget d (mmod d m i f) j = if j = i then f (mget d m i) else mget d m j := mget_mset _ _ _ _ _
@[simp] theorem modAttest_partMeas (b : Block) (n : Nat) (f : Attest → Attest) : (b.modAttest n f).sec.partMeas = b.sec.partMeas := rfl
theorem modAttest_attest (b : Block) (n m : Nat) (f : Attest → Attest) :
    (b.modAttest n f).attest m = if m = n then f (b.attest n) else b.attest m := mget_mmod _ _ _ _ _
@[simp] theorem modAttest_attest_same (b : Block) (n : Nat) (f : Attest → Attest) : (b.modAttest n f).attest n = f (b.attest n) := by
  rw [modAttest_attest, if_pos rfl]
/-- What MEAS_IN[n] holds. -/
def measIn (b : Block) (n : Nat) : BitVec 384 := BitVec.ofNat 384 (regs48 b (measInAddr n))
/-- EXTEND: the partition's measurement takes in MEAS_IN (R495). -/
def extended (b : Block) (n : Nat) : Block := (partExtend b n (measIn b n)).modAttest n fun a => { a with status := 0 }
theorem partExtend_partMeas (b : Block) (n : Nat) (d : BitVec 384) : (partExtend b n d).sec.partMeas = mmod 0 b.sec.partMeas n (measExtend · d) := rfl
theorem extended_partMeas (b : Block) (n m : Nat) :
    mget 0 (extended b n).sec.partMeas m = if m = n then measExtend (mget 0 b.sec.partMeas n) (measIn b n) else mget 0 b.sec.partMeas m := by
  rw [extended, modAttest_partMeas, partExtend_partMeas, mget_mmod]
/-- A change of the measurements leaves the requests, whatever the measurements are. -/
theorem modPartMeas_attest (b : Block) (f : Sec → Map (BitVec 384)) (n : Nat) : (b.modSec fun s => { s with partMeas := f s }).attest n = b.attest n := rfl
/-- One more extension is counted. -/
def counted (a : Attest) : Attest := { a with extends_ := (a.extends_ + 1) % 2 ^ 32 }
theorem partExtend_attest (b : Block) (n m : Nat) (d : BitVec 384) :
    (partExtend b n d).attest m = if m = n then counted (b.attest n) else b.attest m := by
  unfold partExtend
  rw [modAttest_attest, modPartMeas_attest, modPartMeas_attest]
  rfl
theorem extended_attest (b : Block) (n m : Nat) :
    (extended b n).attest m = if m = n then { counted (b.attest n) with status := 0 } else b.attest m := by
  rw [extended, modAttest_attest, partExtend_attest, partExtend_attest, if_pos rfl]
  split
  · rfl
  · rfl

/-! A write of ATTEST_CTRL. -/
/-- The block when a REPORT or CERTS begins: EXTEND of the same write has acted. -/
def requested (b : Block) (n v : Nat) : Block := if bit v 2 = true then extended b n else b
/-- The length and the bytes that a REPORT or CERTS writes. -/
def answerLen (b : Block) (v : Nat) : Nat := if bit v 0 = true then 3776 else (certBlob b).1
def answerData (b : Block) (n v : Nat) : Nat := if bit v 0 = true then attestReport b n else (certBlob b).2
/-- A request of `len` bytes is in progress. -/
def begun (b : Block) (n v len : Nat) : Block := b.modAttest n fun a => { a with busy := true, kind := b2n (bit v 1), left := len, total := len, bad := none }
/-- A request that is refused when it begins. -/
def refuse (x : Block) (n : Nat) (st : Status) : Block := attestEnd (x.modAttest n fun a => { a with total := 0, left := 0 }) n st
/-- REPORT or CERTS: three checks, then the answer is written to the partition's host memory (R499, R500). -/
def answer (e : Block) (n v : Nat) : Block :=
  let len := answerLen e v
  let x := begun e n v len
  if !inAperture x n (attestDest e n) len then refuse x n .protection
  else if attestDest e n % 64 ≠ 0 then refuse x n .alignment
  else if !kwUp x then refuse x n .linkDown
  else dmaWrites n (x.part n).mgrFunc (attestDest e n) (fun l => .sec n l) true (len / 512 + 1) len (answerData e n v) x
/-- The rest of a write of ATTEST_CTRL once its EXTEND has acted. -/
def afterExtend (e : Block) (n v : Nat) : Block := if !bit v 0 && !bit v 1 then e else answer e n v
theorem attestCtrl_eq (b : Block) (n v : Nat) : attestCtrl b n v =
    if (b.attest n).busy = true then b
    else if (bit v 0 && bit v 1) = true then b.modAttest n fun a => { a with status := Status.descInvalid.code }
    else afterExtend (requested b n v) n v := by
  unfold attestCtrl afterExtend answer answerLen answerData
  cases bit v 0 with
  | true => rfl
  | false => rfl
theorem attestCtrl_busy {b : Block} {n : Nat} (v : Nat) (busy : (b.attest n).busy = true) : attestCtrl b n v = b := if_pos busy
/-- REPORT and CERTS in one write are refused. -/
theorem attestCtrl_both {b : Block} {n v : Nat} (idle : (b.attest n).busy = false) (report : bit v 0 = true) (certs : bit v 1 = true) :
    attestCtrl b n v = b.modAttest n fun a => { a with status := Status.descInvalid.code } := by
  rw [attestCtrl_eq, if_neg (by simp [idle]), if_pos (by simp [report, certs])]
theorem attestCtrl_extend {b : Block} {n v : Nat} (idle : (b.attest n).busy = false) (report : bit v 0 = false) (certs : bit v 1 = false)
    (extend : bit v 2 = true) : attestCtrl b n v = extended b n := by
  rw [attestCtrl_eq, if_neg (by simp [idle]), if_neg (by simp [report]), afterExtend, if_pos (by simp [report, certs]), requested, if_pos extend]
theorem attestCtrl_one {b : Block} {n v : Nat} (idle : (b.attest n).busy = false) (one : bit v 0 ≠ bit v 1) :
    attestCtrl b n v = answer (requested b n v) n v := by
  have both : ¬(bit v 0 && bit v 1) = true := by
    rw [Bool.and_eq_true]
    exact fun ⟨report, certs⟩ => one (report.trans certs.symm)
  have neither : ¬(!bit v 0 && !bit v 1) = true := by
    rw [Bool.and_eq_true, Bool.not_eq_true', Bool.not_eq_true']
    exact fun ⟨report, certs⟩ => one (report.trans certs.symm)
  rw [attestCtrl_eq, if_neg (by simp [idle]), if_neg both, afterExtend, if_neg neither]
/-- The write whose only bit is EXTEND is the EXTEND of a write with other bits. -/
theorem requested_eq {b : Block} {n : Nat} (v : Nat) (idle : (b.attest n).busy = false) :
    (if bit v 2 = true then attestCtrl b n 4 else b) = requested b n v := by
  rw [attestCtrl_extend idle (by decide) (by decide) (by decide), requested]

/-! EXTEND touches the root of trust's state only, so the checks of a request look at what they did before it. -/
/-- At most the root of trust's state differs. -/
def OnlySec (b y : Block) : Prop := ∃ s, y = b.modSec fun _ => s
theorem OnlySec.refl (b : Block) : OnlySec b b := ⟨b.sec, rfl⟩
theorem onlySec_modSec (b : Block) (s : Sec) : OnlySec b (b.modSec fun _ => s) := ⟨s, rfl⟩
theorem OnlySec.modSec {b y : Block} (h : OnlySec b y) (f : Sec → Sec) : OnlySec b (y.modSec f) := by
  obtain ⟨s, rfl⟩ := h
  exact ⟨f s, rfl⟩
theorem OnlySec.modAttest {b y : Block} (h : OnlySec b y) (n : Nat) (f : Attest → Attest) : OnlySec b (y.modAttest n f) := h.modSec _
theorem OnlySec.rest {b y : Block} (h : OnlySec b y) : { y with sec := b.sec } = b := by
  obtain ⟨s, rfl⟩ := h
  rfl
theorem OnlySec.keepsWay {b y : Block} (h : OnlySec b y) : KeepsWay b y := by
  obtain ⟨s, rfl⟩ := h
  exact ⟨rfl, rfl, rfl⟩
theorem extended_onlySec (b : Block) (n : Nat) : OnlySec b (extended b n) := (((OnlySec.refl b).modSec _).modAttest _ _).modAttest _ _
theorem requested_onlySec (b : Block) (n v : Nat) : OnlySec b (requested b n v) := by
  unfold requested
  split
  · exact extended_onlySec b n
  · exact .refl b
section
variable {b : Block} {s : Sec} {n v : Nat}
theorem answer_outside (h : inAperture b n (attestDest b n) (answerLen (b.modSec fun _ => s) v) = false) :
    answer (b.modSec fun _ => s) n v = refuse (begun (b.modSec fun _ => s) n v (answerLen (b.modSec fun _ => s) v)) n .protection :=
  if_pos (congrArg not h)
theorem answer_misaligned (h : inAperture b n (attestDest b n) (answerLen (b.modSec fun _ => s) v) = true) (align : attestDest b n % 64 ≠ 0) :
    answer (b.modSec fun _ => s) n v = refuse (begun (b.modSec fun _ => s) n v (answerLen (b.modSec fun _ => s) v)) n .alignment :=
  (if_neg (ne_true_of_eq_false (congrArg not h))).trans (if_pos align)
theorem answer_linkDown (h : inAperture b n (attestDest b n) (answerLen (b.modSec fun _ => s) v) = true) (align : attestDest b n % 64 = 0)
    (down : kwUp b = false) :
    answer (b.modSec fun _ => s) n v = refuse (begun (b.modSec fun _ => s) n v (answerLen (b.modSec fun _ => s) v)) n .linkDown :=
  (if_neg (ne_true_of_eq_false (congrArg not h))).trans <| (if_neg (not_not_intro align)).trans (if_pos (congrArg not down))
theorem answer_writes (h : inAperture b n (attestDest b n) (answerLen (b.modSec fun _ => s) v) = true) (align : attestDest b n % 64 = 0)
    (up : kwUp b = true) : answer (b.modSec fun _ => s) n v =
      dmaWrites n (b.part n).mgrFunc (attestDest b n) (fun l => .sec n l) true (answerLen (b.modSec fun _ => s) v / 512 + 1)
        (answerLen (b.modSec fun _ => s) v) (answerData (b.modSec fun _ => s) n v)
        (begun (b.modSec fun _ => s) n v (answerLen (b.modSec fun _ => s) v)) :=
  (if_neg (ne_true_of_eq_false (congrArg not h))).trans <| (if_neg (not_not_intro align)).trans
    (if_neg (ne_true_of_eq_false (congrArg not up)))
end

/-- A refused request: ended with its status and an event of no bytes, everything but the root of trust's state as before, and the
measurements those of `m`. -/
def Refused (b y : Block) (n v : Nat) (m : Map (BitVec 384)) (st : Status) : Prop :=
  ∃ z, y = event z n 0x0D03 st 0 chipLoc (detail [(16, 1, if bit v 0 = true then 0 else 1), (18, 4, 0)]) ∧ (z.attest n).busy = false ∧
    (z.attest n).status = st.code ∧ z.sec.partMeas = m ∧ { z with sec := b.sec } = b
theorem kind_eq {v : Nat} (one : bit v 0 ≠ bit v 1) : b2n (bit v 1) = if bit v 0 = true then 0 else 1 := by
  cases report : bit v 0 with
  | true => rw [report] at one; simp [b2n, Bool.eq_false_of_not_eq_true one.symm]
  | false => rw [report] at one; simp [b2n, Bool.eq_true_of_not_eq_false one.symm]
theorem refuse_refused (b : Block) (s : Sec) (n len : Nat) {v : Nat} (one : bit v 0 ≠ bit v 1) {st : Status} (failed : st ≠ .done) :
    Refused b (refuse (begun (b.modSec fun _ => s) n v len) n st) n v s.partMeas st := by
  refine ⟨((begun (b.modSec fun _ => s) n v len).modAttest n fun a => { a with total := 0, left := 0 }).modAttest n
    fun a => { a with busy := false, status := st.code }, ?_, ?_, ?_, ?_, ?_⟩
  case refine_1 => rw [refuse, attestEnd, modAttest_attest_same, begun, modAttest_attest_same, if_neg failed, ← kind_eq one]; rfl
  case refine_2 => rw [modAttest_attest_same]
  case refine_3 => rw [modAttest_attest_same]
  case refine_4 => rw [modAttest_partMeas, modAttest_partMeas, begun, modAttest_partMeas]; rfl
  case refine_5 => exact ((((onlySec_modSec b s).modAttest n _).modAttest n _).modAttest n _).rest

end Sys2Proof.Security
end

/-! ATTEST_CTRL, directives and staging as the obligation states them (R495, R499 to R506). -/
section
namespace Sys2Proof.Security
open Sys2Proof.Machine Sys2Proof.Claims Sys2Proof.Requests

theorem refuse_keepsWay {b x : Block} (h : OnlySec b x) (n : Nat) (st : Status) : KeepsWay b (refuse x n st) := by
  unfold refuse attestEnd
  exact ((h.modAttest n _).modAttest n _).keepsWay.trans (keepsWay_of_posts (event_posts _ _ _ _ _ _ _))
theorem answer_keepsWay {b e : Block} (h : OnlySec b e) (n v : Nat) : KeepsWay b (answer e n v) := by
  have h (len : Nat) : OnlySec b (begun e n v len) := h.modAttest n _
  unfold answer
  dsimp only
  split
  · exact refuse_keepsWay (h _) n _
  · split
    · exact refuse_keepsWay (h _) n _
    · split
      · exact refuse_keepsWay (h _) n _
      · exact (h _).keepsWay.trans (keepsWay_of_posts (dmaWrites_posts _ _ _ _ _ _ _ _ _))
theorem attestCtrl_keepsWay (b : Block) (n v : Nat) : KeepsWay b (attestCtrl b n v) := by
  rw [attestCtrl_eq]
  split
  · exact .refl b
  · split
    · exact ((OnlySec.refl b).modAttest n _).keepsWay
    · unfold afterExtend
      split
      · exact (requested_onlySec b n v).keepsWay
      · exact answer_keepsWay (requested_onlySec b n v) n v

/-- R495: an EXTEND alone. -/
theorem extended_spec (b : Block) (n : Nat) : let y := extended b n
    { y with sec := b.sec } = b ∧ mget 0 y.sec.partMeas n = sha3 96 ((mget 0 b.sec.partMeas n).toNat + (measIn b n).toNat * 2 ^ 384) ∧
      (y.attest n).extends_ = ((b.attest n).extends_ + 1) % 2 ^ 32 ∧ (y.attest n).status = 0 ∧
      ∀ m, m ≠ n → mget 0 y.sec.partMeas m = mget 0 b.sec.partMeas m ∧ y.attest m = b.attest m := by
  refine ⟨(extended_onlySec b n).rest, ?_, ?_, ?_, fun m hm => ⟨?_, ?_⟩⟩
  case refine_1 => rw [extended_partMeas, if_pos rfl, measExtend]
  case refine_2 => rw [extended_attest, if_pos rfl]; rfl
  case refine_3 => rw [extended_attest, if_pos rfl]
  case refine_4 => rw [extended_partMeas, if_neg hm]
  case refine_5 => rw [extended_attest, if_neg hm]
/-- R499, R500: the checks of a REPORT or CERTS, and the writes of one that passes them. -/
theorem request_spec {b : Block} {n v : Nat} (idle : (b.attest n).busy = false) (one : bit v 0 ≠ bit v 1) :
    let y := attestCtrl b n v
    let e := if bit v 2 = true then attestCtrl b n 4 else b
    let dst := attestDest b n
    let len := answerLen e v
    (inAperture b n dst len = false → Refused b y n v e.sec.partMeas .protection) ∧
    (inAperture b n dst len = true → dst % 64 ≠ 0 → Refused b y n v e.sec.partMeas .alignment) ∧
    (inAperture b n dst len = true → dst % 64 = 0 → kwUp b = false → Refused b y n v e.sec.partMeas .linkDown) ∧
    (inAperture b n dst len = true → dst % 64 = 0 → kwUp b = true → y = dmaWrites n (b.part n).mgrFunc dst (fun l => .sec n l) true (len / 512 + 1) len
      (answerData e n v) (e.modAttest n fun a => { a with busy := true, kind := if bit v 0 = true then 0 else 1, left := len, total := len, bad := none })) := by
  rw [requested_eq v idle, attestCtrl_one idle one]
  obtain ⟨s, he⟩ := requested_onlySec b n v
  rw [he, ← kind_eq one]
  refine ⟨fun outside => ?_, fun inside align => ?_, fun inside align down => ?_, fun inside align up => answer_writes inside align up⟩
  case refine_1 => rw [answer_outside outside]; exact refuse_refused b s n _ one (by decide)
  case refine_2 => rw [answer_misaligned inside align]; exact refuse_refused b s n _ one (by decide)
  case refine_3 => rw [answer_linkDown inside align down]; exact refuse_refused b s n _ one (by decide)

end Sys2Proof.Security
end

/-! Directives (R501 to R504). -/
section
namespace Sys2Proof.Security
open Sys2Proof.Machine Sys2Proof.Claims Sys2Proof.Requests

/-- A directive ends: DIRECTIVE_CTRL shows its check and status, and the platform is told. -/
def directiveEnded (b : Block) (d chk : Nat) (st : Status) : Block :=
  eventPlat (b.modSec fun s => { s with dirStatus := st.code, dirCheck := chk }) 0 0x0D02 st 0 chipLoc (detail [(16, 1, bits d 16 8), (17, 1, chk)])
/-- An accepted directive acts, is measured, and a new nonce is drawn. -/
def accepted (b : Block) (d : Nat) : Block := newNonce (extendMeas (directiveApply b d) 4 (sha3 5488 d))
/-- Check 2: the directive is for this module and its nonce. -/
def Addressed (b : Block) (d : Nat) : Prop := bits d 64 64 = deviceId ∧ bits d 128 256 = b.sec.nonce.toNat
theorem Addressed.passes {b : Block} {d : Nat} (h : Addressed b d) : ¬(bits d 64 64 ≠ deviceId ∨ bits d 128 256 ≠ b.sec.nonce.toNat) :=
  fun fails => fails.elim (absurd h.1) (absurd h.2)

/-! The checks of R501 in their order. The window's bytes stand as a number of their own: nothing here reads them. -/
section
variable {b : Block} {i3c : Bool} {d : Nat} (hd : b.sec.dirWin.read 0 5488 = d)
include hd
theorem submit_malformed (form : ¬directiveForm d = true) : submitDirective b i3c = directiveEnded b d 1 .descInvalid := by
  rw [submitDirective, hd]
  simp only [form]
  rfl
variable (form : directiveForm d = true)
include form
theorem submit_misaddressed (addressed : ¬Addressed b d) : submitDirective b i3c = directiveEnded b d 2 .protection := by
  have fails : bits d 64 64 ≠ deviceId ∨ bits d 128 256 ≠ b.sec.nonce.toNat := Classical.not_and_iff_not_or_not.mp addressed
  rw [submitDirective, hd]
  simp only [form, fails]
  rfl
variable (addressed : Addressed b d)
include addressed
theorem submit_wrongOwner (owner : ¬directiveOwner b d = true) : submitDirective b i3c = directiveEnded b d 3 .protection := by
  rw [submitDirective, hd]
  simp only [form, addressed.passes, owner]
  rfl
variable (owner : directiveOwner b d = true)
include owner
theorem submit_unsigned (signed : ¬directiveSigned d = true) : submitDirective b i3c = directiveEnded b d 4 .protection := by
  rw [submitDirective, hd]
  simp only [form, addressed.passes, owner, signed]
  rfl
variable (signed : directiveSigned d = true)
include signed
theorem submit_against_rule {st : Status} (rule : directiveRule b d i3c = some st) : submitDirective b i3c = directiveEnded b d 5 st := by
  rw [submitDirective, hd]
  simp only [form, addressed.passes, owner, signed, rule]
  rfl
theorem submit_accepted (rule : directiveRule b d i3c = none) : submitDirective b i3c = directiveEnded (accepted b d) d 0 .done := by
  rw [submitDirective, hd]
  simp only [form, addressed.passes, owner, signed, rule]
  rfl
omit form addressed owner signed
/-- How SUBMIT ends: the directive is refused for a check, or accepted. -/
theorem submit_cases : (∃ chk st, chk ≠ 0 ∧ submitDirective b i3c = directiveEnded b d chk st) ∨
    submitDirective b i3c = directiveEnded (accepted b d) d 0 .done := by
  by_cases form : directiveForm d = true
  case neg => exact .inl ⟨1, _, by decide, submit_malformed hd form⟩
  by_cases addressed : Addressed b d
  case neg => exact .inl ⟨2, _, by decide, submit_misaddressed hd form addressed⟩
  by_cases owner : directiveOwner b d = true
  case neg => exact .inl ⟨3, _, by decide, submit_wrongOwner hd form addressed owner⟩
  by_cases signed : directiveSigned d = true
  case neg => exact .inl ⟨4, _, by decide, submit_unsigned hd form addressed owner signed⟩
  cases rule : directiveRule b d i3c with
  | some st => exact .inl ⟨5, st, by decide, submit_against_rule hd form addressed owner signed rule⟩
  | none => exact .inr (submit_accepted hd form addressed owner signed rule)
end

/-! What an accepted directive changes. -/
theorem directiveApply_eq (b : Block) (d : Nat) : ∃ k, directiveApply b d = { b with kept := k } ∧ k.draws = b.kept.draws ∧ k.releases = b.kept.releases := by
  unfold directiveApply
  dsimp only
  split
  · exact ⟨_, rfl, rfl, rfl⟩
  · exact ⟨_, rfl, rfl, rfl⟩
  · split
    · exact ⟨_, rfl, rfl, rfl⟩
    · exact ⟨_, rfl, rfl, rfl⟩
/-- The measurement and the nonce, whatever the digest is. -/
theorem newNonce_modMeas (b : Block) (f : BitVec 384 → BitVec 384) : ∃ s,
    newNonce (b.modSec fun s => { s with meas := mmod 0 s.meas 4 f }) = { b with sec := s, kept := { b.kept with draws := b.kept.draws + 1 } } ∧
      s.nonce = BitVec.ofNat 256 (Config.random b.kept.draws % 2 ^ 256) ∧ s.meas = mmod 0 b.sec.meas 4 f := ⟨_, rfl, rfl, rfl⟩
/-- R501: an accepted directive acts on the kept state, is measured, and a new nonce is drawn. -/
theorem accepted_eq (b : Block) (d : Nat) : ∃ s k, accepted b d = { b with sec := s, kept := k } ∧
    k = { (directiveApply b d).kept with draws := b.kept.draws + 1 } ∧ k.releases = b.kept.releases ∧
      s.nonce = BitVec.ofNat 256 (Config.random b.kept.draws % 2 ^ 256) ∧ s.meas = mmod 0 b.sec.meas 4 (measExtend · (sha3 5488 d)) := by
  obtain ⟨k, h, draws, releases⟩ := directiveApply_eq b d
  obtain ⟨s, heq, nonce, meas⟩ := newNonce_modMeas { b with kept := k } (measExtend · (sha3 5488 d))
  rw [accepted, extendMeas, h, ← draws]
  exact ⟨s, _, heq, rfl, releases, nonce, meas⟩
theorem accepted_keepsWay (b : Block) (d : Nat) : KeepsWay b (accepted b d) := by
  obtain ⟨s, k, h, -, releases, -, -⟩ := accepted_eq b d
  rw [h]
  exact ⟨rfl, releases, rfl⟩
theorem directiveEnded_keepsWay {b x : Block} (h : KeepsWay b x) (d chk : Nat) (st : Status) : KeepsWay b (directiveEnded x d chk st) :=
  h.trans (((OnlySec.refl x).modSec _).keepsWay.trans (keepsWay_of_posts (eventPlat_posts _ _ _ _ _ _ _)))
theorem submitDirective_keepsWay (b : Block) (i3c : Bool) : KeepsWay b (submitDirective b i3c) := by
  obtain ⟨chk, st, -, h⟩ | h := submit_cases (b := b) (i3c := i3c) rfl
  · rw [h]
    exact directiveEnded_keepsWay (.refl b) _ _ _
  · rw [h]
    exact directiveEnded_keepsWay (accepted_keepsWay b _) _ _ _

/-! How a directive ends. -/
/-- The platform's event leaves all that the root of trust holds, the cells and the partitions as they are. -/
theorem directiveEnded_settled (b : Block) (d chk : Nat) (st : Status) :
    Partitions.Settled (b.modSec fun s => { s with dirStatus := st.code, dirCheck := chk }) (directiveEnded b d chk st) :=
  (Partitions.eventPlat_outer _ _ _ _ _ _ _).settled
/-- SUBMIT ended with this check and status; a refusal has no other effect on the root of trust. -/
def DirectiveEnds (b y : Block) (chk : Nat) (st : Status) : Prop :=
  y.sec.dirCheck = chk ∧ y.sec.dirStatus = st.code ∧ (chk ≠ 0 → y.kept = b.kept ∧ y.sec.meas = b.sec.meas ∧ y.sec.nonce = b.sec.nonce) ∧
    y.cells = b.cells ∧ y.parts = b.parts
theorem directiveEnds_of_refused (b : Block) (d chk : Nat) (st : Status) : DirectiveEnds b (directiveEnded b d chk st) chk st := by
  obtain ⟨parts, cells, sec, -, -, kept, -⟩ := directiveEnded_settled b d chk st
  rw [DirectiveEnds, parts, cells, sec, kept]
  exact ⟨rfl, rfl, fun _ => ⟨rfl, rfl, rfl⟩, rfl, rfl⟩
theorem directiveEnds_of_accepted (b : Block) (d : Nat) : DirectiveEnds b (directiveEnded (accepted b d) d 0 .done) 0 .done := by
  obtain ⟨parts, cells, sec, -, -, -, -⟩ := directiveEnded_settled (accepted b d) d 0 .done
  obtain ⟨s, k, h, -, -, -, -⟩ := accepted_eq b d
  rw [DirectiveEnds, parts, cells, sec, h]
  exact ⟨rfl, rfl, fun h => absurd rfl h, rfl, rfl⟩
theorem accepted_kept (b : Block) (d : Nat) : (directiveEnded (accepted b d) d 0 .done).kept = { (directiveApply b d).kept with draws := b.kept.draws + 1 } := by
  obtain ⟨-, -, -, -, -, kept, -⟩ := directiveEnded_settled (accepted b d) d 0 .done
  obtain ⟨s, k, h, hk, -, -, -⟩ := accepted_eq b d
  rw [kept, h, ← hk]
  rfl
/-- R501, R502: an accepted directive is measured, and a new nonce drawn. -/
theorem accepted_sec (b : Block) (d : Nat) :
    (directiveEnded (accepted b d) d 0 .done).sec.nonce = BitVec.ofNat 256 (Config.random b.kept.draws % 2 ^ 256) ∧
      (directiveEnded (accepted b d) d 0 .done).sec.meas = mmod 0 b.sec.meas 4 (measExtend · (sha3 5488 d)) := by
  obtain ⟨-, -, sec, -, -, -, -⟩ := directiveEnded_settled (accepted b d) d 0 .done
  obtain ⟨s, k, h, -, -, nonce, meas⟩ := accepted_eq b d
  have ended : (directiveEnded (accepted b d) d 0 .done).sec = { s with dirStatus := Status.done.code, dirCheck := 0 } := by
    rw [sec, h]
    rfl
  rw [ended]
  exact ⟨nonce, meas⟩

end Sys2Proof.Security
end

/-! The three kinds of directive (R502 to R504), and the staging of firmware (R506). -/
section
namespace Sys2Proof.Security
open Sys2Proof.Machine Sys2Proof.Claims Sys2Proof.Requests

/-- A field of a directive: byte offset and bytes. -/
def field (d k n : Nat) : Nat := bits d (8 * k) (8 * n)
section
variable {b : Block} {d : Nat} {i3c : Bool}

/-! SVN_ADVANCE (R502). -/
theorem rule_svn_above (kind : field d 2 1 = 1) (above : b.sec.imageSvn < field d 48 1 ∨ b.sec.manSvn < field d 49 1) :
    directiveRule b d i3c = some .protection := by
  unfold directiveRule
  simp only [field] at kind above
  simp only [kind, if_pos above]
theorem rule_svn (kind : field d 2 1 = 1) (fw : field d 48 1 ≤ b.sec.imageSvn) (key : field d 49 1 ≤ b.sec.manSvn) : directiveRule b d i3c = none := by
  unfold directiveRule
  simp only [field] at kind fw key
  simp only [kind]
  exact if_neg (by omega)
theorem apply_svn (kind : field d 2 1 = 1) :
    (directiveApply b d).kept = { b.kept with fwSvn := max b.kept.fwSvn (field d 48 1), keySvn := max b.kept.keySvn (field d 49 1) } := by
  unfold directiveApply
  simp only [field] at kind
  simp only [kind]
  rfl

/-! DEBUG_ENABLE (R504). -/
theorem rule_debug (kind : field d 2 1 = 2) : directiveRule b d i3c =
    if debugDisable then some .protection else if 32 ≤ debugSessions b then some .quota
    else if field d 50 1 ≠ debugSessions b + 1 then some .protection else none := by
  unfold directiveRule
  simp only [field] at kind
  simp only [kind]
  rfl
theorem apply_debug (kind : field d 2 1 = 2) : (directiveApply b d).kept = { b.kept with debugRec := some d } := by
  unfold directiveApply
  simp only [field] at kind
  simp only [kind]
  rfl

/-! OWNER_SET (R503). -/
theorem rule_owner (kind : field d 2 1 = 3) : directiveRule b d i3c =
    if ownerSlot b = 2 then some .quota else if ownerSlot b = 1 then none
    else if i3c && (owner1 b).isNone && (owner2 b).isNone then none else some .protection := by
  unfold directiveRule
  simp only [field] at kind
  simp only [kind]
/-- NEW_OWNER. -/
def newOwner (d : Nat) : BitVec 384 := BitVec.ofNat 384 (field d 64 48)
theorem apply_owner (kind : field d 2 1 = 3) : (directiveApply b d).kept =
    if ownerSlot b = 1 then { b.kept with owner2 := some (newOwner d), owner1Rev := true } else { b.kept with owner1 := some (newOwner d) } := by
  unfold directiveApply
  simp only [field] at kind
  simp only [kind]
  split
  · rfl
  · rfl

/-! SUBMIT of a directive that passes checks 1 to 4. -/
/-- The directive passes checks 1 to 4 of R501. -/
structure Genuine (b : Block) (d : Nat) : Prop where
  form : directiveForm d = true
  addressed : Addressed b d
  owner : directiveOwner b d = true
  signed : directiveSigned d = true
variable (hd : b.sec.dirWin.read 0 5488 = d) (genuine : Genuine b d)
include hd genuine
theorem submit_refused {st : Status} (rule : directiveRule b d i3c = some st) : DirectiveEnds b (submitDirective b i3c) 5 st := by
  rw [submit_against_rule hd genuine.form genuine.addressed genuine.owner genuine.signed rule]
  exact directiveEnds_of_refused b d 5 st
theorem submit_done (rule : directiveRule b d i3c = none) : DirectiveEnds b (submitDirective b i3c) 0 .done ∧
    (submitDirective b i3c).kept = { (directiveApply b d).kept with draws := b.kept.draws + 1 } := by
  rw [submit_accepted hd genuine.form genuine.addressed genuine.owner genuine.signed rule]
  exact ⟨directiveEnds_of_accepted b d, accepted_kept b d⟩

/-! SVN_ADVANCE: the counts only ever rise, and not above what the running image has. -/
theorem submit_svn_above (kind : field d 2 1 = 1) (above : b.sec.imageSvn < field d 48 1 ∨ b.sec.manSvn < field d 49 1) :
    DirectiveEnds b (submitDirective b i3c) 5 .protection := submit_refused hd genuine (rule_svn_above kind above)
theorem submit_svn (kind : field d 2 1 = 1) (fw : field d 48 1 ≤ b.sec.imageSvn) (key : field d 49 1 ≤ b.sec.manSvn) :
    DirectiveEnds b (submitDirective b i3c) 0 .done ∧ fwSvn (submitDirective b i3c) = max (fwSvn b) (field d 48 1) ∧
      keySvn (submitDirective b i3c) = max (keySvn b) (field d 49 1) := by
  obtain ⟨ends, kept⟩ := submit_done hd genuine (i3c := i3c) (rule_svn kind fw key)
  rw [apply_svn kind] at kept
  refine ⟨ends, ?_, ?_⟩
  · rw [fwSvn, kept, fwSvn, max_assoc]
  · rw [keySvn, kept, keySvn, max_assoc]

/-! DEBUG_ENABLE. -/
theorem submit_debug_disabled (kind : field d 2 1 = 2) (disabled : debugDisable = true) : DirectiveEnds b (submitDirective b i3c) 5 .protection :=
  submit_refused hd genuine (by rw [rule_debug kind, if_pos disabled])
theorem submit_debug_spent (kind : field d 2 1 = 2) (enabled : debugDisable = false) (spent : 32 ≤ debugSessions b) :
    DirectiveEnds b (submitDirective b i3c) 5 .quota :=
  submit_refused hd genuine (by rw [rule_debug kind, if_neg (by simp [enabled]), if_pos spent])
theorem submit_debug_other (kind : field d 2 1 = 2) (enabled : debugDisable = false) (room : debugSessions b < 32)
    (other : field d 50 1 ≠ debugSessions b + 1) : DirectiveEnds b (submitDirective b i3c) 5 .protection :=
  submit_refused hd genuine (by rw [rule_debug kind, if_neg (by simp [enabled]), if_neg (by omega), if_pos other])
theorem submit_debug (kind : field d 2 1 = 2) (enabled : debugDisable = false) (room : debugSessions b < 32)
    (next : field d 50 1 = debugSessions b + 1) : DirectiveEnds b (submitDirective b i3c) 0 .done ∧
      (submitDirective b i3c).kept.debugRec = some d ∧ debugSessions (submitDirective b i3c) = debugSessions b := by
  have rule : directiveRule b d i3c = none := by
    rw [rule_debug kind, if_neg (by simp [enabled]), if_neg (by omega), if_neg (not_not_intro next)]
  obtain ⟨ends, kept⟩ := submit_done hd genuine rule
  rw [apply_debug kind] at kept
  exact ⟨ends, by rw [kept], by rw [debugSessions, kept, debugSessions]⟩

/-! OWNER_SET. -/
theorem submit_owner_second (kind : field d 2 1 = 3) (slot : ownerSlot b = 2) : DirectiveEnds b (submitDirective b i3c) 5 .quota :=
  submit_refused hd genuine (by rw [rule_owner kind, if_pos slot])
theorem submit_owner_first (kind : field d 2 1 = 3) (slot : ownerSlot b = 1) : DirectiveEnds b (submitDirective b i3c) 0 .done ∧
    (submitDirective b i3c).kept.owner2 = some (newOwner d) ∧ (submitDirective b i3c).kept.owner1Rev = true := by
  have rule : directiveRule b d i3c = none := by rw [rule_owner kind, if_neg (by omega), if_pos slot]
  obtain ⟨ends, kept⟩ := submit_done hd genuine rule
  rw [apply_owner kind, if_pos slot] at kept
  exact ⟨ends, by rw [kept], by rw [kept]⟩
theorem submit_owner_none (kind : field d 2 1 = 3) (slot : ownerSlot b = 0) (here : i3c = true) (none1 : owner1 b = none) (none2 : owner2 b = none) :
    DirectiveEnds b (submitDirective b i3c) 0 .done ∧ (submitDirective b i3c).kept.owner1 = some (newOwner d) := by
  have rule : directiveRule b d i3c = none := by
    rw [rule_owner kind, if_neg (by omega), if_neg (by omega), if_pos (by simp [here, none1, none2])]
  obtain ⟨ends, kept⟩ := submit_done hd genuine rule
  rw [apply_owner kind, if_neg (by omega)] at kept
  exact ⟨ends, by rw [kept]⟩
theorem submit_owner_barred (kind : field d 2 1 = 3) (slot : ownerSlot b = 0) (why : i3c = false ∨ owner1 b ≠ none ∨ owner2 b ≠ none) :
    DirectiveEnds b (submitDirective b i3c) 5 .protection := by
  have barred : ¬(i3c && (owner1 b).isNone && (owner2 b).isNone) = true := by
    simp only [Bool.and_eq_true, Option.isNone_iff_eq_none]
    rintro ⟨⟨here, none1⟩, none2⟩
    rcases why with h | h | h
    · exact absurd here (by simp [h])
    · exact h none1
    · exact h none2
  exact submit_refused hd genuine (by rw [rule_owner kind, if_neg (by omega), if_neg (by omega), if_neg barred])
end
/-- An accepted directive is measured, and a new nonce drawn (R501, R502). -/
theorem submit_measured {b : Block} {d : Nat} {i3c : Bool} (hd : b.sec.dirWin.read 0 5488 = d) (done : (submitDirective b i3c).sec.dirCheck = 0) :
    (submitDirective b i3c).sec.nonce = BitVec.ofNat 256 (Config.random b.kept.draws % 2 ^ 256) ∧ (submitDirective b i3c).kept.draws = b.kept.draws + 1 ∧
      mget 0 (submitDirective b i3c).sec.meas 4 = measExtend (mget 0 b.sec.meas 4) (sha3 5488 d) := by
  obtain ⟨chk, st, fails, h⟩ | h := submit_cases (i3c := i3c) hd
  · obtain ⟨check, -⟩ := directiveEnds_of_refused b d chk st
    rw [h, check] at done
    exact absurd done fails
  · obtain ⟨nonce, meas⟩ := accepted_sec b d
    rw [h, meas, mget_mmod, if_pos rfl, accepted_kept]
    exact ⟨nonce, rfl, rfl⟩

/-! Staging (R506). -/
/-- A staging of `len` bytes is in progress. -/
def staging (b : Block) (len : Nat) : Block := b.modSec fun s => { s with stage := { busy := true, left := len } }
/-- A staging that its first checks end: the platform is told that no slot was written. -/
def StageFails (b y : Block) (st : Status) : Prop :=
  ∃ z, y = eventPlat z 0 0x0D04 st 0 chipLoc (detail [(16, 1, 0xFF)]) ∧ z.sec.stage = { status := st.code } ∧ { z with sec := b.sec } = b
theorem stageEnd_fails (b : Block) (len : Nat) (st : Status) : StageFails b (stageEnd (staging b len) 0xFF 0 0 0 st) st := by
  refine ⟨(staging b len).modSec fun s => { s with stage := { status := st.code } }, ?_, rfl, rfl⟩
  have nothing : detail [(16, 1, 0xFF), (17, 1, 0), (18, 1, 0), (19, 1, 0), (20, 4, 0)] = detail [(16, 1, 0xFF)] := by decide
  rw [stageEnd, ← nothing]
  rfl
theorem stageGo_busy {b : Block} (busy : b.sec.stage.busy = true) : stageGo b = b := if_pos busy
theorem stageGo_idle {b : Block} (idle : b.sec.stage.busy = false) : stageGo b =
    if stageAddr b % 64 ≠ 0 then stageEnd (staging b (stageCtrl b % 2 ^ 25)) 0xFF 0 0 0 .alignment
    else if stageCtrl b % 2 ^ 25 < 16384 ∨ 16777216 < stageCtrl b % 2 ^ 25 then stageEnd (staging b (stageCtrl b % 2 ^ 25)) 0xFF 0 0 0 .descInvalid
    else if !kwUp b then stageEnd (staging b (stageCtrl b % 2 ^ 25)) 0xFF 0 0 0 .linkDown
    else stageReads (stageCtrl b / 2 ^ 25 % 16) (stageCtrl b % 2 ^ 25 / 4096 + 1) (stageAddr b) 0 (stageCtrl b % 2 ^ 25)
      (staging b (stageCtrl b % 2 ^ 25)) := by
  have size : stageCtrl b % 2 ^ 25 = bits (stageCtrl b) 0 25 := by rw [bits_eq, pow_zero, Nat.div_one]
  have func : stageCtrl b / 2 ^ 25 % 16 = bits (stageCtrl b) 25 4 := by rw [bits_eq, show (2 : Nat) ^ 4 = 16 from rfl]
  rw [size, func]
  exact if_neg (by simp [idle])
theorem stageGo_spec {b : Block} (idle : b.sec.stage.busy = false) : let len := stageCtrl b % 2 ^ 25
    let fits : Prop := 16384 ≤ len ∧ len ≤ 16777216
    (stageAddr b % 64 ≠ 0 → StageFails b (stageGo b) .alignment) ∧ (stageAddr b % 64 = 0 → ¬fits → StageFails b (stageGo b) .descInvalid) ∧
      (stageAddr b % 64 = 0 → fits → kwUp b = false → StageFails b (stageGo b) .linkDown) ∧
      (stageAddr b % 64 = 0 → fits → kwUp b = true →
        stageGo b = stageReads (stageCtrl b / 2 ^ 25 % 16) (len / 4096 + 1) (stageAddr b) 0 len (staging b len)) := by
  intro len fits
  have go := stageGo_idle idle
  refine ⟨fun align => ?_, fun align size => ?_, fun align size down => ?_, fun align size up => ?_⟩
  · rw [go, if_pos align]
    exact stageEnd_fails b len .alignment
  · rw [go, if_neg (not_not_intro align), if_pos (by omega)]
    exact stageEnd_fails b len .descInvalid
  · rw [go, if_neg (not_not_intro align), if_neg (by omega), if_pos (by simp [down])]
    exact stageEnd_fails b len .linkDown
  · rw [go, if_neg (not_not_intro align), if_neg (by omega), if_neg (by simp [up])]
theorem stageGo_keepsWay (b : Block) : KeepsWay b (stageGo b) := by
  have begun (len : Nat) : OnlySec b (staging b len) := (OnlySec.refl b).modSec _
  have ends (len : Nat) (st : Status) : KeepsWay b (stageEnd (staging b len) 0xFF 0 0 0 st) :=
    ((begun len).modSec _).keepsWay.trans (keepsWay_of_posts (eventPlat_posts _ _ _ _ _ _ _))
  cases busy : b.sec.stage.busy with
  | true => rw [stageGo_busy busy]; exact .refl b
  | false =>
    rw [stageGo_idle busy]
    split
    · exact ends _ _
    · split
      · exact ends _ _
      · split
        · exact ends _ _
        · exact (begun _).keepsWay.trans (keepsWay_of_posts (stageReads_posts _ _ _ _ _ _))

end Sys2Proof.Security
end

/-! Attestation, directives and staging as the obligation states them (R495, R499 to R506). -/
section
namespace Sys2Proof.Security
open Sys2Proof.Machine Sys2Proof.Claims Sys2Proof.Requests

/-! The registers. -/
theorem regFind_attestCtrl (n : Fin 16) : ∃ r x, regFind (0xC7FB1080 + 8 * n) = some (r, x) ∧ x.i = n ∧ r.write = fun c v b => attestCtrl b c.i v := by
  fin_cases n <;> exact ⟨_, _, rfl, rfl, rfl⟩
theorem regFind_directiveCtrl : ∃ r x, regFind 0xC7FB4000 = some (r, x) ∧ r.write = fun c v b => if bit v 0 then submitDirective b c.i3c else b :=
  ⟨_, _, rfl, rfl⟩
theorem regFind_stageCtrl : ∃ r x, regFind 0xC7FB4108 = some (r, x) ∧ x.a = 0xC7FB4108 ∧ r.write = writeStage := ⟨_, _, rfl, rfl, rfl⟩
/-- A write of ATTEST_CTRL[n]. -/
theorem attestCtrl_writes {i : Instr} {s : State} {p : Path} {n : Fin 16} {v : Nat} (hi : exec i s = regWrite p (0xC7FB1080 + 8 * n) v s) :
    Writes i s p (0xC7FB1080 + 8 * n) v fun b => attestCtrl b n v := by
  obtain ⟨r, x, found, index, write⟩ := regFind_attestCtrl n
  refine writes_of_row hi found (fun who b => ?_) fun b => attestCtrl_keepsWay b n v
  rw [write, ← index]
theorem submit_writes (p : Path) (s : State) : Writes (.submit p) s p 0xC7FB4000 1 fun b => submitDirective b (pathCode p == 2) := by
  obtain ⟨r, x, found, write⟩ := regFind_directiveCtrl
  refine writes_of_row rfl found (fun who b => ?_) fun b => submitDirective_keepsWay b _
  rw [write]
  exact if_pos (by decide)
/-- GO beside a length and a function, which the register keeps. -/
theorem writeStage_go {c : RegAt} (ha : c.a = 0xC7FB4108) {v : Nat} (hv : v < 2 ^ 29) (b : Block) :
    writeStage c (v + 2 ^ 29) b = stageGo (b.setReg 0xC7FB4108 0 v) := by
  have kept : low 29 (v + 2 ^ 29) = v := by rw [low, Nat.add_mod_right, Nat.mod_eq_of_lt hv]
  have go : bit (v + 2 ^ 29) 29 = true := by
    rw [bit, Nat.shiftRight_eq_div_pow, Nat.add_div_right _ (by decide), Nat.div_eq_of_lt hv]
    rfl
  unfold writeStage
  rw [kept, ha]
  exact if_pos go
theorem setReg_keepsWay (b : Block) (a reset v : Nat) : KeepsWay b (b.setReg a reset v) := ⟨rfl, rfl, rfl⟩
theorem go_writes (p : Path) (len : BitVec 25) (func : BitVec 4) (s : State) :
    Writes (.go p len func) s p 0xC7FB4108 (len.toNat + func.toNat * 2 ^ 25 + 2 ^ 29) fun b =>
      stageGo (b.setReg 0xC7FB4108 0 (len.toNat + func.toNat * 2 ^ 25)) := by
  obtain ⟨r, x, found, address, write⟩ := regFind_stageCtrl
  have fits : len.toNat + func.toNat * 2 ^ 25 < 2 ^ 29 := by have := len.isLt; have := func.isLt; omega
  refine writes_of_row rfl found (fun who b => ?_) fun b => ?_
  · rw [write]
    exact writeStage_go address fits b
  · exact (setReg_keepsWay b _ _ _).trans (stageGo_keepsWay _)

/-- R499: a refused write leaves its status, and nothing else. -/
theorem attestCtrl_refuses_both {b : Block} {n v : Nat} (idle : (b.attest n).busy = false) (report : bit v 0 = true) (certs : bit v 1 = true) :
    let y := attestCtrl b n v
    { y with sec := b.sec } = b ∧ y.sec.partMeas = b.sec.partMeas ∧ y.attest n = { b.attest n with status := Status.descInvalid.code } := by
  rw [attestCtrl_both idle report certs]
  exact ⟨rfl, rfl, modAttest_attest_same _ _ _⟩

/-- Settles O54: it holds. Each command is a write of one register, performed and answered on its path (`writes_of_row`) because nothing that the root of
trust does touches what the answer goes back by (`KeepsWay`); a REPORT or CERTS sees the block after the EXTEND of its own write
(`requested`), which changes the root of trust's state alone; a directive ends at its first failing check or acts on the kept state
(`submit_cases`). -/
theorem security : Obligations.Security := by
  unfold Obligations.Security
  refine ⟨?attest, ?go, ?request, ?directive, ?staging⟩
  case attest =>
    refine fun a n ext s => ⟨?_, ?_, attestCtrl_writes rfl, submit_writes a s⟩
    · cases ext with
      | false => exact attestCtrl_writes rfl
      | true => exact attestCtrl_writes rfl
    · cases ext with
      | false => exact attestCtrl_writes rfl
      | true => exact attestCtrl_writes rfl
  case go => exact fun a len func s => go_writes a len func s
  case request =>
    refine fun b n v _ => ⟨attestCtrl_busy v, attestCtrl_refuses_both, fun idle report certs extend => ?_, fun idle one => request_spec idle one⟩
    rw [attestCtrl_extend idle report certs extend]
    exact extended_spec b n
  case directive =>
    intro b i3c
    generalize hd : b.sec.dirWin.read 0 5488 = d
    refine ⟨fun form => ?_, fun form addressed => ?_, fun form addressed owner => ?_, fun form addressed owner signed => ?_,
      fun form addressed owner signed => ?_, submit_measured hd⟩
    case refine_1 => rw [submit_malformed hd form]; exact directiveEnds_of_refused b d 1 _
    case refine_2 => rw [submit_misaddressed hd form addressed]; exact directiveEnds_of_refused b d 2 _
    case refine_3 => rw [submit_wrongOwner hd form addressed owner]; exact directiveEnds_of_refused b d 3 _
    case refine_4 => rw [submit_unsigned hd form addressed owner signed]; exact directiveEnds_of_refused b d 4 _
    case refine_5 =>
      have genuine : Genuine b d := ⟨form, addressed, owner, signed⟩
      exact ⟨submit_svn_above hd genuine, submit_svn hd genuine, submit_debug_disabled hd genuine, submit_debug_spent hd genuine,
        submit_debug_other hd genuine, submit_debug hd genuine, submit_owner_second hd genuine, submit_owner_first hd genuine,
        submit_owner_none hd genuine, submit_owner_barred hd genuine⟩
  case staging => exact fun b => ⟨stageGo_busy, stageGo_spec⟩

end Sys2Proof.Security
end
